-- ==== Sys2Proof/Word.lean ====
section
/-! DEFINITION. The word types of the Lemmiber and the plainest arithmetic on them (00 R3: bit 0 is the least
significant bit, multi-byte values are little-endian). -/

namespace Sys2Proof

abbrev Byte := BitVec 8
/-- A 32-bit vector element or mask. -/
abbrev W32 := BitVec 32
/-- A scalar register's contents. -/
abbrev W64 := BitVec 64
/-- A capability's data bits (01 R9). -/
abbrev W128 := BitVec 128
/-- A 57-bit virtual address (01 R21). -/
abbrev VA := BitVec 57
/-- One bit per lane (07 R173). -/
abbrev Mask := BitVec 32
/-- A vector register number v0-v255. -/
abbrev VReg := BitVec 8
/-- A scalar register number s0-s63. -/
abbrev SReg := BitVec 6
/-- A capability register number c0-c15. -/
abbrev CReg := BitVec 4
/-- A mask register number k0-k7. -/
abbrev KReg := BitVec 3

end Sys2Proof
end

