-- ==== Sys2Proof/Machine/Store.lean ====
section
/-! DEFINITION. Finite stores: lists of (key, value) pairs with strictly rising keys. Every sparse part of the state
(memory, register files, tables) is one of these, so equal contents are equal data. -/

namespace Sys2Proof.Machine

/-- A sorted association list. -/
abbrev Store (α : Type) := List (Nat × α)

namespace Store

variable {α : Type}

/-- The value stored under a key. -/
def find : Store α → Nat → Option α
  | [], _ => none
  | (k, v) :: r, n => if n = k then some v else find r n

/-- The value stored under a key, or a default. -/
def get (d : α) (m : Store α) (n : Nat) : α := (find m n).getD d

/-- Stores a value, keeping the keys rising. -/
def put : Store α → Nat → α → Store α
  | [], n, x => [(n, x)]
  | (k, v) :: r, n, x =>
    if n < k then (n, x) :: (k, v) :: r else if n = k then (k, x) :: r else (k, v) :: put r n x

/-- Removes a key. -/
def del (m : Store α) (n : Nat) : Store α := m.filter fun e => e.1 != n

/-- Stores a value in canonical form: the value that an unlisted key reads as is not listed. -/
def set [DecidableEq α] (d : α) (m : Store α) (n : Nat) (x : α) : Store α :=
  if x = d then del m n else put m n x

/-- Whether every key is above `n` and the keys rise. -/
def risingFrom : Nat → Store α → Bool
  | _, [] => true
  | n, (k, _) :: r => decide (n ≤ k) && risingFrom (k + 1) r

/-- The keys rise strictly. -/
def rising (m : Store α) : Bool := risingFrom 0 m

/-- The keys rise strictly and no entry is the default. -/
def canon [DecidableEq α] (d : α) (m : Store α) : Bool := rising m && m.all fun e => e.2 != d

/-- Applies a function to the value under a key, starting from a default. -/
def upd (d : α) (m : Store α) (n : Nat) (f : α → α) : Store α := put m n (f (get d m n))

/-- The first key whose value satisfies a test. -/
def findKey? (m : Store α) (p : α → Bool) : Option Nat := (m.find? fun e => p e.2).map (·.1)

end Store

/-- Inserts a number into a strictly rising list. -/
def insertNat : List Nat → Nat → List Nat
  | [], n => [n]
  | k :: r, n => if n < k then n :: k :: r else if n = k then k :: r else k :: insertNat r n

/-- Removes a number from a strictly rising list. -/
def removeNat (l : List Nat) (n : Nat) : List Nat := l.filter (· != n)

end Sys2Proof.Machine
end

