-- ==== Sys2Proof/Config.lean ====
section
/-! DEFINITION. What the manual leaves free: constants without a body, so that no proof can see a value, and the
few numbers the model fixes. Every entry is named in a row of notes/assumptions. -/

namespace Sys2Proof

/-- How many core cycles pass at the n-th step of the machine, less one (00 R435: no latency is architected;
13 R338). Assumption 3. -/
opaque Config.cycleGap : Nat → Nat

/-- SHAKE256 with a 512-bit output, of FIPS 202, which the manual names and does not define (13 R349). Assumption 4. -/
opaque Config.shake256 : List Byte → BitVec 512

/-- The verdict of an SLH-DSA verification: parameter set, public key, message, signature (13 R349). Assumption 4. -/
opaque Config.slhVerify : Nat → List Byte → List Byte → List Byte → Bool

/-- An SLH-DSA signature: parameter set, which key of the package signs, message (20 R429, R433). Assumption 4. -/
opaque Config.slhSign : Nat → Nat → List Byte → List Byte

/-- The key fused in the boot ROM and its parameter set, which the manual does not give (20 R422). Assumption 4. -/
opaque Config.romKey : Nat × List Byte

/-- The eight bytes that answer sideband command 0x01, of which the manual gives the length only: from the boot stage and
the number of spared structures (20 R434). Assumption 4. -/
opaque Config.bootAnswer : Nat → Nat → BitVec 64

/-- What the manual leaves open within an engine command: the order of its writes, which bytes it moved before a fault,
and how often an overlapping copy saw its own writes (05 R135, R138; 03 R100). Assumption 19. -/
opaque Config.engineKey : Nat → Nat → Nat

/-- Whether the n-th push that finds the on-chip stack entries in use fails at the spill area, whose place firmware chooses, and at which
address (07 R178, 16 Table 16.1). Assumption 131. -/
opaque Config.spillFails : Nat → Option (BitVec 64)

/-- Whether the n-th write or read of a save record faults, in memory whose place firmware chooses (16 R400). Assumption 136. -/
opaque Config.saveFails : Nat → Bool

end Sys2Proof
end

