-- ==== Sys2Proof/Syntax.lean ====
section
/-! DEFINITION. The instructions and events of the opcode table as one inductive, `Instr`, with the types of their
operands and of what messages carry. -/

namespace Sys2Proof

/-! ### Operand types -/

/-- Scalar operand types, TY codes 0-3 (10 R259). -/
inductive STy where | i32 | n32 | i64 | n64
  deriving DecidableEq, Repr

/-- Element types, TY codes 0-14 (09 Table 9.4). -/
inductive ETy where
  | i32 | n32 | i64 | n64 | i16x2 | n16x2 | i8x4 | n8x4 | f32 | f64 | f16x2 | bf16x2 | b32 | f16 | bf16
  deriving DecidableEq, Repr

/-- Compare conditions of SCMP, VCMP and WAITC (10 R263, 12 R321). -/
inductive Cmp where | eq | ne | lt | le | gt | ge
  deriving DecidableEq, Repr

/-- Compare conditions of VFCMP, FN 0-7 (11 R287). -/
inductive FCmp where | eq | ne | lt | le | gt | ge | uo | or
  deriving DecidableEq, Repr

/-- A predicate: mask register K, negated when KN (09 R219). -/
structure Pred where
  k  : KReg
  kn : Bool
  deriving DecidableEq, Repr

/-- The rounding codes of SC (08 Table 8.3). -/
inductive Rm where | rne | rtz | rdn | rup | rna | dyn
  deriving DecidableEq, Repr

/-- Rounding and result group of a float instruction (08 R202). -/
structure Rnd where
  rm  : Rm
  sat : Bool
  deriving DecidableEq, Repr

/-- Second operand of a scalar instruction: register or immediate form (10 R260). -/
inductive SSrc where
  | reg (r : SReg)
  | imm (v : Byte)
  deriving DecidableEq, Repr

/-- Last vector source: register, immediate or scalar form (11 Table 11.1). -/
inductive VSrc where
  | reg (r : VReg)
  | imm (v : Byte)
  | sc  (r : SReg)
  deriving DecidableEq, Repr

/-- Condition of BRC (10 R251). -/
inductive BrCond where
  | any (p : Pred)
  | all (p : Pred)
  | nz (a : SReg)
  | z (a : SReg)
  deriving DecidableEq, Repr

/-- Fields that CGET reads, FN 0-8 (10 R268). -/
inductive CField where | cursor | base | top | len | perm | tag | e | lo | hi
  deriving DecidableEq, Repr

/-- Mask shifts, FN 0-2 (10 Table 10.4). -/
inductive KShift where | l | r | rot
  deriving DecidableEq, Repr

/-- Reduction operations, FN 0-8 (11 Table 11.6). -/
inductive Red where | add | min | max | and | or | xor | fadd | fmin | fmax
  deriving DecidableEq, Repr

/-- The forms of VBCAST (11 R298). -/
inductive Bcast where
  | lane (p : Pred) (d : VReg) (n : BitVec 5)
  | first (p : Pred) (d : VReg)
  | ts (d : SReg) (n : BitVec 5)
  deriving DecidableEq, Repr

/-- The forms of VVOTE (11 R300). -/
inductive Vote where
  | mk (d : KReg)
  | cnt (d : SReg)
  | lo (d : SReg)
  | hi (d : SReg)
  | eq (d : SReg)
  deriving DecidableEq, Repr

/-- The forms of ELECT (11 R302). -/
inductive Elect where
  | k (d : KReg)
  | s (d : SReg)
  deriving DecidableEq, Repr

/-- Access sizes, FN 0-3 (12 Table 12.3). -/
inductive Size where | full | byte | half | word
  deriving DecidableEq, Repr

/-- Cache policies (09 R221). -/
inductive Policy where | ca | sl | st
  deriving DecidableEq, Repr

/-- Scopes, SC 0-5 (03 Table 3.1). -/
inductive Scope where | grp | core | die | pkg | dom | sys
  deriving DecidableEq, Repr

/-- Orderings, ORDQ (09 Table 9.2). -/
inductive Ord where | plain | acq | rel | ar
  deriving DecidableEq, Repr

/-- The qualifiers of a memory access: ordering, scope, cache policy (09 R221). -/
structure MemQ where
  ord : Ord
  sc  : Scope
  cp  : Policy
  deriving DecidableEq, Repr

/-- Address modes, MOD 0-6 (12 Table 12.2). -/
inductive AMode where
  | c (a : CReg)
  | cs (a : CReg) (b : SReg)
  | cv (a : CReg) (b : VReg)
  | cp (a : CReg) (b : VReg)
  | scr
  | scrs (b : SReg)
  | scrv (b : VReg)
  deriving DecidableEq, Repr

/-- The offset of a load or store: C in the 64-bit form, IMM32 in the 96-bit form (12 Table 12.1). -/
inductive Off where
  | short (v : Byte)
  | long (v : W32)
  deriving DecidableEq, Repr

/-- Read-modify-write operations, FN 0-12 (12 Table 12.5). -/
inductive Rmw where
  | add | smin | smax | umin | umax | and | or | xor | swap | fadd | pmax | pmaxs | sup
  deriving DecidableEq, Repr

/-- L2PF's operations, FN 0-2 (12 R312). -/
inductive L2Op where | fill | retain | release
  deriving DecidableEq, Repr

/-- FFILL's forms (13 R330). -/
inductive Fill where
  | value (b : SReg)
  | cancel
  deriving DecidableEq, Repr

/-- REGRP's forms (13 R333). -/
inductive Regrp where
  | range (b c : VReg)
  | flush
  deriving DecidableEq, Repr

/-- QAPP's forms (13 R335). -/
inductive QApp where
  | app (b : SReg)
  | close
  deriving DecidableEq, Repr

/-- TWAIT's forms (14 R368). -/
inductive TwForm where
  | back (c : Byte)
  | reg (a : SReg) (imm : W32)
  deriving DecidableEq, Repr

/-- Special registers 0-12 (13 Table 13.4). -/
inductive Sr where
  | laneid | grpid | core | die | pkg | cycle | fut | cause | faddr | epc | emask | fpcsr | f4x
  deriving DecidableEq, Repr

/-- RDSR's forms (13 R339). -/
inductive RdDst where
  | s (d : SReg)
  | v (d : VReg)
  | c (d : CReg)
  deriving DecidableEq, Repr

/-- CFLUSH's scopes, FN 0-2 (13 R343). -/
inductive FlushScope where | core | die | pkg
  deriving DecidableEq, Repr

/-! ### Names of the machine's parts -/

/-- A group slot: core 0-255 (32 × die + core within the die) and slot 0-63. -/
structure GrpId where
  core : Nat
  slot : Nat
  deriving DecidableEq, Repr

/-- A path slot of a group: A when `b` is false, B when true (07 R175). -/
structure PathId where
  core : Nat
  slot : Nat
  b    : Bool
  deriving DecidableEq, Repr

/-- Who waits: a path of a resident group, or of a saved one, named by die and save record (07 Table 7.4). -/
inductive Waiter where
  | res (p : PathId)
  | saved (die : Nat) (rec : Nat) (b : Bool)
  deriving DecidableEq, Repr

/-- A capability or memory granule with its hidden tag (01 R9). -/
structure Cap where
  bits : W128
  tag  : Bool
  deriving DecidableEq, Repr

/-- The kinds of access that the page checks of 01 R27 tell apart. -/
inductive Acc where | load | store | atomic | fetch | cst
  deriving DecidableEq, Repr

/-- What a leaf says of a part of an access once it has translated (01 Table 1.5). -/
structure PageInfo where
  mt   : Nat
  ord  : Nat
  tags : Bool
  pol  : Policy
  deriving DecidableEq, Repr

/-- What an access does at its performing point. -/
inductive Act where
  | load
  | loadCap (lc : Bool)
  | store (bytes : List Byte)
  | storeCap (v : W128) (tag : Bool)
  | rmw (op : Rmw) (w : Nat) (x : W64)
  | cas (w : Nat) (exp new : W64)
  | poll
  /-- a barrier arrival, BARC (02 R74) -/
  | arrive
  deriving DecidableEq, Repr

/-- One part of one lane's access of the counted operation `op`, on its way to its performing point. `page.pol`
is the effective policy (01 R33); `early` says that the store is already in the issuing core's L1 (02 R63). -/
structure Req where
  op   : Nat
  lane : Nat
  part : Nat
  core : Nat
  asid : Nat
  va   : Nat
  pa   : Nat
  len  : Nat
  page : PageInfo
  act  : Act
  rel  : Option Scope
  acq  : Option Scope
  early : Bool
  deriving DecidableEq, Repr

/-- States of a deque entry (07 R186). -/
inductive EState where | pending | ready | running
  deriving DecidableEq, Repr

/-- A deque entry: its launch and its closure with one tag bit per granule (07 Table 7.2). `eid` is the model's own
number for it; `tiles` holds the tiles that have landed. -/
structure Entry where
  eid     : Nat
  launch  : Nat
  closure : BitVec 1024
  ctags   : BitVec 8
  st      : EState
  staging : Bool
  tiles   : List Nat
  deriving DecidableEq, Repr

/-- The allowance operations carried by AOP (04 Table 4.2). -/
inductive AOp where
  | acinit (total q : W64)
  | ainc (k : W64)
  | areadx
  | areada
  deriving DecidableEq, Repr

/-- What a waiting allowance operation asks of the home (04 R118). -/
inductive AReqKind where
  | adec (k : W64) (nw : Bool)
  | aop (o : AOp)
  deriving DecidableEq, Repr

/-- What the pager did to resolve a fault: the page table entries that it wrote, the frame it placed the page in, and
whether the page stands away from its home memory or is a read replica (01 R43). -/
structure Placement where
  writes    : List (Nat × W128)
  frame     : Nat
  displaced : Bool
  replica   : Bool
  deriving DecidableEq, Repr

/-- The pager's answers (16 R397). -/
inductive Settle where
  | done (p : Option Placement)
  | long
  | fail
  deriving DecidableEq, Repr

/-- What a fault record tells the pager (16 Table 16.2). -/
structure FaultRec where
  asid  : Nat
  wid   : Option Waiter
  cause : Nat
  kind  : Nat
  acc   : Nat
  orig  : Nat
  ctx   : Nat
  va    : Nat
  deriving DecidableEq, Repr

/-- The completion statuses of a packet (15 Table 15.3), and SKIPPED (15 R381). -/
inductive PStatus where
  | ok | haltSeq | haltField | haltOpcode | haltRange | baddesc | notroot | closed | fault | aborted | skipped
  deriving DecidableEq, Repr

/-- What firmware does to a resident group at the host's request (16 R404): it sets the debug bit, lets a halted path issue
one instruction, or writes a part of a halted group's saved state. -/
inductive DebugAct where
  | mark
  | step
  | sreg (r : SReg) (v : W64)
  | vreg (r : VReg) (m : Mask) (v : List W32)
  | creg (r : CReg) (v : Cap)
  | kreg (r : KReg) (v : Mask)
  | special (r : Sr) (v : W64)
  | pc (a : VA)
  | mask (m : Mask)
  | scratch (off : Nat) (bytes : List Byte)
  | tob (off : Nat) (bytes : List Byte)
  deriving DecidableEq, Repr

/-- The fields of an exchange descriptor that DEMAND carries (06 Table 6.2). -/
structure XDesc where
  n     : Nat
  cs    : Nat
  segc  : Nat
  carry : Bool
  arb   : Nat
  stby  : Nat
  xid   : W64
  postt : Nat
  ringt : Nat
  eps   : List Nat
  deriving DecidableEq, Repr

/-- A grant of one change (06 R156). -/
structure XGrant where
  change : Nat
  src    : Nat
  dst    : Nat
  bytes  : Nat
  roff   : Nat
  poff   : Nat
  deriving DecidableEq, Repr

/-- A structure that errors are counted for (20 Table 20.2): its STRUCT code and WHERE value. -/
structure ErrUnit where
  die    : Nat
  struct : Nat
  place  : Nat
  deriving DecidableEq, Repr

/-- A Veori image presented to the loader: its bytes (13 R347), and for each segment the offsets of the values that afrok emitted
with .cap (13 R351). -/
structure Image where
  file : List Byte
  caps : List (List Nat)
  deriving DecidableEq, Repr

/-- The memory that firmware gives a load: where a context that is to be installed stands, the frames of the image's pages in
order, and frames for the tables that are missing. -/
structure LoadRoom where
  ctx    : Nat
  frames : List Nat
  tables : List Nat
  deriving DecidableEq, Repr

/-- The way of an exchange message: the identifier of the die it goes to, and of the one that sends it (06 R151). -/
structure Way where
  die : Nat
  src : Nat
  deriving DecidableEq, Repr

/-- A STACK: the core it goes to, the slice that sends it, and the store it answers (02 R61). -/
structure StoreAnswer where
  core  : Nat
  slice : Nat
  sid   : Nat
  deriving DecidableEq, Repr

/-! ### The instructions and events -/

/-- One constructor per row of the opcode table. The first part is the instruction set of 09 Table 9.7, with its
operands; the second part is the clause header and the part's own steps, with what each message or input carries. -/
inductive Instr where
  -- control (10 Table 10.1)
  | br (off : W32)
  | brc (c : BrCond) (off : W32)
  | brd (p : Pred) (t rc : W32)
  | call (d : SReg) (off : W32)
  | ret (a : SReg)
  | jmpi (a : SReg)
  | loop (a : SReg) (off : W32)
  -- scalar (10 Table 10.2)
  | sadd (ty : STy) (d a : SReg) (y : SSrc)
  | ssub (ty : STy) (d a : SReg) (y : SSrc)
  | smul (ty : STy) (d a : SReg) (y : SSrc)
  | smulh (ty : STy) (d a : SReg) (y : SSrc)
  | sdiv (ty : STy) (d a : SReg) (y : SSrc)
  | srem (ty : STy) (d a : SReg) (y : SSrc)
  | sand (ty : STy) (d a : SReg) (y : SSrc)
  | sor (ty : STy) (d a : SReg) (y : SSrc)
  | sxor (ty : STy) (d a : SReg) (y : SSrc)
  | sshl (ty : STy) (d a : SReg) (y : SSrc)
  | sshr (ty : STy) (d a : SReg) (y : SSrc)
  | ssra (ty : STy) (d a : SReg) (y : SSrc)
  | smin (ty : STy) (d a : SReg) (y : SSrc)
  | smax (ty : STy) (d a : SReg) (y : SSrc)
  | scmp (c : Cmp) (ty : STy) (d a : SReg) (y : SSrc)
  | ssel (ty : STy) (d a b c : SReg)
  | smov (ty : STy) (d : SReg) (y : SSrc)
  | sli (ty : STy) (d : SReg) (imm : W64)
  | saddi (ty : STy) (d a : SReg) (imm : W32)
  | sbfe (ty : STy) (d a : SReg) (pos len : Byte)
  | sbfi (ty : STy) (d a : SReg) (pos len : Byte)
  | spopc (ty : STy) (d a : SReg)
  | sclz (ty : STy) (d a : SReg)
  -- capability (10 Table 10.3)
  | cbnd (ex : Bool) (d a : CReg) (b : SReg)
  | cinc (d a : CReg) (b : SReg)
  | cinci (d a : CReg) (imm : W32)
  | cperm (d a : CReg) (b : SReg)
  | cget (f : CField) (d : SReg) (a : CReg)
  | ctest (d : SReg) (a : CReg) (b : SReg) (m : BitVec 7)
  | csub (d : SReg) (a b : CReg)
  -- mask (10 Table 10.4)
  | kbool (d a b : KReg) (tt : BitVec 4)
  | kget (d : SReg) (a : KReg)
  | kset (d : KReg) (a : SReg)
  | kcnt (d : SReg) (a : KReg)
  | kfind (hi : Bool) (d : SReg) (a : KReg)
  | kshf (f : KShift) (d a : KReg) (n : BitVec 5)
  | kquad (all : Bool) (d a : KReg)
  -- vector integer (11 Table 11.2)
  | vadd (p : Pred) (ty : ETy) (sat : Bool) (d a : VReg) (y : VSrc)
  | vsub (p : Pred) (ty : ETy) (sat : Bool) (d a : VReg) (y : VSrc)
  | vmul (p : Pred) (ty : ETy) (sat : Bool) (d a : VReg) (y : VSrc)
  | vmulh (p : Pred) (ty : ETy) (d a : VReg) (y : VSrc)
  | vmad (p : Pred) (ty : ETy) (sat : Bool) (d a : VReg) (y : VSrc) (c : VReg)
  | vand (p : Pred) (ty : ETy) (d a : VReg) (y : VSrc)
  | vor (p : Pred) (ty : ETy) (d a : VReg) (y : VSrc)
  | vxor (p : Pred) (ty : ETy) (d a : VReg) (y : VSrc)
  | vnot (p : Pred) (ty : ETy) (d a : VReg)
  | vshl (p : Pred) (ty : ETy) (d a : VReg) (y : VSrc)
  | vshr (p : Pred) (ty : ETy) (d a : VReg) (y : VSrc)
  | vsra (p : Pred) (ty : ETy) (d a : VReg) (y : VSrc)
  | vmin (p : Pred) (ty : ETy) (d a : VReg) (y : VSrc)
  | vmax (p : Pred) (ty : ETy) (d a : VReg) (y : VSrc)
  | vabs (p : Pred) (ty : ETy) (sat : Bool) (d a : VReg)
  | vcmp (p : Pred) (c : Cmp) (ty : ETy) (d : KReg) (a : VReg) (y : VSrc)
  | vsel (p : Pred) (ty : ETy) (d a : VReg) (y : VSrc) (c : KReg)
  | vmov (p : Pred) (ty : ETy) (d : VReg) (y : VSrc)
  | vli (p : Pred) (ty : ETy) (d : VReg) (imm : W32)
  | vpopc (p : Pred) (ty : ETy) (d a : VReg)
  | vclz (p : Pred) (ty : ETy) (d a : VReg)
  | vbrev (p : Pred) (ty : ETy) (d a : VReg)
  | vbfe (p : Pred) (ty : ETy) (d a : VReg) (pos len : Byte)
  | vbfi (p : Pred) (ty : ETy) (d a : VReg) (pos len : Byte)
  | vdp4 (p : Pred) (su : Bool) (ty : ETy) (sat : Bool) (d a : VReg) (y : VSrc) (c : VReg)
  -- vector float (11 Table 11.3)
  | vfadd (p : Pred) (ty : ETy) (r : Rnd) (d a : VReg) (y : VSrc)
  | vfsub (p : Pred) (ty : ETy) (r : Rnd) (d a : VReg) (y : VSrc)
  | vfmul (p : Pred) (ty : ETy) (r : Rnd) (d a : VReg) (y : VSrc)
  | vfma (p : Pred) (ty : ETy) (r : Rnd) (d a : VReg) (y : VSrc) (c : VReg)
  | vfmin (p : Pred) (ty : ETy) (d a : VReg) (y : VSrc)
  | vfmax (p : Pred) (ty : ETy) (d a : VReg) (y : VSrc)
  | vfcmp (p : Pred) (c : FCmp) (ty : ETy) (d : KReg) (a : VReg) (y : VSrc)
  | vfrcp (p : Pred) (ty : ETy) (r : Rnd) (d a : VReg)
  | vfrsq (p : Pred) (ty : ETy) (r : Rnd) (d a : VReg)
  | vfsqrt (p : Pred) (ty : ETy) (r : Rnd) (d a : VReg)
  | vfdiv (p : Pred) (ty : ETy) (r : Rnd) (d a : VReg) (y : VSrc)
  | vfexp2 (p : Pred) (ty : ETy) (r : Rnd) (d a : VReg)
  | vflog2 (p : Pred) (ty : ETy) (r : Rnd) (d a : VReg)
  | vfsin (p : Pred) (ty : ETy) (r : Rnd) (d a : VReg)
  | vfcos (p : Pred) (ty : ETy) (r : Rnd) (d a : VReg)
  | vftanh (p : Pred) (ty : ETy) (r : Rnd) (d a : VReg)
  | vfcvt (p : Pred) (dst src : Byte) (part : BitVec 3) (r : Rnd) (d a : VReg)
  | vftoi (p : Pred) (u : Bool) (ty : ETy) (rm : Rm) (d a : VReg)
  | vitof (p : Pred) (bf : Bool) (ty : ETy) (r : Rnd) (d a : VReg)
  | vfrnd (p : Pred) (ty : ETy) (rm : Rm) (d a : VReg)
  | vfclass (p : Pred) (ty : ETy) (d a : VReg)
  | vfscale (p : Pred) (ty : ETy) (r : Rnd) (d a : VReg) (y : VSrc)
  | vfdot2 (p : Pred) (ty : ETy) (r : Rnd) (d a : VReg) (y : VSrc) (c : VReg)
  -- cross-lane (11 Table 11.5)
  | vshuf (p : Pred) (ty : ETy) (d a b : VReg)
  | vrot (p : Pred) (q : Bool) (ty : ETy) (d a : VReg) (n : BitVec 5)
  | vbcast (f : Bcast) (ty : ETy) (a : VReg)
  | vred (p : Pred) (op : Red) (ty : ETy) (d : SReg) (a : VReg)
  | vscan (p : Pred) (op : Red) (ex : Bool) (ty : ETy) (d a : VReg)
  | vvote (p : Pred) (f : Vote) (ty : ETy) (a : VReg)
  | vcompact (p : Pred) (ty : ETy) (d a : VReg)
  | vmatch (p : Pred) (ty : ETy) (d a : VReg)
  | elect (p : Pred) (f : Elect)
  -- memory (12 Table 12.4)
  | ld (sz : Size) (ty : STy) (q : MemQ) (d : SReg) (m : AMode) (off : Off)
  | st (sz : Size) (ty : STy) (q : MemQ) (d : SReg) (m : AMode) (off : Off)
  | vld (p : Pred) (sz : Size) (ty : ETy) (q : MemQ) (d : VReg) (m : AMode) (off : Off)
  | vst (p : Pred) (sz : Size) (ty : ETy) (q : MemQ) (d : VReg) (m : AMode) (off : Off)
  | vldc (p : Pred) (sz : Size) (ty : ETy) (q : MemQ) (d : VReg) (m : AMode) (off : Off)
  | vstc (p : Pred) (sz : Size) (ty : ETy) (q : MemQ) (d : VReg) (m : AMode) (off : Off)
  | cld (q : MemQ) (d : CReg) (m : AMode) (off : Off)
  | cst (q : MemQ) (d : CReg) (m : AMode) (off : Off)
  | vlds (p : Pred) (sz : Size) (ty : ETy) (d : VReg) (m : AMode) (off : Off)
  | vsts (p : Pred) (sz : Size) (ty : ETy) (d : VReg) (m : AMode) (off : Off)
  | pref (cp : Policy) (m : AMode) (off : Off)
  | l2pf (op : L2Op) (tok : SReg) (ctx : BitVec 4) (a : CReg) (b : SReg)
  -- atomics and bank (12 Table 12.6); the offset is IMM32, or 0 in the 64-bit form
  | amo (op : Rmw) (ty : ETy) (q : MemQ) (d : SReg) (m : AMode) (off : Option W32) (c : SReg)
  | acas (ty : ETy) (q : MemQ) (d : SReg) (m : AMode) (off : Option W32) (c : SReg)
  | vamo (p : Pred) (op : Rmw) (ty : ETy) (q : MemQ) (d : VReg) (m : AMode) (off : Option W32) (c : VReg)
  | vacas (p : Pred) (ty : ETy) (q : MemQ) (d : VReg) (m : AMode) (off : Option W32) (c : VReg)
  | bop (op : Rmw) (ty : ETy) (q : MemQ) (d : SReg) (m : AMode) (off : Option W32) (c : SReg)
  | bcas (ty : ETy) (q : MemQ) (d : SReg) (m : AMode) (off : Option W32) (c : SReg)
  | vbop (p : Pred) (op : Rmw) (ty : ETy) (q : MemQ) (d : VReg) (m : AMode) (off : Option W32) (c : VReg)
  | bupd (op : Rmw) (ty : ETy) (tok : SReg) (ctx : BitVec 4) (a : CReg) (b c : SReg)
  -- allowance (12 Table 12.7)
  | acinit (d : SReg) (a : CReg) (b c : SReg)
  | adec (nw : Bool) (d : SReg) (a : CReg) (b : SReg)
  | ainc (d : SReg) (a : CReg) (b : SReg)
  | areadx (d : SReg) (a : CReg)
  | areada (d : SReg) (a : CReg)
  | acret (d : SReg) (a : CReg)
  -- synchronisation (12 R320-R325)
  | fence (u : Bool) (ord : Ord) (sc : Scope)
  | waitc (c : Cmp) (ty : STy) (ord : Ord) (sc : Scope) (d : SReg) (m : AMode) (off : Option W32) (x : SReg)
  | poll (ty : STy) (ord : Ord) (sc : Scope) (d : SReg) (m : AMode) (off : Off)
  | bari (d : SReg) (a : CReg) (b : SReg)
  | bara (sc : Scope) (d : SReg) (a : CReg)
  | barw (sc : Scope) (d : SReg) (a : CReg) (b : SReg)
  | baraw (sc : Scope) (d : SReg) (a : CReg)
  -- tasks (13 Table 13.1)
  | spawn (m : AMode) (off : Byte)
  | spawnl (m : AMode) (off : Byte)
  | fnew (d : SReg) (a : CReg)
  | ffill (f : Fill) (d : SReg) (a : CReg)
  | join (t : Bool) (d : SReg) (a : CReg)
  | joint (d : SReg) (a : CReg)
  | exit (v : Option SReg)
  | regrp (f : Regrp) (d : SReg) (a : CReg)
  | qpop (nb : Bool) (d : SReg) (a : CReg) (b : SReg)
  | qapp (f : QApp) (d : SReg) (a : CReg)
  | waitpred (d : SReg)
  -- matrix (14 R355-R362)
  | plane (b : Bool) (p : Pred) (ty : ETy) (r : Rnd) (d : SReg) (a : VReg) (n : BitVec 2) (seg : Byte)
  | mfmt (n : BitVec 2) (a : SReg)
  | mma (p : Pred) (d a : VReg) (n : BitVec 2)
  | mzero (p : Pred) (d : VReg)
  -- engines and exchange (14 Table 14.2)
  | cpy (st : Bool) (tok : SReg) (ctx : BitVec 4) (a b : CReg) (c : SReg)
  | cpyt (store : Bool) (st : Bool) (tok : SReg) (ctx : BitVec 4) (a b c : SReg)
  | stage (st : Bool) (tok : SReg) (ctx : BitVec 4) (a b c : SReg)
  | drain (add : Bool) (i32 : Bool) (st : Bool) (tok : SReg) (ctx : BitVec 4) (a : VReg) (b c : SReg)
  | twait (ctx : BitVec 4) (f : TwForm)
  | tread (clr : Bool) (d : SReg) (ctx : BitVec 4)
  | dpost (tok : SReg) (ctx : BitVec 4) (a b c : CReg)
  | xsend (tok : SReg) (ctx : BitVec 4) (a b c : CReg)
  | xwait (unbind : Bool) (d : SReg) (a : CReg)
  | xstat (d : SReg) (a : CReg) (b : SReg)
  -- system (13 Table 13.5)
  | rdsr (f : RdDst) (r : Sr)
  | wrsr (r : Sr) (a : SReg)
  | trap (imm : Byte)
  | phint (d a b c : VReg) (smask : W32) (scrx : BitVec 16) (tobl : Bool)
  | brk (imm : Byte)
  | invv (pkg : Bool) (a : CReg) (b : SReg)
  | cflush (f : FlushScope) (a : CReg) (b : SReg)
  -- the clause header (09 Table 9.5)
  | clauseHeader (wait : BitVec 12) (seta setb : BitVec 4) (cnt : BitVec 6) (yield : Bool)
  -- issue and completion
  | countedComplete (op : Nat)
  | pollDelayEnd (p : PathId)
  -- translation
  | shootdownComplete (sid : Nat)
  -- the memory hierarchy
  | fillreq (core asid va pa : Nat)
  | fillrsp (core asid va pa : Nat) (data : BitVec 1024) (tags : BitVec 8) (ver : W32)
  | sliceStore (r : Req)
  | sliceLoad (r : Req)
  | upd (core sid asid vl : Nat) (pa : Nat) (bytes : List Byte) (off : Nat) (tags : BitVec 8) (ver : W32) (own : Bool)
  | uack (sid core asid vb : Nat) (pa : Nat) (applied : Bool)
  | inv (core slice iid asid : Nat) (lines : Nat × Nat) (ver : W32)
  | iack (iid core : Nat)
  | stack (m : StoreAnswer)
  | lreq (core asid va pa : Nat)
  | lgrant (core asid va pa : Nat) (data : BitVec 1024) (tags : BitVec 8) (ver : W32)
  | lrecall (core pa : Nat)
  | lret (core pa : Nat) (data : BitVec 1024) (dirty : BitVec 128) (tags : BitVec 8)
  | homeAtomic (r : Req)
  | bankAccess (r : Req)
  | bankAluOp (r : Req)
  | gong (w : Waiter)
  | guestFlush (die line : Nat) (data : BitVec 1024) (dirty : BitVec 128) (tags : BitVec 8)
  | remoteAccess (r : Req)
  | mmioAccess (r : Req)
  -- allowance messages (04 Table 4.2)
  | areq (core rec op : Nat) (k a : W64) (nw : Bool)
  | aop (core rec op : Nat) (o : AOp)
  | agrant (core rec op : Nat) (status : Nat) (g value : W64) (rseq : W32)
  | rcall (core rec : Nat) (rseq : W32)
  | rret (core rec : Nat) (rseq : W32) (amount : W64)
  | aret (core rec : Nat) (amount : W64)
  | drop (core rec : Nat)
  -- engines
  | commandStart (core ctx n : Nat)
  | commandComplete (core ctx n : Nat)
  | autoStageStart (core : Nat)
  | tileLand (core eid tile : Nat)
  -- deque and stealing
  | dequeRefill (core : Nat)
  | dispatch (core : Nat)
  | stealRequest (victim thief : Nat) (brr : W64) (idle : Bool) (kib : Option Nat)
  | stealAnswer (thief victim : Nat) (e : Option Entry)
  -- the front end
  | packetFetch (part q : Nat)
  | packetStart (part q num : Nat)
  | launch (part q num : Nat)
  | feed (part q num : Nat)
  | feedAppend (part q num i : Nat)
  | copy (part q num : Nat)
  | signal (part q num : Nat)
  | waittl (part q num : Nat)
  | zero (part q num : Nat)
  | inval (part q num : Nat)
  | qfence (part q num : Nat)
  | rootPlace (lid root : Nat)
  | packetComplete (part q num : Nat) (status : PStatus) (detail : W64)
  | completionRecord (part q : Nat)
  -- saves, faults and pre-emption
  | faultRecord (die : Nat) (f : FaultRec)
  | groupSave (g : GrpId)
  -- the exchange (06 Table 6.2); `die` is the die that the message reaches
  | demand (die src : Nat) (round : Nat) (row : List Nat) (f : XDesc)
  | dack (die src : Nat) (xid : W64) (round : Nat)
  | layout (way : Way) (xid : W64) (round total : Nat)
  | grant (way : Way) (xid : W64) (round : Nat) (g : XGrant) (stby : Bool)
  | gack (die src : Nat) (xid : W64) (round change : Nat)
  | ring (way : Way) (xid : W64) (round change : Nat) (fin : Bool) (stby : Bool)
  | seg (way : Way) (xid : W64) (round : Nat) (g : XGrant) (off : Nat) (bytes : List Byte)
  | skipseg (way : Way) (xid : W64) (round : Nat) (g : XGrant) (off count : Nat)
  | sack (way : Way) (xid : W64) (round : Nat) (g : XGrant) (off len : Nat)
  | snak (way : Way) (xid : W64) (round : Nat) (g : XGrant) (off len ecode : Nat)
  | short (way : Way) (xid : W64) (round : Nat) (g : XGrant)
  | chdone (die src : Nat) (xid : W64) (round change : Nat)
  | xabort (die src : Nat) (xid : W64) (round reason : Nat) (toArb : Bool)
  | suspect (die src : Nat) (xid : W64) (round : Nat) (last : Option Nat)
  | arbstop (way : Way) (xid : W64) (round : Nat)
  | lastq (way : Way) (xid : W64) (round : Nat)
  | lasta (die src : Nat) (xid : W64) (round : Nat) (last : Option Nat)
  -- links, failures and the platform
  | renewal (die src : Nat) (epoch : Nat)
  | claim (die src : Nat) (epoch : Nat)
  | guestFlushAck (die line : Nat) (dirty : BitVec 128)
  | renewalAck (die src : Nat) (epoch : Nat)
  | claimAcceptance (die src : Nat) (epoch : Nat)
  | groupRestore (core die rec : Nat)
  -- inputs from outside, timers and choices of the hardware: no step of the model sends one
  | zeroEngineDone (pte lvl : Nat)
  | pathPromotion (p : PathId)
  | pageWalk (die : Nat) (asid : Nat) (va : Nat) (acc : Acc)
  | partitionReassign (die : Nat) (part : Nat)
  | directoryMerge (die slice base k : Nat)
  | hostAccess (pa len : Nat) (write : Option (List Byte))
  | l2ctlWrite (die : Nat) (v : W64)
  | resWrite (die n : Nat) (hi : Bool) (v : W64)
  | registerWrite (addr : Nat) (v : W64)
  | forfeit (core : Nat)
  | stealAttempt (core : Nat)
  | regrpTimeout (pa : Nat)
  | earlyStart (part q num : Nat)
  | doorbell (part q : Nat) (v : W32)
  | queueEnable (part q : Nat)
  | queueResume (part q : Nat) (v : W64)
  | cplack (part q : Nat) (v : W32)
  | swapOut (core : Nat)
  | pgack (die : Nat) (v : W64)
  | pagerSettle (die : Nat) (fseq : Nat) (r : Settle)
  | preemptRequest (g : GrpId)
  | preemptDeadline (g : GrpId)
  | partitionHalt (part : Nat)
  | partitionSwapIn (part : Nat)
  | watchdogExpiry (part : Nat)
  | evack (part : Nat) (v : W64)
  | debugStep (p : PathId) (what : DebugAct)
  | debugStepBack (p : PathId)
  | posttExpiry (die : Nat) (xid : W64) (round : Nat)
  | ringtExpiry (die : Nat) (xid : W64) (round : Nat)
  | standbyRingtExpiry (die : Nat) (xid : W64) (round : Nat)
  | arblostExpiry (die : Nat) (xid : W64) (round : Nat)
  | flitCrcFail (u : ErrUnit) (spare : Bool)
  | linkFailure (link : Nat)
  | remoteUnreachable (r : Req)
  | moduleFailure (m : Nat)
  | coreFailure (core : Nat) (wholeDie : Bool)
  | imageLoad (part asid base : Nat) (room : LoadRoom) (img : Image)
  | quickEyeCheck (eyes : List (Nat × Nat))
  | fullTraining (results : List (Nat × Nat))
  | partitionBuild (parts : List (Nat × Nat))
  | leaseRenewal (die : Nat)
  | leaderTermEnd (die : Nat)
  | leaseLapse (die : Nat)
  | soleLeader (die : Nat)
  | correctedError (u : ErrUnit) (spare : Bool)
  | errorWindowEnd (die : Nat)
  | uncorrectedError (u : ErrUnit) (spare : Bool) (granules : List Nat)
  | temperatureSwing (unit : Nat) (c : Int)
  | wearRecordWrite (unit : Nat)
  | readWearRecord (unit : Nat)
  | readAttestationReport (part : Nat) (nonce : BitVec 256)
  | recoveryImageTransfer (image sig : List Byte)
  | l1Eviction (core asid va : Nat)
  | h95Hour (unit : Nat)
  | dynamicAddress (addr : BitVec 7)
  | sidebandNack (code : Byte)
  | powerOn
  | powerDownNotice
  | readBootStage
  | readTemperatures
  | powerLoss
  -- instructions without operands
  | nop
  | reconv
  | yield
  | lhint
  | udf
  deriving DecidableEq, Repr

end Sys2Proof
end

