-- ==== Sys2Proof/Machine/State.lean ====
section
/-! DEFINITION. The state of one Lemmiber package: everything the manual says the machine holds, as plain data, and
the state at reset. INVENTORY.md lists every field with its rule and reset value. -/

namespace Sys2Proof.Machine

/-! ### Paths and groups (07) -/

/-- The 32 lanes of a vector register, lane 0 first. -/
abbrev Lanes := List W32

/-- A reconvergence stack entry (07 Table 7.1); `seq` is its age and `onChip` says where it is kept (07 R178). -/
structure StackEntry where
  deferred : Bool
  mask     : Mask
  pc       : VA
  rpc      : VA
  seq      : Nat
  onChip   : Bool
  deriving DecidableEq, Repr

/-- A loop stack entry (10 R256). -/
structure LoopEntry where
  start : VA
  fin   : VA
  left  : W64
  deriving DecidableEq, Repr

/-- Why a path issues nothing (07 R179). -/
inductive Wait where
  | none
  /-- at RECONV, for its partner (07 R177) -/
  | reconv
  /-- chained on the object at this physical address (07 R185, 12 R325, 13 R335) -/
  | gong (pa : Nat)
  /-- a monitor entry (12 R322) -/
  | monitor
  /-- the PDELAY of the back-off (12 R323) -/
  | delay
  /-- a POLL not yet complete (12 R323) -/
  | op (id : Nat)
  /-- a page fault whose record waits for a ring slot (16 R396) -/
  | faultHeld (f : FaultRec)
  /-- a page fault with the pager (16 R395) -/
  | fault (die fseq : Nat)
  /-- the pager-owned future of a long fault (16 R397) -/
  | pager (die fseq : Nat)
  /-- recorded in a regroup cell (07 R191) -/
  | regroup (pa : Nat)
  /-- WAITPRED (13 R336) -/
  | pred
  /-- TWAIT (05 R131) -/
  | twait (core ctx n bytes : Nat)
  /-- INVV (13 R342) -/
  | shootdown (sid : Nat)
  /-- XWAIT (14 R373) -/
  | exchange (xid : W64) (d : SReg) (unbind : Bool)
  /-- debug halt (16 R404) -/
  | debug
  /-- readied by a gong that has not arrived yet -/
  | wake
  deriving DecidableEq, Repr

/-- How a task ends: with the value that fills its future (13 R332), or by escalation (16 R394). -/
inductive Ending where
  | value (v : W128)
  | fault (code : Nat) (addr : Nat)
  deriving DecidableEq, Repr

/-- Bytes that a lane of the instruction before a path has stored: lane, physical address, length (03 R93). -/
structure Wrote where
  lane : Nat
  pa   : Nat
  len  : Nat
  deriving DecidableEq, Repr

/-- A store that a group has stored early or read from, and that may not be performed yet (03 R88, R89): the number that
names its acknowledgements, its bytes, whether it was seen in the L1, and whether it is to a UO page. -/
structure Seen where
  sid : Nat
  pa  : Nat
  len : Nat
  l1  : Bool
  uo  : Bool
  deriving DecidableEq, Repr

/-- The trap frame of a path in handler mode (16 R391). -/
structure Frame where
  left  : Nat
  seta  : BitVec 4
  setb  : BitVec 4
  loops : List LoopEntry
  mask  : Mask
  epc   : W64
  /-- the cause was a replay cause -/
  replays : Bool
  /-- the phase of a barrier wait that the trap interrupts (12 R325) -/
  phase : Option W32
  /-- what the lanes that were performed have stored (03 R93) -/
  wrote : List Wrote := []
  deriving DecidableEq, Repr

/-- A save hint (13 R341). -/
structure Hint where
  d     : VReg
  a     : VReg
  b     : VReg
  c     : VReg
  smask : W32
  scrx  : BitVec 16
  tobl  : Bool
  deriving DecidableEq, Repr

/-- A cause held or about to be taken: code, sr.faddr. -/
structure Cause where
  code  : Nat
  faddr : W64
  deriving DecidableEq, Repr

/-- One path slot of a group (07 R175-R179). -/
structure Path where
  live    : Bool := false
  pc      : VA := 0
  mask    : Mask := 0
  rpc     : VA := 0
  partner : Bool := false
  stack   : List StackEntry := []
  left    : Nat := 0
  seta    : BitVec 4 := 15
  setb    : BitVec 4 := 15
  loops   : List LoopEntry := []
  paddr   : W64 := 0
  pval    : W64 := 0
  pdelay  : Nat := 0
  wait    : Wait := .none
  /-- the waiter chain link of this path (07 R185) -/
  link    : BitVec 16 := 0xFFFF
  /-- the address of the WHEAD of that chain -/
  whead   : Nat := 0
  /-- the barrier phase that a waiting BARW or BARAW first used (12 R325) -/
  phase   : Option W32 := none
  /-- the lanes in which the next instruction is issued again (16 R393, R395) -/
  replay  : Option Mask := none
  /-- what the performed lanes of that instruction have stored (03 R93) -/
  wrote   : List Wrote := []
  hint    : Option Hint := none
  /-- it has issued nothing since its PHINT (16 R398) -/
  atHint  : Bool := false
  /-- handler mode (16 R391) -/
  frame   : Option Frame := none
  /-- a resume cause held while the other path is in handler mode (16 R392) -/
  held    : Option Cause := none
  /-- the instructions that firmware lets it issue while its group is debugged (16 R404) -/
  steps   : Option Nat := none
  /-- when it was promoted (15 R387) -/
  promoted : Option Nat := none
  /-- when it parked, for the order of 15 R388 -/
  parkedAt : Nat := 0
  deriving DecidableEq, Repr

/-- Where a group is: in a core's slot, or in a save record of a die. -/
inductive Place where
  | res (core slot : Nat)
  | saved (die rec : Nat)
  deriving DecidableEq, Repr

/-- One entry of the undo log (16 R405): kind, register or address, count, lanes, instruction address, old bytes. -/
structure Undo where
  mem   : Bool
  addr  : Nat
  count : Nat
  lanes : Mask
  ia    : VA
  old   : List Byte
  deriving DecidableEq, Repr

/-- A register pending as the token of a command (05 R132). -/
structure Token where
  core : Nat
  ctx  : Nat
  n    : Nat
  reg  : SReg
  deriving DecidableEq, Repr

/-- What a group recorded in a regroup cell keeps (13 R333). -/
structure Regroup where
  pa   : Nat
  b    : Bool
  x    : VReg
  y    : VReg
  d    : SReg
  deriving DecidableEq, Repr

/-- A save copy of a window: what stands in the save area while the group is saved (16 R400). -/
structure Saved where
  scr    : Store Byte := []
  tags   : List Nat := []
  tob    : Store Byte := []
  /-- readied by a gong or the pager, and when (16 R400, 15 R386) -/
  ready  : Option Nat := none
  /-- restored by the swap-in of its partition only (16 R402) -/
  halted : Bool := false
  deriving DecidableEq, Repr

/-- A group (07 R172-R174). -/
structure Group where
  place   : Place
  launch  : Nat
  entry   : Nat
  asid    : Nat
  v       : Nat
  s       : Nat
  vbase   : Nat
  scrBase : Nat
  scrSize : Nat
  tobBase : Nat
  tobCnt  : Nat
  pri     : Nat
  born    : Nat
  eid     : Nat
  closure : BitVec 1024
  ctags   : BitVec 8
  early   : Bool
  restart : Bool
  debug   : Bool
  vregs   : Store Lanes := []
  sregs   : Store W64 := []
  cregs   : Store Cap := []
  kregs   : Store Mask := []
  fut     : Cap
  cause   : BitVec 8 := 0
  faddr   : W64 := 0
  epc     : W64 := 0
  emask   : Mask := 0
  fpcsr   : W64 := 0
  f4x     : W64 := 0x8000
  fmts    : Store (BitVec 256) := []
  pa      : Path := {}
  pb      : Path := {}
  tokens  : List Token := []
  /-- highest command number given to the group on each context (05 R147) -/
  nums    : Store Nat := []
  regroup : Option Regroup := none
  /-- stores that its next release must carry (03 R89) -/
  seen    : List Seen := []
  undo    : List Undo := []
  saved   : Saved := {}
  /-- a firmware request to pre-empt it stands (16 R398) -/
  preempt : Bool := false
  /-- its deadline has passed: it stops where it stands and is saved in full (16 R398) -/
  deadline : Bool := false
  /-- EXIT has been executed; the fill waits for its operations (07 R180) -/
  ending  : Option Ending := none
  deriving DecidableEq, Repr

/-- The issuing path of the instruction being executed. -/
structure Cur where
  gid : Nat
  b   : Bool
  deriving DecidableEq, Repr

/-! ### Counted operations (09 R224) -/

/-- A register write that takes effect when an operation completes. -/
inductive RegWrite where
  | s (r : SReg) (v : W64)
  | v (r : VReg) (m : Mask) (x : Lanes)
  | k (r : KReg) (v : Mask)
  | c (r : CReg) (v : Cap)
  deriving DecidableEq, Repr

/-- What an operation does with the bytes that its lanes' parts return. -/
inductive Fin where
  | none
  /-- LD and the scalar atomics: element width, sign extension of the loaded bytes, register, register width type -/
  | scalar (ty : STy) (d : SReg)
  | vector (ty : ETy) (one : Bool) (d : VReg)
  | cap (d : CReg)
  | poll (ty : STy) (d : SReg) (va : W64)
  | status (d : SReg) (pair : Bool)
  deriving DecidableEq, Repr

/-- Bytes that one part of one lane has returned. -/
structure Got where
  lane  : Nat
  part  : Nat
  bytes : List Byte
  tag   : Bool
  deriving DecidableEq, Repr

/-- A counted operation in flight. `chA` and `chB` say which paths it is charged to, `flag` which flag it counts in. -/
structure OpRec where
  gid     : Nat
  b       : Bool
  core    : Nat
  chA     : Bool
  chB     : Bool
  flag    : Option Nat
  fin     : Fin := .none
  writes  : List RegWrite := []
  flags   : W64 := 0
  /-- requests sent and not yet performed -/
  out     : Nat := 0
  lanes   : Mask := 0
  got     : List Got := []
  /-- a page fault's replay will finish it (09 R227) -/
  parked  : Bool := false
  /-- (physical address, length, isWrite) of its parts, for the order of accesses to common bytes (03 R97) -/
  spans   : List (Nat × Nat × Bool) := []
  /-- its flags never trap (08 R207) -/
  quiet   : Bool := false
  acq     : Option Scope := none
  so      : Bool := false
  uo      : Bool := false
  reads   : Bool := false
  stores  : Bool := false
  /-- the cause that a lane met while others are outstanding, and the lanes that stay unfinished; for a page fault the KIND
  and ACC of its record (16 Table 16.2) -/
  bad     : Option Cause := none
  badMask : Mask := 0
  badKind : Nat := 0
  badAcc  : Nat := 0
  /-- it acts once, for its whole mask (16 R391) -/
  once    : Bool := false
  /-- earlier operations whose results it has taken: it completes after them (09 R226) -/
  after   : List Nat := []
  ia      : VA := 0
  /-- the issuing path stays at the instruction until it completes, then moves past this many bytes -/
  hold    : Nat := 0
  /-- the allowance record it addresses, and the virtual address used (04 R117) -/
  ctr     : Nat := 0
  ctrVa   : Nat := 0
  /-- the amount that an ADEC asks for -/
  ctrK    : Nat := 0
  deriving DecidableEq, Repr

/-! ### Cores -/

/-- An L1 line (02 R49, R62-R65). -/
structure Line where
  asid    : Nat
  va      : Nat
  pa      : Nat
  data    : BitVec 1024
  tags    : BitVec 8
  ver     : W32
  own     : List Nat
  pending : Bool
  held    : List Instr
  loads   : List Req
  lease   : Bool
  dirty   : BitVec 128
  /-- its fill began before an acquire that it must not outlive: it is dropped once its waiting loads have been served -/
  stale   : Bool
  deriving DecidableEq, Repr

/-- Accesses of a core that wait for the lease of a line (02 R65); `stale` says that a purge or an acquire has overtaken
the request. -/
structure LWait where
  asid  : Nat
  va    : Nat
  pa    : Nat
  reqs  : List Req
  stale : Bool
  deriving DecidableEq, Repr

/-- An allowance entry (04 R114). -/
structure AEntry where
  asid   : Nat
  va     : Nat
  pa     : Nat
  amount : W64
  deriving DecidableEq, Repr

/-- A write of an engine: an address, bytes, and whether they are a granule that keeps its tag. `nib` is the place, in
its byte, of an F4 code, which is merged into the byte. -/
structure EWrite where
  va    : Nat
  bytes : List Byte
  tag   : Bool
  nib   : Option Nat := none
  deriving DecidableEq, Repr

/-- What an engine has yet to do for a command: a write to memory, an operation on a word at its home, bytes of the window
(`scr`) or of the slots with the tag of a granule, or a line of an L2PF (05 R134, Table 5.2). -/
inductive Move where
  | put (w : EWrite)
  | rmw (op : Rmw) (w va x : Nat)
  | loc (scr : Bool) (off : Nat) (bytes : List Byte) (tag : Bool)
  | line (op : L2Op) (va : Nat)
  deriving DecidableEq, Repr

/-- A command that an engine context has issued and not completed (05 R130); `todo` is what is left of its transfer, and
`sid` names its acknowledgements (05 R148). -/
structure Cmd where
  ctx     : Nat
  n       : Nat
  gid     : Nat
  token   : Option SReg
  ins     : Instr
  caps    : List Cap
  args    : List W64
  regs    : List Lanes
  asid    : Nat
  launch  : Nat
  scrBase : Nat
  scrSize : Nat
  tobBase : Nat
  tobCnt  : Nat
  status  : Nat
  eaddr   : Nat
  skip    : Bool
  started : Bool
  done    : Bool
  todo    : List Move := []
  sid     : Nat := 0
  /-- the window and slots of a group that has left before the command has read them (14 R364) -/
  snap    : Option Saved := none
  deriving DecidableEq, Repr

/-- An engine context (05 Table 5.1); `doneSet` are the completed or skipped numbers above TL. -/
structure Ctx where
  issue   : Nat := 0
  tl      : Nat := 0
  ev      : Bool := false
  ecode   : Nat := 0
  enum    : Nat := 0
  eaddr   : Nat := 0
  doneSet : List Nat := []
  deriving DecidableEq, Repr

/-- Buffers that the stage engine has reserved for an entry (05 R142). -/
structure Buf where
  eid     : Nat
  /-- the entry: the transfers of one that a steal has taken run on (05 R144) -/
  entry   : Entry
  scrBase : Nat
  scrSize : Nat
  tobBase : Nat
  tobCnt  : Nat
  deriving DecidableEq, Repr

/-- A core (02, 05, 07). -/
structure Core where
  brr      : W64 := 0xAAAA555500000000
  loc      : Store Byte := []
  ltags    : List Nat := []
  /-- granules of the local banks with an uncorrectable ECC error (01 R20) -/
  lpoison  : List Nat := []
  lines    : List Line := []
  lwaits   : List LWait := []
  allow    : List AEntry := []
  /-- outstanding allowance requests: record, operation (04 R115) -/
  areqs    : List (Nat × Nat) := []
  /-- allowance operations waiting for one: record, operation, amount, .nw -/
  await    : List (Nat × Nat × W64 × Bool) := []
  deque    : List Entry := []
  overflow : List Entry := []
  bufs     : List Buf := []
  /-- the clock when it last dispatched, or was not short of work (07 R188) -/
  fed      : Nat := 0
  ptr      : Nat := 0
  icache   : List (Nat × Nat × BitVec 256) := []
  cycle    : W64 := 0
  ctxs     : Store Ctx := []
  cmds     : List Cmd := []
  halted   : Bool := false
  failed   : Bool := false
  /-- steal victims yet to try, within the die and across dies (07 R188, R189) -/
  victims  : List Nat := []
  xvictims : List Nat := []
  deriving DecidableEq, Repr

/-! ### Dies -/

/-- A translation-cache entry of a slice (01 R36): the leaf that translates a 32 KiB page or larger. -/
structure TEntry where
  slice : Nat
  asid : Nat
  va   : Nat
  lvl  : Nat
  pteAt : Nat
  pte  : BitVec 128
  deriving DecidableEq, Repr

/-- An entry of a slice's page-walk caches (01 R36): a T3, T2 or T1 entry that points to the table at `npa`. -/
structure WEntry where
  slice : Nat
  asid  : Nat
  va    : Nat
  lvl   : Nat
  npa   : Nat
  deriving DecidableEq, Repr

/-- A sharer record (02 R55). -/
structure Sharer where
  core : Nat
  asid : Nat
  vb   : Nat
  deriving DecidableEq, Repr

/-- A directory entry (02 R55). -/
structure DirEntry where
  slice   : Nat
  base    : Nat
  k       : Nat
  ver     : W32
  lease   : Option Nat
  sharers : List Sharer
  deriving DecidableEq, Repr

/-- INVs under one version that a directory has sent and that are not all answered (02 R56, R60, R65): the region, the
cores, and the stores that wait for the answers. -/
structure Leaving where
  iid   : Nat
  acks  : Nat
  slice : Nat
  base  : Nat
  k     : Nat
  cores : List Nat
  sids  : List Nat
  deriving DecidableEq, Repr

/-- A line whose home has accepted a lease request and waits for IACKs (02 R54, R65). -/
structure Lock where
  line  : Nat
  core  : Nat
  asid  : Nat
  va    : Nat
  deriving DecidableEq, Repr

/-- The replacement class of an L2 line (02 R68): retained for a range of the RES registers, or by L2PF (8). -/
inductive L2Class where
  | first
  | normal
  | retained (n : Nat)
  deriving DecidableEq, Repr

/-- A line that a slice of the die holds, least recently used first in its list (02 R53). -/
structure L2Line where
  pa  : Nat
  cls : L2Class
  deriving DecidableEq, Repr

/-- A store waiting for acknowledgements at a slice (02 R62): its bytes, `len` 0 for what is no store, and whether it is to a
UO page. -/
structure Pend where
  sid  : Nat
  pa   : Nat
  len  : Nat
  uo   : Bool
  acks : Nat
  /-- what follows the last acknowledgement -/
  next : List Instr
  deriving DecidableEq, Repr

/-- A guest line (02 R76). -/
structure Guest where
  pa    : Nat
  data  : BitVec 1024
  valid : BitVec 128
  dirty : BitVec 128
  tags  : BitVec 8
  /-- the slice has evicted it: it goes when its flush is acknowledged (02 R77) -/
  leaving : Bool := false
  deriving DecidableEq, Repr

/-- A monitor entry (12 R322). -/
structure Monitor where
  slice : Nat
  asid  : Nat
  va    : Nat
  pa    : Nat
  ty    : STy
  cond  : Cmp
  cmp   : W64
  gid   : Nat
  b     : Bool
  deriving DecidableEq, Repr

/-- A waiting or accepted operation of a counter's home (04 R118). -/
structure AWait where
  core : Nat
  op   : Nat
  kind : AReqKind
  deriving DecidableEq, Repr

/-- What a home keeps beside the record (04 R113, R118). -/
structure AHome where
  opened : List AWait := []
  closed : List AWait := []
  /-- ACINIT on a record with any contents runs a round of its own -/
  round  : Bool := false
  deriving DecidableEq, Repr

/-- A shootdown in flight (01 R38). -/
structure Shoot where
  sid   : Nat
  asid  : Nat
  lo    : Nat
  hi    : Nat
  dies  : List Nat
  /-- operations that may have accesses in flight through a purged entry -/
  ops   : List Nat
  /-- those accesses have been performed -/
  drained : Bool
  /-- guest lines that are then to be flushed: die, line -/
  lines : List (Nat × Nat)
  gid   : Nat
  b     : Bool
  deriving DecidableEq, Repr

/-- A slot of an exchange endpoint's change (06 R159). -/
structure XSlot where
  g     : XGrant
  next  : Nat
  wait  : Nat
  acct  : Nat
  ended : Bool
  deriving DecidableEq, Repr

/-- An entry of an exchange fault list (06 Table 6.4). -/
structure XFault where
  len   : Nat
  poff  : Nat
  roff  : Nat
  ecode : Nat
  side  : Bool
  dest  : Nat
  deriving DecidableEq, Repr

/-- An exchange context of a die (06 R149-R166). -/
structure XCtx where
  xid      : W64
  endpoint : Bool
  self     : Nat := 0
  round    : Nat := 0
  active   : Bool := false
  desc     : Option XDesc := none
  row      : List Nat := []
  carry    : List Nat := []
  carryAt  : List Nat := []
  /-- where the bytes that the round before held back lie (06 R162) -/
  carryCap : Cap := ⟨0, false⟩
  carryAsid : Nat := 0
  left     : List Nat := []
  recv     : Cap := ⟨0, false⟩
  recvBad  : Option Nat := none
  asid     : Nat := 0
  sendCap  : Cap := ⟨0, false⟩
  sendAsid : Nat := 0
  acts     : Option (List Nat) := none
  grants   : List XGrant := []
  rung     : Option Nat := none
  send     : Option XSlot := none
  recvSlot : Option XSlot := none
  last     : Option Nat := none
  faults   : List XFault := []
  flovf    : Bool := false
  partSt : Bool := false
  short    : Bool := false
  failover : Bool := false
  abort    : Option Nat := none
  ended    : Bool := false
  sent     : Store Nat := []
  rcvd     : Store Nat := []
  xsend    : Option (Nat × Nat × Nat) := none
  stbyOnly : Bool := false
  suspected : Bool := false
  lastq    : Bool := false
  deriving DecidableEq, Repr

/-- A DPOST that has not completed: its command (core, context, number), the leftovers that its demand takes up, and, once it
has posted, who still owes a DACK (06 R152, R162). -/
structure XPost where
  xid   : W64
  round : Nat
  cmd   : Nat × Nat × Nat
  asid  : Nat
  carry : List Nat
  dacks : List Nat := []
  deriving DecidableEq, Repr

/-- The arbiter's or the standby's record of a round (06 R154-R157, R166). -/
structure XArb where
  xid     : W64
  round   : Nat
  standby : Bool
  desc    : XDesc
  rows    : Store (List Nat) := []
  started : Bool := false
  /-- strokes and bytes that no grant has taken yet (06 R155) -/
  q       : List (List Nat) := []
  y       : List (List Nat) := []
  /-- the change whose grants are out, and those grants -/
  j       : Nat := 0
  current : List XGrant := []
  gacks   : Nat := 0
  ringed  : Option Nat := none
  chdone  : List Nat := []
  /-- a standby that has taken over -/
  acting  : Bool := false
  lastas  : Store (Option Nat) := []
  /-- the round is over here: 0, or the reason of its abort; and the endpoints that have been heard of it since -/
  gone    : Option Nat := none
  heard   : List Nat := []
  deriving DecidableEq, Repr

/-- A root waiting for a core (15 R383). -/
structure Root where
  lid  : Nat
  root : Nat
  deriving DecidableEq, Repr

/-- A die's lease state (20 R425-R428). -/
structure Lease where
  epoch    : Nat := 0
  leader   : Option Nat := none
  claimed  : Option Nat := none
  accepts  : List Nat := []
  acting   : Bool := false
  heard    : List Nat := []
  acks     : List Nat := []
  zeroed   : Bool := false
  deriving DecidableEq, Repr

/-- A die: its slices, its registers and its firmware-visible units. -/
structure Die where
  l2ctl    : W64 := 8
  res      : Store (BitVec 128) := []
  lth      : W64 := 0
  prectl   : W64 := 10000
  wdctl    : W64 := 0x100030D40
  pgbase   : W64 := 0
  pgack    : W64 := 0
  pglost   : W64 := 0
  fseq     : Nat := 1
  /-- records written and not yet settled: number, record -/
  faults   : List (Nat × FaultRec) := []
  tcache   : List TEntry := []
  wcache   : List WEntry := []
  dirs     : List DirEntry := []
  fv       : Store W32 := []
  leaving  : List Leaving := []
  locks    : List Lock := []
  pends    : List Pend := []
  guests   : List Guest := []
  monitors : List Monitor := []
  homes    : Store AHome := []
  pinned   : List Nat := []
  l2       : List L2Line := []
  /-- accesses counted per slice and range: 16 n + slice (02 R68) -/
  counts   : Store Nat := []
  stealPtr : Nat := 0
  corePtr  : Nat := 0
  roots    : List Root := []
  xctxs    : List XCtx := []
  xposts   : List XPost := []
  xarbs    : List XArb := []
  lease    : Lease := {}
  failed   : Bool := false
  deriving DecidableEq, Repr

/-! ### Partitions, queues and launches (13, 15, 16) -/

/-- A packet that has been fetched and has not completed (15 R378): its 64-bit number, its 64 bytes, whether it has
started, whether a WAITTL or QFENCE stands before it in its queue, whether it started early, the nearest earlier LAUNCH (07 R192),
for a QFENCE the last packet fetched of each queue that it waits for, and for a LAUNCH its descriptor and entry table, once they
have been read (13 R345). -/
structure Packet where
  num     : Nat
  bits    : BitVec 512
  started : Bool := false
  fenced  : Bool := false
  early   : Bool := false
  pred    : Nat := 0
  snap    : List (Nat × Nat) := []
  desc    : Option (Nat × Bool) := none
  entt    : Option (List Byte) := none
  deriving DecidableEq, Repr

/-- A command queue (15 Table 15.1). -/
structure Queue where
  qbase    : W64 := 0
  qcfg     : W64 := 0
  opmask   : W64 := 0
  doorbell : W32 := 0
  consumed : W32 := 0
  state    : Nat := 0
  cplbase  : W64 := 0
  cplack   : W32 := 0
  ctrl     : W64 := 0
  qtl      : Nat := 0
  irqaddr  : W64 := 0
  irqdata  : W64 := 0
  ranges   : Store W64 := []
  cseq     : W32 := 0
  fetched  : Nat := 0
  /-- the number of the last LAUNCH fetched -/
  lastl    : Nat := 0
  /-- whether a WAITTL or QFENCE has been fetched: every later packet waits on it (15 R378) -/
  fences   : Bool := false
  packets  : List Packet := []
  /-- completion records that wait for the ring: without CSEQ, and whether an IRQ write follows (15 R379, R380) -/
  records  : List (BitVec 256 × Bool) := []
  deriving DecidableEq, Repr

/-- A partition (13 R349, 15 R375, 16 R402, 20 R430). -/
structure Part where
  dies    : List Nat := []
  ar      : BitVec 512 := 0
  queues  : Store Queue := []
  evbase  : W64 := 0
  evack   : W64 := 0
  evlost  : W64 := 0
  eseq    : Nat := 1
  diePtr  : Nat := 0
  halted  : Bool := false
  swapped : Bool := false
  lost    : Bool := false
  /-- the context area: what its cores held when it was swapped out (16 R402) -/
  area    : Store Core := []
  areaMon : List (Nat × Monitor) := []
  deriving DecidableEq, Repr

/-- An entry record as the front end keeps it (13 Table 13.8). -/
structure EntryRec where
  off   : Nat
  regs  : Nat
  scal  : Nat
  flags : Nat
  scr   : Nat
  tob   : Nat
  deriving DecidableEq, Repr

/-- A launch (13 R345, 15 R382, R383). -/
structure Launch where
  part    : Nat
  queue   : Nat
  num     : Nat
  asid    : Nat
  code    : Cap
  brr     : W64
  es      : Nat
  hent    : Nat
  entries : List EntryRec
  tsrt    : Nat
  /-- the launch copy: each record, the tag of its base, and whether it is late-bound (15 R382) -/
  tsrs    : List (BitVec 512 × Bool × Bool)
  args    : List (BitVec 896 × BitVec 7)
  /-- where the tagged home argument of each root lies (15 R383) -/
  homes   : List (Option Nat)
  ent     : Nat
  pri     : Nat
  ha      : Nat
  early   : Bool
  pred    : Option Nat
  lhinted : Bool := false
  unplaced : List Nat
  tasks   : Nat := 0
  aborted : Bool := false
  done    : Bool := false
  deriving DecidableEq, Repr

/-- An address-space context (01 R34). -/
structure AsCtx where
  ttb0 : W64
  ttb1 : W64
  ttb2 : W64
  ttb3 : W64
  rhtb : W64
  rhtn : Nat
  asid : Nat
  part : Nat
  resv : Bool
  deriving DecidableEq, Repr

/-! ### Platform (20) -/

/-- A flash training slot (20 R424). -/
structure TrainSlot where
  valid       : Bool := false
  fingerprint : BitVec 512 := 0
  writes      : Nat := 0
  eyes        : List (Nat × Nat) := []
  deriving DecidableEq, Repr

/-- A wear record and the counters behind it (20 R433). -/
structure Wear where
  wseq : Nat := 0
  h95  : Nat := 0
  pwr  : Nat := 0
  t70  : Nat := 0
  t50  : Nat := 0
  t30  : Nat := 0
  temp : Int := 0
  low  : Int := 0
  peak : Int := 0
  rising : Bool := false
  flash : BitVec 512 := 0
  sig  : List Byte := []
  deriving DecidableEq, Repr

/-- The package's boot, flash, error and sideband state (20). -/
structure Platform where
  /-- boot stage finished; 0 before stage 1 -/
  stage    : Nat := 0
  recovery : Bool := false
  powered  : Bool := false
  image    : List Byte := []
  imageSig : List Byte := []
  flashImg : List Byte := []
  flashSig : List Byte := []
  fingerprint : BitVec 512 := 0
  slot0    : TrainSlot := {}
  slot1    : TrainSlot := {}
  failedLanes : List Nat := []
  linksDown : List Nat := []
  modulesDown : List Nat := []
  errors   : List (ErrUnit × Nat) := []
  toSpare  : List (ErrUnit × Bool) := []
  spared   : List (ErrUnit × Bool) := []
  wear     : Store Wear := []
  dynAddr  : Option (BitVec 7) := none
  trust    : List (List Byte) := []
  /-- error records of the loader: partition, segment index (13 R349) -/
  loadErrs : List (Nat × Nat) := []
  /-- answers given on the sideband, newest first; none is a NACK (20 R434) -/
  answers  : List (Option (List Byte)) := []
  /-- the unit whose wear record was written last (20 R429) -/
  lastWear : Nat := 0
  deriving DecidableEq, Repr

/-! ### The machine -/

/-- Which activity the next step takes: the event at a place of the agenda, or a path of a core. -/
inductive Turn where
  | event (n : Nat)
  | path (p : PathId)
  deriving DecidableEq, Repr

/-- The state of a package. `pkg` is its number. `mem` and `tags` cover the whole 52-bit physical address space
(01 R22). `agenda` holds messages, completions and inputs on their way; `turns` says which activity goes next, and is
the model's own (assumption 6). -/
structure State where
  pkg      : Nat
  mem      : List Host.Cell
  tags     : List Nat
  /-- granules with an uncorrectable ECC error (01 R20) -/
  poison   : List Nat
  groups   : Store Group
  ops      : Store OpRec
  cores    : Store Core
  dies     : Store Die
  parts    : Store Part
  launches : Store Launch
  /-- where firmware has installed the context of an address space (01 R34) -/
  asids    : Store Nat
  shoots   : List Shoot
  /-- pages placed away from their home memory, and pages with read replicas: address space, page (01 R43) -/
  displaced : List (Nat × Nat)
  replicas : List (Nat × Nat)
  agenda   : List Instr
  turns    : List Turn
  cur      : Cur
  /-- the model's own: the event that the current step takes -/
  taken    : Option Instr
  /-- messages to other packages and to the host -/
  outbox   : List Instr
  /-- what the host's reads of this package have returned: address, bytes (02 R82) -/
  hostData : List (Nat × List Byte)
  /-- what accesses by other packages to this one have returned (02 R80) -/
  replies  : List (Req × List Byte × Bool)
  plat     : Platform
  /-- the model's own: the next fresh number (groups, operations, stores, entries) -/
  fresh    : Nat
  /-- the model's own: steps taken -/
  time     : Nat
  /-- core cycles since reset, as far as the steps have counted them (07 R188; assumption 3) -/
  clock    : Nat
  deriving DecidableEq, Repr

/-- Why the machine stops with a fault: nothing in this model does. The type is closed. -/
inductive Fault where
  /-- Never raised: every trap of the manual is a next state. Safe. -/
  | none
  deriving DecidableEq, Repr

/-- Why an instruction or event has no next state. -/
inductive Refusal where
  /-- An arm that has no meaning yet. Safe. -/
  | notModelled (mnemonic : String)
  /-- Raised by an MMIO access to a register that the manual does not describe (02 R81). Safe. -/
  | unknownRegister (addr : Nat)
  deriving DecidableEq, Repr

/-- Memory's canonical form: addresses strictly rising and no listed zero byte (what an unlisted byte reads as). -/
abbrev Memory.wf (m : List Host.Cell) : Prop := Store.canon (0 : Byte) m = true

/-- What a byte that nothing has written reads as. Assumption 1. -/
def Memory.unlisted : Byte := 0

/-- The machine at reset: nothing in memory, no group, no context, no partition; the registers at the values that the
manual gives (02 R48, R60, R67; 05 R129; 07 R188, R189; 15 R376; 16 R396, R399, R403; 20 R430). -/
def State.reset : State :=
  { pkg := 0, mem := [], tags := [], poison := [], groups := [], ops := [], cores := [], dies := [], parts := [],
    launches := [], asids := [], shoots := [], displaced := [], replicas := [], agenda := [], turns := [], cur := ⟨0, false⟩, taken := none, outbox := [],
    hostData := [], replies := [], plat := {},
    fresh := 1, time := 0, clock := 0 }

end Sys2Proof.Machine
end

