-- ==== Sys2Proof/Machine/Basic.lean ====
section
/-! DEFINITION. Access to the parts of the state: groups, paths, cores, dies, registers, messages, and how a path's
program counter, clause count and loop stack move past an instruction. -/

namespace Sys2Proof

/-- Which path a waiter identifier names. -/
def Waiter.b : Waiter → Bool
  | .res p => p.b
  | .saved _ _ b => b

/-- A waiter identifier of 07 Table 7.4. -/
def Waiter.wid : Waiter → Nat
  | .res p => p.core / 32 * 0x800 + p.core % 32 * 0x40 + p.slot
  | .saved _ r _ => 0x4000 + r

end Sys2Proof

namespace Sys2Proof.Machine

/-! ### Bits and bytes (00 R3) -/

/-- The low bits of a number as bytes, lowest first. -/
def bytesOf (n : Nat) (v : Nat) : List Byte := (List.range n).map fun i => BitVec.ofNat 8 (v / 2 ^ (8 * i))

/-- The number that little-endian bytes make. -/
def natOf (bs : List Byte) : Nat := bs.foldr (fun b a => b.toNat + 256 * a) 0

/-- The bits of a number `[lo + len - 1 : lo]`. -/
def bitsAt (v lo len : Nat) : Nat := v / 2 ^ lo % 2 ^ len

/-- A number with a field replaced. -/
def setBits (v lo len x : Nat) : Nat := v - bitsAt v lo len * 2 ^ lo + x % 2 ^ len * 2 ^ lo

/-- Sign extension of the low `w` bits to 64. -/
def sext64 (w : Nat) (v : Nat) : W64 := (BitVec.ofNat w v).signExtend 64

/-- The lanes of a mask in ascending order. -/
def lanesOf (m : Mask) : List Nat := (List.range 32).filter m.getLsbD

/-- The mask of the lanes that satisfy a test. -/
def maskOf (f : Nat → Bool) : Mask := (List.range 32).foldl (fun m l => if f l then m ||| (1#32 <<< l) else m) 0

/-- A mask of one lane. -/
def laneBit (l : Nat) : Mask := 1#32 <<< l

/-- The number of lanes of a mask. -/
def popMask (m : Mask) : Nat := (lanesOf m).length

/-- A vector register from its lanes. -/
def mkLanes (f : Nat → W32) : Lanes := (List.range 32).map f

/-- One lane of a vector register. -/
def Lanes.at (x : Lanes) (l : Nat) : W32 := x.getD l 0

/-- A vector register with the lanes of a mask replaced. -/
def Lanes.merge (old new : Lanes) (m : Mask) : Lanes := mkLanes fun l => if m.getLsbD l then new.at l else old.at l

/-! ### Parts of the package -/

def State.core (s : State) (n : Nat) : Core := Store.get {} s.cores n
def State.setCore (s : State) (n : Nat) (c : Core) : State := { s with cores := Store.put s.cores n c }
def State.modCore (s : State) (n : Nat) (f : Core → Core) : State := s.setCore n (f (s.core n))
def State.die (s : State) (n : Nat) : Die := Store.get {} s.dies n
def State.setDie (s : State) (n : Nat) (d : Die) : State := { s with dies := Store.put s.dies n d }
def State.modDie (s : State) (n : Nat) (f : Die → Die) : State := s.setDie n (f (s.die n))
def State.part (s : State) (n : Nat) : Part := Store.get {} s.parts n
def State.setPart (s : State) (n : Nat) (p : Part) : State := { s with parts := Store.put s.parts n p }
def State.modPart (s : State) (n : Nat) (f : Part → Part) : State := s.setPart n (f (s.part n))
def State.queue (s : State) (p q : Nat) : Queue := Store.get {} (s.part p).queues q
def State.setQueue (s : State) (p q : Nat) (x : Queue) : State :=
  s.modPart p fun t => { t with queues := Store.put t.queues q x }
def State.modQueue (s : State) (p q : Nat) (f : Queue → Queue) : State := s.setQueue p q (f (s.queue p q))

/-- The die of a core. -/
def dieOf (core : Nat) : Nat := core / 32

/-- Puts a message, completion or input on its way. -/
def State.send (s : State) (i : Instr) : State := { s with agenda := s.agenda ++ [i] }

/-- Puts several on their way, in order. -/
def State.sendAll (s : State) (l : List Instr) : State := { s with agenda := s.agenda ++ l }

/-- A fresh number of the model's own. -/
def State.bump (s : State) : State := { s with fresh := s.fresh + 1 }

/-! ### Groups and paths -/

/-- A group with nothing in it: what a number that names no group reads as. -/
def Group.blank : Group :=
  { place := .saved 0 0, launch := 0, entry := 0, asid := 0, v := 0, s := 0, vbase := 0, scrBase := 0, scrSize := 0,
    tobBase := 0, tobCnt := 0, pri := 0, born := 0, eid := 0, closure := 0, ctags := 0, early := false,
    restart := false, debug := false, fut := ⟨0, false⟩ }

def Group.path (g : Group) (b : Bool) : Path := if b then g.pb else g.pa
def Group.setPath (g : Group) (b : Bool) (p : Path) : Group := if b then { g with pb := p } else { g with pa := p }

/-- The group of a number. -/
def State.grp (s : State) (gid : Nat) : Group := (Store.find s.groups gid).getD Group.blank
def State.setGrp (s : State) (gid : Nat) (g : Group) : State := { s with groups := Store.put s.groups gid g }

/-- Changes a group that exists. -/
def State.modGrp (s : State) (gid : Nat) (f : Group → Group) : State :=
  match Store.find s.groups gid with
  | some g => s.setGrp gid (f g)
  | none => s

/-- The group that issues. -/
def State.g (s : State) : Group := s.grp s.cur.gid

/-- The path that issues. -/
def State.p (s : State) : Path := s.g.path s.cur.b

/-- The other path of the issuing group. -/
def State.q (s : State) : Path := s.g.path (!s.cur.b)

def State.modG (s : State) (f : Group → Group) : State := s.modGrp s.cur.gid f
def State.modP (s : State) (f : Path → Path) : State := s.modG fun g => g.setPath s.cur.b (f (g.path s.cur.b))

/-- Changes one path of a group. -/
def State.modPath (s : State) (gid : Nat) (b : Bool) (f : Path → Path) : State :=
  s.modGrp gid fun g => g.setPath b (f (g.path b))

/-- The core on which a group stands. -/
def Group.core (g : Group) : Nat := match g.place with | .res c _ => c | .saved d _ => 32 * d

/-- The slot in which a group stands. -/
def Group.slot (g : Group) : Nat := match g.place with | .res _ n => n | .saved _ _ => 0

def Group.resident (g : Group) : Bool := match g.place with | .res _ _ => true | .saved _ _ => false

def State.c (s : State) : Nat := s.g.core

/-- The groups of a core, lowest number first. -/
def State.residents (s : State) (core : Nat) : List (Nat × Group) :=
  s.groups.filter fun e => match e.2.place with | .res c _ => c == core | .saved _ _ => false

/-- The number of the group in a slot. -/
def State.inSlot (s : State) (core slot : Nat) : Option Nat := Store.findKey? s.groups fun g => g.place == .res core slot

/-- The number of the group that a waiter identifier names. -/
def State.waiterGid (s : State) : Waiter → Option Nat
  | .res p => s.inSlot p.core p.slot
  | .saved d r _ => Store.findKey? s.groups fun g => g.place == .saved d r

/-- The name of a path of a group. -/
def Group.waiter (g : Group) (b : Bool) : Waiter :=
  match g.place with
  | .res c n => .res ⟨c, n, b⟩
  | .saved d r => .saved d r b

/-- A waiter identifier of 07 Table 7.4. -/
def Group.wid (g : Group) : Nat :=
  match g.place with
  | .res c n => c / 32 * 0x800 + c % 32 * 0x40 + n
  | .saved _ r => 0x4000 + r

/-- The launch of a group. -/
def State.launchOf (s : State) (g : Group) : Option Launch := Store.find s.launches g.launch

/-! ### Registers (07 R172-R174) -/

def Group.sreg (g : Group) (r : SReg) : W64 := Store.get 0 g.sregs r.toNat
def Group.vreg (g : Group) (r : VReg) : Lanes := Store.get (mkLanes fun _ => 0) g.vregs r.toNat
def Group.creg (g : Group) (r : CReg) : Cap := Store.get ⟨0, false⟩ g.cregs r.toNat
def Group.kreg (g : Group) (r : KReg) : Mask := Store.get 0 g.kregs r.toNat

/-- Adds an entry to the undo log while the debug bit is set (16 R405). -/
def Group.log (g : Group) (u : Undo) : Group := if g.debug then { g with undo := (u :: g.undo).take 1024 } else g

/-- Register numbers in undo entries: s 0-63, v 256-511, c 512-527, k 528-535. -/
def undoS (r : SReg) : Nat := r.toNat
def undoV (r : VReg) : Nat := 256 + r.toNat
def undoC (r : CReg) : Nat := 512 + r.toNat
def undoK (r : KReg) : Nat := 528 + r.toNat

def Group.setS (g : Group) (r : SReg) (v : W64) : Group := { g with sregs := Store.put g.sregs r.toNat v }
def Group.setV (g : Group) (r : VReg) (m : Mask) (x : Lanes) : Group :=
  { g with vregs := Store.put g.vregs r.toNat ((g.vreg r).merge x m) }
def Group.setC (g : Group) (r : CReg) (v : Cap) : Group := { g with cregs := Store.put g.cregs r.toNat v }
/-- k0 is the active mask and is never written. -/
def Group.setK (g : Group) (r : KReg) (v : Mask) : Group :=
  if r = 0 then g else { g with kregs := Store.put g.kregs r.toNat v }

/-- Applies one register write, with its undo entry. -/
def Group.apply (g : Group) (ia : VA) : RegWrite → Group
  | .s r v => (g.log ⟨false, undoS r, 8, 0, ia, bytesOf 8 (g.sreg r).toNat⟩).setS r v
  | .v r m x => (g.log ⟨false, undoV r, 128, m, ia, (g.vreg r).flatMap fun w => bytesOf 4 w.toNat⟩).setV r m x
  | .k r v => (g.log ⟨false, undoK r, 4, 0, ia, bytesOf 4 (g.kreg r).toNat⟩).setK r v
  | .c r v =>
    (g.log ⟨false, undoC r, 17, 0, ia, bytesOf 16 (g.creg r).bits.toNat ++ [if (g.creg r).tag then 1 else 0]⟩).setC r v

/-- Reading of a scalar register by the issuing path. -/
def State.rs (s : State) (r : SReg) : W64 := s.g.sreg r
def State.rv (s : State) (r : VReg) : Lanes := s.g.vreg r
def State.rc (s : State) (r : CReg) : Cap := s.g.creg r
/-- k0 reads the active mask of the issuing path (07 R173). -/
def State.rk (s : State) (r : KReg) : Mask := if r = 0 then s.p.mask else s.g.kreg r

/-- A register write by the issuing path. -/
def State.wr (s : State) (w : RegWrite) : State := s.modG fun g => g.apply s.p.pc w
def State.ws (s : State) (r : SReg) (v : W64) : State := s.wr (.s r v)
def State.wv (s : State) (r : VReg) (m : Mask) (x : Lanes) : State := s.wr (.v r m x)
def State.wc (s : State) (r : CReg) (v : Cap) : State := s.wr (.c r v)
def State.wk (s : State) (r : KReg) (v : Mask) : State := s.wr (.k r v)

/-- The lanes in which the issuing instruction acts: active, and unfinished when it is issued again (16 R393). -/
def State.act (s : State) : Mask := s.p.mask &&& s.p.replay.getD 0xFFFFFFFF

/-- The value of a predicate as a mask, before selection (09 R219). -/
def State.predBits (s : State) (q : Pred) : Mask := s.rk q.k ^^^ (if q.kn then 0xFFFFFFFF else 0)

/-- The lanes that a predicate selects (09 R219). -/
def State.sel (s : State) (q : Pred) : Mask := s.act &&& s.predBits q

/-! ### Moving past an instruction (09 R223, 10 R258) -/

/-- The end check of 10 R258 at address `a`: the loop stack after it and the back-edge's target. -/
def endLoops (a : VA) : List LoopEntry → List LoopEntry × Option VA
  | [] => ([], none)
  | t :: r =>
    if t.fin = a then
      if t.left = 1 then endLoops a r else ({ t with left := t.left - 1 } :: r, some t.start)
    else (t :: r, none)

/-- The loops that a taken transfer from `a` to `t` leaves in place (10 R258). -/
def breakLoops (a t : VA) : List LoopEntry → List LoopEntry
  | [] => []
  | e :: r =>
    if e.start ≤ a ∧ a ≤ e.fin ∧ ¬ (e.start ≤ t ∧ t ≤ e.fin) then breakLoops a t r else e :: r

/-- What every issued instruction does to its path: one instruction of the clause is used, a replay is over, the path
is no longer at its hint and no longer promoted. -/
def Path.used (p : Path) : Path :=
  { p with left := p.left - 1, replay := none, wrote := [], atHint := false, promoted := none, steps := p.steps.map fun _ => 0 }

/-- A path past an instruction of `n` bytes, with the end check. -/
def Path.past (p : Path) (n : Nat) : Path :=
  let r := endLoops p.pc p.loops
  let u := p.used
  { u with
    pc := r.2.getD (p.pc + BitVec.ofNat 57 n)
    loops := r.1
    left := if (p.loops.head?.map (·.fin)) = some p.pc then 0 else u.left }

/-- A path after a taken transfer (09 R223, 10 R258). -/
def Path.jump (p : Path) (t : VA) : Path := { p.used with pc := t, left := 0, loops := breakLoops p.pc t p.loops }

/-- A path after CALL, RET or JMPI, which neither pop nor end-check a loop (10 R258). -/
def Path.goto (p : Path) (t : VA) : Path := { p.used with pc := t, left := 0 }

/-- The issuing path continues after an instruction of `n` bytes. -/
def State.retire (s : State) (n : Nat) : State := s.modP fun p => p.past n

/-- Waits of the issuing path: the instruction stays at its program counter. -/
def State.park (s : State) (w : Wait) : State := s.modP fun p => { p with wait := w, parkedAt := s.time }

/-! ### Addresses in a core's local memory (02 R47, R51) -/

/-- The banks of a role, in ascending order; roles are 0 cache, 1 SCR, 2 TOB (02 R47). -/
def banksOf (brr : W64) (role : Nat) : List Nat := (List.range 32).filter fun b => bitsAt brr.toNat (2 * b) 2 == role

/-- The local address of byte `x` of a role's space. -/
def bankAddr (brr : W64) (role x : Nat) : Option Nat := ((banksOf brr role)[x / 16384]?).map fun b => b * 16384 + x % 16384

/-- Bytes of capacity that BRR gives a role. -/
def roleCap (brr : W64) (role : Nat) : Nat := (banksOf brr role).length * 16384

/-- The local addresses of bytes of a window that starts at `base` in a role's space. -/
def localAddrs (brr : W64) (role base off n : Nat) : List Nat :=
  (List.range n).filterMap fun i => bankAddr brr role (base + off + i)

/-- The bytes at local addresses. -/
def Core.readLoc (c : Core) (as : List Nat) : List Byte := as.map fun a => Store.get 0 c.loc a

/-- Writes bytes at local addresses. -/
def Core.writeLoc (c : Core) : List Nat → List Byte → Core
  | a :: as, b :: bs => Core.writeLoc { c with loc := Store.set 0 c.loc a b } as bs
  | _, _ => c

/-- Clears the tags of the granules that hold any of the addresses (01 R18). A granule written whole is no longer in error
(assumption 18). -/
def Core.clearTags (c : Core) (as : List Nat) : Core :=
  { c with
    ltags := c.ltags.filter fun t => !(as.any fun a => a / 16 == t)
    lpoison := c.lpoison.filter fun t => !((List.range 16).all fun i => as.contains (16 * t + i)) }

/-- Reads a group's scratch window. -/
def State.scrRead (s : State) (gid off n : Nat) : List Byte :=
  let g := s.grp gid
  let c := s.core g.core
  c.readLoc (localAddrs c.brr 1 g.scrBase off n)

/-- Whether the granule at a scratch offset is tagged. -/
def State.scrTag (s : State) (gid off : Nat) : Bool :=
  let g := s.grp gid
  let c := s.core g.core
  match bankAddr c.brr 1 (g.scrBase + off) with
  | some a => c.ltags.contains (a / 16)
  | none => false

/-- Whether any of the bytes of a group's scratch lies in a granule with an uncorrectable error (01 R20). -/
def State.scrPoisoned (s : State) (gid off n : Nat) : Bool :=
  let g := s.grp gid
  let c := s.core g.core
  c.lpoison.any fun t => (localAddrs c.brr 1 g.scrBase off n).any fun a => a / 16 == t

/-- Writes a group's scratch window, clearing tags (01 R18). -/
def State.scrWrite (s : State) (gid off : Nat) (bs : List Byte) : State :=
  let g := s.grp gid
  let c := s.core g.core
  let as := localAddrs c.brr 1 g.scrBase off bs.length
  s.setCore g.core ((c.clearTags as).writeLoc as bs)

/-- Undo entries name scratch offset `x` as address 2^57 + x, beyond every physical address. -/
def undoScr (x : Nat) : Nat := 2 ^ 57 + x

/-- A write of its window by the issuing path, with its undo entry (16 R405). -/
def State.scrStore (s : State) (off : Nat) (bs : List Byte) : State :=
  (if s.g.debug then s.modG fun g => g.log ⟨true, undoScr off, bs.length, 0, s.p.pc, s.scrRead s.cur.gid off bs.length⟩
    else s).scrWrite s.cur.gid off bs

/-- Sets the tag of the granule at a scratch offset. -/
def State.scrSetTag (s : State) (gid off : Nat) : State :=
  let g := s.grp gid
  let c := s.core g.core
  match bankAddr c.brr 1 (g.scrBase + off) with
  | some a => s.setCore g.core { c with ltags := insertNat c.ltags (a / 16) }
  | none => s

/-- Writes a group's TOB slots: byte `off` counts from the start of its first slot. -/
def State.tobWrite (s : State) (gid off : Nat) (bs : List Byte) : State :=
  let g := s.grp gid
  let c := s.core g.core
  s.setCore g.core (c.writeLoc (localAddrs c.brr 2 (2048 * g.tobBase) off bs.length) bs)

/-- Reads a group's TOB slots. -/
def State.tobRead (s : State) (gid off n : Nat) : List Byte :=
  let g := s.grp gid
  let c := s.core g.core
  c.readLoc (localAddrs c.brr 2 (2048 * g.tobBase) off n)

end Sys2Proof.Machine
end

