-- ==== Sys2Proof/Machine/Float.lean ====
section
/-! DEFINITION. Float formats and arithmetic (08): decoding, the rounding of R203, the exact results of the operations
of R205 and of 11 Table 11.4. An exact result that is not a binary fraction is kept as a long truncation with a sticky
mark, from which every rounding follows. -/

namespace Sys2Proof.Machine

/-- An exact value. `fin s m e st` is (-1)^s times m × 2^e, or when `st` a number strictly between that and
(m + 1) × 2^e. -/
inductive Val where
  | nan (sig : Bool)
  | inf (s : Bool)
  | fin (s : Bool) (m : Nat) (e : Int) (st : Bool)
  deriving DecidableEq, Repr

/-- A float format: IEEE with its exponent and fraction widths (08 Table 8.1), binary8pP (R198), F4 (R200). -/
inductive Fmt where
  | ieee (eb fb : Nat)
  | p8 (p : Nat) (signed ext : Bool)
  | f4
  deriving DecidableEq, Repr

def fp64 : Fmt := .ieee 11 52
def fp32 : Fmt := .ieee 8 23
def fp16 : Fmt := .ieee 5 10
def bf16 : Fmt := .ieee 8 7

/-! ### Parameters of a format -/

/-- The code's width in bits. -/
def fmtBits : Fmt → Nat
  | .ieee eb fb => 1 + eb + fb
  | .p8 _ _ _ => 8
  | .f4 => 4

/-- The precision p. -/
def fmtPrec : Fmt → Nat
  | .ieee _ fb => fb + 1
  | .p8 p _ _ => p
  | .f4 => 2

def fmtBias : Fmt → Nat
  | .ieee eb _ => 2 ^ (eb - 1) - 1
  | .p8 p sg _ => 2 ^ ((if sg then 7 else 8) - p)
  | .f4 => 1

/-- The exponent of the smallest normal value. -/
def fmtEmin (f : Fmt) : Int := 1 - (fmtBias f : Int)

/-- The magnitude bits of the largest finite code (08 Tables 8.1 and 8.2). -/
def fmtMax : Fmt → Nat
  | .ieee eb fb => (2 ^ eb - 1) * 2 ^ fb - 1
  | .p8 _ true true => 0x7E
  | .p8 _ true false => 0x7F
  | .p8 _ false true => 0xFD
  | .p8 _ false false => 0xFE
  | .f4 => 7

/-- The format's canonical NaN code. -/
def fmtNan : Fmt → Option Nat
  | .ieee eb fb => some ((2 ^ eb - 1) * 2 ^ fb + 2 ^ (fb - 1))
  | .p8 _ true _ => some 0x80
  | .p8 _ false _ => some 0xFF
  | .f4 => none

/-- The magnitude code of infinity. -/
def fmtInf : Fmt → Option Nat
  | .ieee eb fb => some ((2 ^ eb - 1) * 2 ^ fb)
  | .p8 _ true true => some 0x7F
  | .p8 _ false true => some 0xFE
  | .p8 _ _ false => none
  | .f4 => none

/-- Whether the format has a sign bit. -/
def fmtSigned : Fmt → Bool
  | .p8 _ sg _ => sg
  | .ieee _ _ => true
  | .f4 => true

/-- Whether the format has -0. -/
def fmtNegZero : Fmt → Bool
  | .ieee _ _ => true
  | .p8 _ _ _ => false
  | .f4 => false

/-- Puts a sign on a magnitude code. -/
def signCode (f : Fmt) (s : Bool) (mag : Nat) : Nat := if s && fmtSigned f then mag + 2 ^ (fmtBits f - 1) else mag

/-! ### Decoding (R196, R198-R200) -/

/-- The finite value of a magnitude code: exponent field and fraction. -/
def magValue (f : Fmt) (s : Bool) (mag : Nat) : Val :=
  let p := fmtPrec f
  let ef := mag / 2 ^ (p - 1)
  let t := mag % 2 ^ (p - 1)
  if ef = 0 then .fin s t (1 - (fmtBias f : Int) - ((p : Int) - 1)) false
  else .fin s (2 ^ (p - 1) + t) ((ef : Int) - (fmtBias f : Int) - ((p : Int) - 1)) false

/-- The value of a code, but for F4's extra code. -/
def decodeBase (f : Fmt) (c : Nat) : Val :=
  let w := fmtBits f - (if fmtSigned f then 1 else 0)
  let s := fmtSigned f && c.testBit w
  let mag := c % 2 ^ w
  match f with
  | .ieee eb fb =>
    if (2 ^ eb - 1) * 2 ^ fb < mag then .nan (!mag.testBit (fb - 1))
    else if mag = (2 ^ eb - 1) * 2 ^ fb then .inf s else magValue f s mag
  | .p8 _ _ _ =>
    if fmtNan f = some (c % 256) then .nan false
    else if fmtInf f = some mag then .inf s else magValue f s mag
  | .f4 => magValue f s mag

/-- The value of a code; `x` is the BF16 code that F4's code 0x8 stands for (R200). -/
def decodeF (f : Fmt) (x : Nat) (c : Nat) : Val :=
  if f = .f4 ∧ c % 16 = 8 then decodeBase bf16 x else decodeBase f c

/-! ### Rounding (R203, R204) -/

/-- The flags NV, DZ, OF, UF and NX of 08 Table 8.4, as bits. -/
def fNV : Nat := 1
def fDZ : Nat := 2
def fOF : Nat := 4
def fUF : Nat := 8
def fNX : Nat := 16
def fIS : Nat := 32

/-- round_int of R203: m × 2^k (with a sticky remainder) to an integer, and whether that is inexact. -/
def roundInt (rm : Rm) (s : Bool) (m : Nat) (k : Int) (st : Bool) : Nat × Bool :=
  if 0 ≤ k then (m * 2 ^ k.toNat, st)
  else
    let j := (-k).toNat
    -- a magnitude below one quarter has no integer part, and its exact place does not matter
    let (n, r, h, st) := if m.log2 + 2 < j then (0, 0, 1, st || m != 0) else (m / 2 ^ j, m % 2 ^ j, 2 ^ (j - 1), st)
    let inexact := r != 0 || st
    let above := decide (h < r) || (r == h && st)
    let tie := r == h && !st
    let up := match rm with
      | .rne => above || (tie && n % 2 == 1)
      | .rna => above || tie
      | .rtz => false
      | .rdn => s && inexact
      | .rup => !s && inexact
      | .dyn => false
    (if up then n + 1 else n, inexact)

/-- Rounding to a float format (R203): the code and the flags. -/
def cvt (f : Fmt) (rm : Rm) (sat : Bool) (x : Val) : Nat × Nat :=
  match x with
  | .nan sig =>
    match fmtNan f with
    | some c => (c, if sig then fNV else 0)
    | none => (0, fNV)
  | .inf s =>
    if s && !fmtSigned f then ((fmtNan f).getD 0, fNV)
    else
      match (if sat then none else fmtInf f) with
      | some i => (signCode f s i, 0)
      | none => (signCode f s (fmtMax f), fOF + fNX)
  | .fin s m e st =>
    let zero := if fmtNegZero f then signCode f s 0 else 0
    if m = 0 ∧ !st then (zero, 0)
    else if s && !fmtSigned f then ((fmtNan f).getD 0, fNV)
    else
      let p := fmtPrec f
      let lg : Int := (m.log2 : Int) + e
      let ex := max lg (fmtEmin f)
      let r := roundInt rm s m (e - (ex - (p : Int) + 1)) st
      let nx := if r.2 then fNX + (if lg < fmtEmin f then fUF else 0) else 0
      -- codes of one sign rise with their values: exponent and significand add up to the magnitude code
      let mag := r.1 + (ex - fmtEmin f).toNat * 2 ^ (p - 1)
      if fmtMax f < mag then
        let fl := fOF ||| fNX ||| nx
        match (if sat || rm == .rtz || (rm == .rdn && !s) || (rm == .rup && s) then none else fmtInf f) with
        | some i => (signCode f s i, fl)
        | none => (signCode f s (fmtMax f), fl)
      else if mag = 0 then (zero, nx)
      else (signCode f s mag, nx)

/-- Conversion to a w-bit integer (R204). -/
def toInt (w : Nat) (signed : Bool) (rm : Rm) (x : Val) : Nat × Nat :=
  let hi : Nat := if signed then 2 ^ (w - 1) - 1 else 2 ^ w - 1
  let lo : Nat := if signed then 2 ^ (w - 1) else 0      -- magnitude of the minimum
  let sat (s : Bool) : Nat × Nat := (if s then (2 ^ w - lo) % 2 ^ w else hi, fNV)
  match x with
  | .nan _ => (0, fNV)
  | .inf s => sat s
  | .fin s m e st =>
    if m ≠ 0 ∧ (w : Int) < (m.log2 : Int) + e then sat s
    else
      let r := roundInt rm s m e st
      if r.1 > (if s then lo else hi) then sat s
      else ((if s then 2 ^ w - r.1 else r.1) % 2 ^ w, if r.2 then fNX else 0)

/-! ### Exact arithmetic (R205, 11 R285, R290) -/

def isNan : Val → Bool
  | .nan _ => true
  | .inf _ => false
  | .fin _ _ _ _ => false

def isSig : Val → Bool
  | .nan sig => sig
  | .inf _ => false
  | .fin _ _ _ _ => false

def isInf : Val → Bool
  | .inf _ => true
  | .nan _ => false
  | .fin _ _ _ _ => false

def isZero : Val → Bool
  | .fin _ m _ st => m == 0 && !st
  | .nan _ => false
  | .inf _ => false

def signOf : Val → Bool
  | .fin s _ _ _ => s
  | .inf s => s
  | .nan _ => false

def negVal : Val → Val
  | .fin s m e st => .fin (!s) m e st
  | .inf s => .inf (!s)
  | .nan sig => .nan sig

/-- 1. -/
def oneVal (s : Bool) : Val := .fin s 1 0 false
def zeroVal (s : Bool) : Val := .fin s 0 0 false

/-- The integer that a finite value is, in units of 2^lo. -/
def units (lo : Int) : Val → Int
  | .fin s m e _ => (if s then -1 else 1) * ((m * 2 ^ (e - lo).toNat : Nat) : Int)
  | .inf _ => 0
  | .nan _ => 0

def expOf : Val → Int
  | .fin _ m e _ => if m = 0 then 0 else e
  | .inf _ => 0
  | .nan _ => 0

/-- The exact sum of exact values that are not NaN; a zero sum of unlike signs is +0, or -0 under .rdn (R203). -/
def sumVals (rm : Rm) (l : List Val) : Val × Nat :=
  let infs := (l.filter isInf).map signOf
  if infs.contains true && infs.contains false then (.nan false, fNV)
  else
    match infs with
    | s :: _ => (.inf s, 0)
    | [] =>
      let lo := (l.filter fun v => !isZero v).foldl (fun a v => min a (expOf v)) 0
      let t := l.foldl (fun a v => a + units lo v) 0
      if t = 0 then
        let s := if l.all signOf then !l.isEmpty else if l.all fun v => !signOf v then false else rm == .rdn
        (zeroVal s, 0)
      else (.fin (decide (t < 0)) t.natAbs lo false, 0)

/-- The exact product of values that are not NaN; none for 0 × ∞. -/
def mulVals : Val → Val → Option Val
  | .inf s, y => if isZero y then none else some (.inf (s != signOf y))
  | x, .inf s => if isZero x then none else some (.inf (signOf x != s))
  | .fin s m e _, .fin t n f _ => some (.fin (s != t) (m * n) (e + f) false)
  | _, _ => none

/-- A sum of products and a last term (R285, R290): an invalid product sets NV even beside a quiet NaN. -/
def fusedVals (rm : Rm) (prods : List (Val × Val)) (z : Val) : Val × Nat :=
  let ops := z :: prods.flatMap fun p => [p.1, p.2]
  let ms := prods.map fun p => if isNan p.1 || isNan p.2 then some (Val.nan false) else mulVals p.1 p.2
  let bad := ms.contains none
  if ops.any isNan || bad then (.nan false, if bad || ops.any isSig then fNV else 0)
  else sumVals rm (ms.filterMap id ++ [z])

/-- x + y. -/
def addF (rm : Rm) (x y : Val) : Val × Nat :=
  if isNan x || isNan y then (.nan false, if isSig x || isSig y then fNV else 0) else sumVals rm [x, y]

def subF (rm : Rm) (x y : Val) : Val × Nat := addF rm x (negVal y)

def mulF (_ : Rm) (x y : Val) : Val × Nat :=
  if isNan x || isNan y then (.nan false, if isSig x || isSig y then fNV else 0)
  else match mulVals x y with | some v => (v, 0) | none => (.nan false, fNV)

/-- m / n as a long truncation: 200 bits of quotient. -/
def divNat (s : Bool) (m : Nat) (e : Int) (n : Nat) (f : Int) : Val :=
  let k := 200 + n.log2
  .fin s (m * 2 ^ k / n) (e - f - k) (m * 2 ^ k % n != 0)

/-- x / y (R205). -/
def divF (_ : Rm) (x y : Val) : Val × Nat :=
  if isNan x || isNan y then (.nan false, if isSig x || isSig y then fNV else 0)
  else
    let s := signOf x != signOf y
    match x, y with
    | .fin _ m e _, .fin _ n f _ =>
      if n = 0 then (if m = 0 then (.nan false, fNV) else (.inf s, fDZ))
      else if m = 0 then (zeroVal s, 0) else (divNat s m e n f, 0)
    | .inf _, .inf _ => (.nan false, fNV)
    | .inf _, _ => (.inf s, 0)
    | _, _ => (zeroVal s, 0)

/-- A one-operand function: NaN first, then its own rule (R205). -/
def unaryF (f : Val → Val × Nat) (x : Val) : Val × Nat := if isNan x then (.nan false, if isSig x then fNV else 0) else f x

/-- The integer square root, from bit `n` down. -/
def sqrtFrom (v : Nat) : Nat → Nat → Nat
  | 0, r => if (r + 1) * (r + 1) ≤ v then r + 1 else r
  | n + 1, r =>
    let t := r + 2 ^ (n + 1)
    sqrtFrom v n (if t * t ≤ v then t else r)

def isqrt (v : Nat) : Nat := sqrtFrom v (v.log2 / 2 + 1) 0

/-- √(m × 2^e) with 200 bits. -/
def sqrtNat (m : Nat) (e : Int) : Val :=
  let k : Nat := 400 + (if (e - 400) % 2 = 0 then 0 else 1)
  let v := m * 2 ^ k
  let r := isqrt v
  .fin false r ((e - k) / 2) (r * r != v)

/-- 1 / √(m × 2^e) with about 300 bits. -/
def rsqrtNat (m : Nat) (e : Int) : Val :=
  let (m, e) := if e % 2 = 0 then (m, e) else (2 * m, e - 1)
  let k := 300 + m.log2
  let r := isqrt (2 ^ (2 * k) / m)
  .fin false r (-k - e / 2) (r * r * m != 2 ^ (2 * k))

def rcpF (x : Val) : Val × Nat := unaryF (divF .rne (oneVal false)) x

def sqrtF : Val → Val × Nat := unaryF fun x =>
  match x with
  | .fin s m e _ => if m = 0 then (x, 0) else if s then (.nan false, fNV) else (sqrtNat m e, 0)
  | .inf s => if s then (.nan false, fNV) else (x, 0)
  | .nan _ => (x, 0)

def rsqrtF : Val → Val × Nat := unaryF fun x =>
  match x with
  | .fin s m e _ => if m = 0 then (.inf s, fDZ) else if s then (.nan false, fNV) else (rsqrtNat m e, 0)
  | .inf s => if s then (.nan false, fNV) else (zeroVal false, 0)
  | .nan _ => (x, 0)

/-! ### The transcendental functions (11 Table 11.4), in fixed point with 800 fraction bits, of which 768 are kept -/

def fixP : Nat := 800

/-- A fixed-point number that no binary fraction equals. -/
def fixVal (s : Bool) (v : Nat) : Val := .fin s (v / 2 ^ 32) (-768) true

/-- The sum of q^(2k+1)/(2k+1) for q = a/b: atanh, or atan with alternating signs; `t` is q^(2k+1). -/
def atanSum (alt : Bool) (a b : Nat) : Nat → Nat → Nat → Int
  | 0, _, _ => 0
  | n + 1, k, t =>
    (if alt && k % 2 == 1 then -1 else 1) * ((t / (2 * k + 1) : Nat) : Int) + atanSum alt a b n (k + 1) (t * a * a / (b * b))

/-- 2 atanh(a / b), for a / b at most one third: ln((b + a) / (b - a)). -/
def lnRatio (a b : Nat) : Nat := (2 * atanSum false a b 280 0 (2 ^ fixP * a / b)).toNat

def ln2Fix : Nat := lnRatio 1 3

def piFix : Nat :=
  (16 * atanSum true 1 5 200 0 (2 ^ fixP / 5) - 4 * atanSum true 1 239 60 0 (2 ^ fixP / 239)).toNat

/-- e^y for fixed-point y below 1. -/
def expSum (y : Nat) : Nat → Nat → Nat → Nat
  | 0, _, _ => 0
  | n + 1, k, t => t + expSum y n (k + 1) (t * y / 2 ^ fixP / (k + 1))

def expFix (y : Nat) : Nat := expSum y 200 0 (2 ^ fixP)

/-- sin y (from t = y, k = 1) or cos y (from t = 1, k = 0) for fixed-point y. -/
def sinSum (y : Nat) : Nat → Nat → Nat → Int
  | 0, _, _ => 0
  | n + 1, k, t => (t : Int) - sinSum y n (k + 2) (t * y / 2 ^ fixP * y / 2 ^ fixP / ((k + 1) * (k + 2)))

def sinFix (y : Nat) : Nat := (sinSum y 120 1 y).toNat

/-- m × 2^e in fixed point. -/
def toFix (m : Nat) (e : Int) : Nat := if 0 ≤ e + fixP then m * 2 ^ (e + fixP).toNat else m / 2 ^ (-(e + fixP)).toNat

/-- 2^x. -/
def exp2F : Val → Val × Nat := unaryF fun x =>
  match x with
  | .inf s => (if s then zeroVal false else x, 0)
  | .nan _ => (x, 0)
  | .fin s m e _ =>
    if m = 0 then (oneVal false, 0)
    else if 20 < (m.log2 : Int) + e then
      (if s then .fin false 1 (-0x100000) true else .fin false 1 0x100000 true, 0)
    else
      let v := toFix m e
      let one := 2 ^ fixP
      if v % one = 0 then (.fin false 1 (if s then -((v / one : Nat) : Int) else ((v / one : Nat) : Int)) false, 0)
      else
        let (n, f) : Int × Nat := if s then (-((v / one : Nat) : Int) - 1, one - v % one) else (((v / one : Nat) : Int), v % one)
        match fixVal false (expFix (f * ln2Fix / one)) with
        | .fin _ k ex st => (.fin false k (ex + n) st, 0)
        | r => (r, 0)

/-- log2 x. -/
def log2F : Val → Val × Nat := unaryF fun x =>
  match x with
  | .inf s => if s then (.nan false, fNV) else (x, 0)
  | .nan _ => (x, 0)
  | .fin s m e _ =>
    if m = 0 then (.inf true, fDZ)
    else if s then (.nan false, fNV)
    else
      let b := m.log2
      let ex : Int := (b : Int) + e
      if m = 2 ^ b then (.fin (decide (ex < 0)) ex.natAbs 0 false, 0)
      else
        let t : Int := ex * ((2 ^ fixP : Nat) : Int) + ((lnRatio (m - 2 ^ b) (m + 2 ^ b) * 2 ^ fixP / ln2Fix : Nat) : Int)
        (fixVal (decide (t < 0)) t.natAbs, 0)

/-- sin(π r) for fixed-point r in (0, 1/2]. -/
def sinPi (s : Bool) (r : Nat) : Val :=
  if 2 * r = 2 ^ fixP then oneVal s else fixVal s (sinFix (r * piFix / 2 ^ fixP))

/-- sin(π (x + h/2)) of a finite nonzero |x|, with the sign that sine gives it. -/
def sinTurn (m : Nat) (e : Int) (h : Nat) : Option Val :=
  let one := 2 ^ fixP
  let v := (toFix m e + h * (one / 2)) % (2 * one)
  let s := decide (one ≤ v)
  let r := v % one
  if r = 0 then none else some (sinPi s (if one / 2 < r then one - r else r))

/-- sin(π x). -/
def sinF : Val → Val × Nat := unaryF fun x =>
  match x with
  | .inf _ => (.nan false, fNV)
  | .nan _ => (x, 0)
  | .fin s m e _ =>
    if m = 0 then (x, 0)
    else
      match sinTurn m e 0 with
      | none => (zeroVal s, 0)
      | some v => (if s then negVal v else v, 0)

/-- cos(π x). -/
def cosF : Val → Val × Nat := unaryF fun x =>
  match x with
  | .inf _ => (.nan false, fNV)
  | .nan _ => (x, 0)
  | .fin _ m e _ =>
    if m = 0 then (oneVal false, 0)
    else
      match sinTurn m e 1 with
      | none => (zeroVal false, 0)
      | some v => (v, 0)

/-- tanh x = (1 - q) / (1 + q) for q = e^(-2|x|). -/
def tanhF : Val → Val × Nat := unaryF fun x =>
  match x with
  | .inf s => (oneVal s, 0)
  | .nan _ => (x, 0)
  | .fin s m e _ =>
    if m = 0 then (x, 0)
    else if 7 < (m.log2 : Int) + e then (fixVal s (2 ^ fixP - 1), 0)
    else
      let one := 2 ^ fixP
      -- 2|x| in units of ln 2, as k + f
      let u := 2 * toFix m e * one / ln2Fix
      let q := expFix ((one - u % one) * ln2Fix / one) / 2 ^ (u / one + 1)
      (fixVal s ((one - q) * one / (one + q)), 0)

/-! ### Order and class (11 R286-R288) -/

/-- x < y of values that are not NaN; -0 equals +0. -/
def ltVal : Val → Val → Bool
  | .inf s, y => s && !(y == .inf true)
  | x, .inf s => !s && !(x == .inf false)
  | x, y => let lo := min (expOf x) (expOf y); decide (units lo x < units lo y)

def eqVal (x y : Val) : Bool := !ltVal x y && !ltVal y x

/-- A comparison (R287): its truth and its flags. -/
def fcmp (c : FCmp) (x y : Val) : Bool × Nat :=
  let un := isNan x || isNan y
  let sig := isSig x || isSig y
  let strict := match c with | .lt | .le | .gt | .ge => true | .eq | .ne | .uo | .or => false
  let holds := match c with
    | .eq => !un && eqVal x y
    | .ne => un || !eqVal x y
    | .lt => !un && ltVal x y
    | .le => !un && !ltVal y x
    | .gt => !un && ltVal y x
    | .ge => !un && !ltVal x y
    | .uo => un
    | .or => !un
  (holds, if (strict && un) || sig then fNV else 0)

/-- Minimum or maximum of two codes (R286): a code and the flags. -/
def fminmax (f : Fmt) (mx : Bool) (a b : Nat) : Nat × Nat :=
  let x := decodeBase f a
  let y := decodeBase f b
  let fl := if isSig x || isSig y then fNV else 0
  if isNan x && isNan y then ((fmtNan f).getD 0, fl)
  else if isNan x then (b, fl)
  else if isNan y then (a, fl)
  else
    let less := ltVal x y || (eqVal x y && signOf x && !signOf y)
    (if less != mx then a else b, fl)

/-- The class mask of a code (R288). -/
def fclass (f : Fmt) (c : Nat) : Nat :=
  match decodeBase f c with
  | .nan sig => if sig then 1 else 2
  | .inf s => if s then 4 else 512
  | .fin s m _ _ =>
    if m = 0 then (if s then 32 else 64)
    else if m < 2 ^ (fmtPrec f - 1) then (if s then 16 else 128)
    else (if s then 8 else 256)

end Sys2Proof.Machine
end

