-- ==== Sys2Proof/Machine/Cap.lean ====
section
/-! DEFINITION. Capabilities: fields, bounds, cursor changes and the checks made before an access leaves the core
(01 R9-R17). -/

namespace Sys2Proof

open Sys2Proof.Machine

/-- The null capability (01 R10). -/
def Cap.null : Cap := ⟨0, false⟩

/-! ### Fields (01 Table 1.1) -/

def Cap.cursor (c : Cap) : Nat := bitsAt c.bits.toNat 0 57
def Cap.e (c : Cap) : Nat := bitsAt c.bits.toNat 64 6
def Cap.bm (c : Cap) : Nat := bitsAt c.bits.toNat 70 29
def Cap.tm (c : Cap) : Nat := bitsAt c.bits.toNat 99 29
/-- LD, ST, AT, X, LC, SC, GL in bits 0-6. -/
def Cap.perms (c : Cap) : Nat := bitsAt c.bits.toNat 57 7
def Cap.ld (c : Cap) : Bool := c.bits.getLsbD 57
def Cap.st (c : Cap) : Bool := c.bits.getLsbD 58
def Cap.atomics (c : Cap) : Bool := c.bits.getLsbD 59
def Cap.x (c : Cap) : Bool := c.bits.getLsbD 60
def Cap.lc (c : Cap) : Bool := c.bits.getLsbD 61
def Cap.sc (c : Cap) : Bool := c.bits.getLsbD 62
def Cap.gl (c : Cap) : Bool := c.bits.getLsbD 63

/-- A capability from its fields; no tag is set when E exceeds 33 (01 R10). -/
def Cap.make (t b e perms cursor : Nat) (tag : Bool) : Cap :=
  ⟨BitVec.ofNat 128 (cursor % 2 ^ 57 + perms % 128 * 2 ^ 57 + e % 64 * 2 ^ 64 + b % 2 ^ 29 * 2 ^ 70 + t % 2 ^ 29 * 2 ^ 99),
    tag && decide (e ≤ 33)⟩

/-! ### Bounds (01 R11, R13) -/

/-- Base, top and window of a capability. -/
structure Bounds where
  base : Int
  top  : Int
  wlo  : Int
  whi  : Int
  deriving DecidableEq, Repr

/-- The decode of 01 R11. -/
def Cap.bounds (c : Cap) : Bounds :=
  let e := c.e
  let m := 2 ^ 29
  let rb := (c.bm + m - 2 ^ 26) % m
  let q := c.cursor / 2 ^ e
  let am := q % m
  let wlo : Int := (q * 2 ^ e : Nat) - (((am + m - rb) % m * 2 ^ e : Nat) : Int)
  { base := wlo + (((c.bm + m - rb) % m * 2 ^ e : Nat) : Int)
    top := wlo + (((c.tm + m - rb) % m * 2 ^ e : Nat) : Int)
    wlo := wlo
    whi := wlo + ((2 ^ (e + 29) : Nat) : Int) }

/-- Whether the `n` bytes at `a` lie in the bounds and below 2^57 (01 R11). -/
def Cap.covers (c : Cap) (a n : Nat) : Bool :=
  let b := c.bounds
  decide (b.base ≤ a) && decide ((a + n : Nat) ≤ b.top) && decide (a + n ≤ 2 ^ 57)

/-- The ceiling of a quotient. -/
def ceilDiv (a b : Nat) : Nat := (a + b - 1) / b

/-- The exponent of 01 R13, searched upward from `e` with `fuel` steps. -/
def boundsExp (base len : Nat) : Nat → Nat → Nat
  | 0, e => e
  | fuel + 1, e =>
    if ceilDiv (base + len) (2 ^ e) * 2 ^ e - base / 2 ^ e * 2 ^ e < 7 * 2 ^ (e + 26) then e
    else boundsExp base len fuel (e + 1)

/-- The bounds fields (E, B, T) of an object (01 R13). -/
def encodeBounds (base len : Nat) : Nat × Nat × Nat :=
  let e := boundsExp base len 40 0
  (e, base / 2 ^ e % 2 ^ 29, ceilDiv (base + len) (2 ^ e) % 2 ^ 29)

/-- Whether the object's bounds are exact (01 R13). -/
def exactBounds (base len : Nat) : Bool :=
  let e := boundsExp base len 40 0
  base % 2 ^ e == 0 && (base + len) % 2 ^ e == 0

/-- A capability with its cursor moved (01 R12). -/
def Cap.move (c : Cap) (a : Int) : Cap :=
  let b := c.bounds
  Cap.make c.tm c.bm c.e c.perms (a % 2 ^ 57).toNat (c.tag && decide (b.wlo ≤ a) && decide (a < b.whi))

/-! ### Cause codes (16 Table 16.1) -/

def Code.fetchFault : Nat := 0x02
def Code.fetchAlign : Nat := 0x03
def Code.illegalOpcode : Nat := 0x04
def Code.illegalField : Nat := 0x05
def Code.illegalLength : Nat := 0x06
def Code.clauseOverrun : Nat := 0x07
def Code.priv : Nat := 0x08
def Code.capTag : Nat := 0x10
def Code.capBounds : Nat := 0x11
def Code.capPerm : Nat := 0x12
def Code.scrBounds : Nat := 0x14
def Code.capNoTagMem : Nat := 0x15
def Code.align : Nat := 0x18
def Code.ordReserved : Nat := 0x19
def Code.straddle : Nat := 0x1A
def Code.pageNotPresent : Nat := 0x20
def Code.pagePerm : Nat := 0x21
def Code.ecc : Nat := 0x28
def Code.arith : Nat := 0x30
def Code.spill : Nat := 0x38
def Code.software : Nat := 0x40
def Code.breakpoint : Nat := 0x48
def Code.engine : Nat := 0x50
def Code.joinFault : Nat := 0x58

/-- The causes whose trap point is the next instruction (16 Table 16.1). -/
def Code.resumes (c : Nat) : Bool := c == Code.arith || c == Code.software || c == Code.joinFault

/-! ### The checks of 01 R14 -/

/-- The permission that a kind of access needs (01 R14). -/
def Cap.permits (c : Cap) : Acc → Bool
  | .load => c.ld
  | .store => c.st
  | .cst => c.st
  | .atomic => c.ld && c.st && c.atomics
  | .fetch => c.x

/-- The lowest cause of 01 R14 for an access of `n` bytes at the 64-bit address `a`. -/
def Cap.check (c : Cap) (acc : Acc) (a n : Nat) : Option Nat :=
  if !c.tag then some Code.capTag
  else if !c.covers a n then some Code.capBounds
  else if !c.permits acc then some Code.capPerm
  else none

/-- The added check of a CST of a tagged value outside scratch (01 R14). -/
def Cap.checkCst (c : Cap) (v : Cap) : Option Nat := if v.tag && (!c.sc || !v.gl) then some Code.capPerm else none

/-- The lower of two causes (16 R390). -/
def lowCause : Option Nat → Option Nat → Option Nat
  | none, b => b
  | a, none => a
  | some a, some b => some (min a b)

end Sys2Proof
end

