-- ==== Sys2Proof/Machine/Translate.lean ====
section
/-! DEFINITION. Physical memory, its map, page tables and translation at the slices (01 R16-R37). -/

namespace Sys2Proof.Machine

/-! ### The physical map (01 R22, 02 R53, R70) -/

def pkgOf (pa : Nat) : Nat := pa / 2 ^ 43
def localOf (pa : Nat) : Nat := pa % 2 ^ 43

/-- The memory type of a local address (01 Table 1.4). -/
def mtOf (l : Nat) : Option Nat :=
  if l < 0x10000000000 then some 0
  else if l < 0x10020000000 then some 1
  else if l < 0x20000000000 then none
  else if l < 0x20100000000 then some 4
  else if l < 0x40000000000 then none
  else if l < 0x80000000000 then some 2
  else none

/-- The home die of an HBM or CMEM address. -/
def homeDie (pa : Nat) : Nat :=
  let l := localOf pa
  if l < 0x10000000000 then l / 0x2000000000 else (l - 0x10000000000) / 0x4000000 % 8

/-- The slice that the bits of a physical address choose within a die (02 R53, R75). -/
def sliceOf (pa : Nat) : Nat :=
  Nat.xor (Nat.xor (bitsAt pa 7 4) (bitsAt pa 11 4)) (Nat.xor (bitsAt pa 15 4) (bitsAt pa 19 4))

/-- The bank of a CMEM address (02 R70). -/
def bankOf (pa : Nat) : Nat := bitsAt pa 8 8

/-- The translating slice (01 R35). -/
def transSlice (asid va : Nat) : Nat :=
  Nat.xor (Nat.xor (bitsAt asid 0 4) (bitsAt va 15 4)) (Nat.xor (bitsAt va 19 4) (bitsAt va 23 4))

/-- Whether an address lies in CMEM. -/
def isCmem (pa : Nat) : Bool := mtOf (localOf pa) == some 1

/-! ### Bytes and tags of memory (01 R16, R18) -/

def State.readByte (s : State) (a : Nat) : Byte := Store.get Memory.unlisted s.mem a
def State.read (s : State) (a n : Nat) : List Byte := (List.range n).map fun i => s.readByte (a + i)
def State.readNat (s : State) (a n : Nat) : Nat := natOf (s.read a n)
def State.writeByte (s : State) (a : Nat) (b : Byte) : State := { s with mem := Store.set Memory.unlisted s.mem a b }

/-- Writes bytes and nothing else. -/
def State.writeRaw (s : State) : Nat → List Byte → State
  | _, [] => s
  | a, b :: bs => State.writeRaw (s.writeByte a b) (a + 1) bs

/-- Whether a granule that holds any of `n` bytes at `a` has the number `t`. -/
def touches (a n t : Nat) : Bool := decide (0 < n) && decide (a / 16 ≤ t) && decide (t ≤ (a + n - 1) / 16)

/-- A write that is not a CST: the bytes, with the tags of every granule written cleared (01 R18). A granule written
whole is no longer in error (assumption 18). -/
def State.write (s : State) (a : Nat) (bs : List Byte) : State :=
  { s.writeRaw a bs with
    tags := s.tags.filter fun t => !touches a bs.length t
    poison := s.poison.filter fun t => !(decide (a ≤ 16 * t) && decide (16 * t + 16 ≤ a + bs.length)) }

def State.tagAt (s : State) (a : Nat) : Bool := s.tags.contains (a / 16)
def State.setTag (s : State) (a : Nat) (t : Bool) : State :=
  { s with tags := if t then insertNat s.tags (a / 16) else removeNat s.tags (a / 16) }

/-- Whether any of the bytes lies in a granule with an uncorrectable error (01 R20). -/
def State.poisoned (s : State) (a n : Nat) : Bool := s.poison.any (touches a n)

/-! ### Page table entries (01 R24-R26) -/

structure Pte where
  v    : Bool
  leaf : Bool
  mt   : Nat
  ord  : Nat
  w    : Bool
  x    : Bool
  ap   : Bool
  tags : Bool
  af   : Bool
  df   : Bool
  zp   : Bool
  cpc  : Nat
  pa   : Nat
  own  : Nat
  rhi  : Nat
  resv : Bool
  npa  : Nat
  deriving DecidableEq, Repr

/-- The fields of a 16-byte entry (01 Tables 1.5, 1.6). -/
def Pte.ofNat (n : Nat) : Pte :=
  { v := n.testBit 0, leaf := n.testBit 1, mt := bitsAt n 2 3, ord := bitsAt n 5 2, w := n.testBit 7, x := n.testBit 8,
    ap := n.testBit 9, tags := n.testBit 10, af := n.testBit 11, df := n.testBit 12, zp := n.testBit 13,
    cpc := bitsAt n 14 2, pa := bitsAt n 16 37 * 2 ^ 15, own := bitsAt n 64 4, rhi := bitsAt n 68 16,
    resv := bitsAt n 53 11 != 0 || bitsAt n 84 44 != 0, npa := bitsAt n 16 38 * 2 ^ 14 }

/-- What a translation fails with (01 R27, R29): the cause, and the KIND of the fault record (16 Table 16.2). -/
structure TFault where
  code : Nat
  kind : Nat
  deriving DecidableEq, Repr

def TFault.absent : TFault := ⟨Code.pageNotPresent, 0⟩
def TFault.malformed : TFault := ⟨Code.pageNotPresent, 1⟩
def TFault.zeroPending : TFault := ⟨Code.pageNotPresent, 2⟩
def TFault.perm : TFault := ⟨Code.pagePerm, 0⟩
def TFault.ord : TFault := ⟨Code.ordReserved, 0⟩

/-- Whether MT agrees with the physical address (01 R23). -/
def Pte.consistent (pkg : Nat) (p : Pte) : Bool :=
  if p.mt = 3 then pkgOf p.pa != pkg && (mtOf (localOf p.pa) == some 0 || mtOf (localOf p.pa) == some 1)
  else pkgOf p.pa == pkg && mtOf (localOf p.pa) == some p.mt

/-- The checks of check_leaf (01 R27), for a leaf at level `lvl` and the partition that owns the address space. -/
def Pte.checkLeaf (pkg part lvl : Nat) (p : Pte) (acc : Acc) : Option TFault :=
  if p.resv || decide (p.mt > 4) || p.cpc == 3 || decide (p.own > 7) || p.pa % 2 ^ (15 + 10 * lvl) != 0
      || !p.consistent pkg || (p.tags && (p.mt == 2 || p.mt == 4)) || (p.mt == 4 && p.ord != 1) || (p.mt == 1 && lvl == 2)
    then some .malformed
  else if p.zp then some .zeroPending
  else if p.own ≠ part then some .perm
  else if p.ord = 3 then some .ord
  else match acc with
    | .load => none
    | .fetch => if p.x then none else some .perm
    | .store => if p.w then none else some .perm
    | .cst => if p.w then none else some .perm
    | .atomic => if p.w && p.ap then none else some .perm

/-- The fields of a 64-byte address-space context (01 R34). The reserved bits of a TTB register are not among the
context's reserved bytes: the spec gives a nonzero one no consequence, and the walk ignores them (assumption 115). -/
def AsCtx.ofNat (n : Nat) : AsCtx :=
  { ttb0 := BitVec.ofNat 64 n, ttb1 := BitVec.ofNat 64 (n / 2 ^ 64), ttb2 := BitVec.ofNat 64 (n / 2 ^ 128)
    ttb3 := BitVec.ofNat 64 (n / 2 ^ 192), rhtb := BitVec.ofNat 64 (n / 2 ^ 256), rhtn := bitsAt n 320 16, asid := bitsAt n 336 16
    part := bitsAt n 360 8, resv := bitsAt n 352 8 != 0 || bitsAt n 368 144 != 0 }

/-- The context of an address space as it stands in firmware memory; none where firmware has installed none (01 R34). -/
def State.asctx (s : State) (asid : Nat) : Option AsCtx := (Store.find s.asids asid).map fun pa => AsCtx.ofNat (s.readNat pa 64)

/-- A context is valid (01 R34). -/
def AsCtx.valid (c : AsCtx) (asid : Nat) : Bool := !c.resv && decide (c.part ≤ 7) && c.asid == asid

def AsCtx.ttb (c : AsCtx) (n : Nat) : Nat :=
  (match n with | 0 => c.ttb0 | 1 => c.ttb1 | 2 => c.ttb2 | _ => c.ttb3).toNat

/-- The entry that the walk of 01 R27 ends at, from the table of a level: its level, its address and its 16 bytes. A
table entry with a reserved bit set is invalid (00 R7) and counts as malformed (assumption 7); so does a table in a reserved
range (01 R22). A table outside package-local HBM is read as any memory is: the spec gives that no consequence
(assumption 116). -/
def walkFrom (s : State) (va : Nat) : Nat → Nat → Except TFault (Nat × Nat × Nat)
  | lvl, tbl =>
    let at_ := tbl + bitsAt va (15 + 10 * lvl) 10 * 16
    let n := s.readNat at_ 16
    let p := Pte.ofNat n
    if mtOf (localOf at_) = none then .error .malformed
    else if !p.v then .error .absent
    else if p.leaf then if lvl = 3 then .error .malformed else .ok (lvl, at_, n)
    else if bitsAt n 2 14 ≠ 0 ∨ bitsAt n 54 74 ≠ 0 then .error .malformed
    else match lvl with
      | 0 => .error .malformed
      | l + 1 => walkFrom s va l p.npa

/-- The table entries that such a walk passes: the level of each and the table that it names. -/
def tablesFrom (s : State) (va : Nat) : Nat → Nat → List (Nat × Nat)
  | lvl, tbl =>
    let n := s.readNat (tbl + bitsAt va (15 + 10 * lvl) 10 * 16) 16
    let p := Pte.ofNat n
    if !p.v || p.leaf || bitsAt n 2 14 != 0 || bitsAt n 54 74 != 0 then []
    else match lvl with
      | 0 => []
      | l + 1 => (l + 1, p.npa) :: tablesFrom s va l p.npa

/-- The table that a walk of an address space starts at: the T3 table of the selected TTB (01 R27, R34). -/
def State.rootOf (s : State) (asid va : Nat) : Except TFault Nat :=
  match s.asctx asid with
  | none => .error .malformed
  | some c =>
    if !c.valid asid then .error .malformed
    else
      let t := c.ttb (bitsAt va 55 2)
      if !t.testBit 0 then .error .absent else .ok (bitsAt t 14 38 * 2 ^ 14)

/-- The walk of 01 R27 up to the leaf; MT and permissions are checked by `Pte.checkLeaf`. -/
def State.walk (s : State) (asid va : Nat) : Except TFault (Nat × Nat × Nat) :=
  match s.rootOf asid va with
  | .error f => .error f
  | .ok tbl => walkFrom s va 3 tbl

/-- The partition of an address space. -/
def State.partOf (s : State) (asid : Nat) : Nat := match s.asctx asid with | some c => c.part | none => 8

/-- A translated address: where it goes and what its page says. -/
structure Trans where
  pa   : Nat
  page : PageInfo
  deriving DecidableEq, Repr

def cpcPolicy (c : Nat) : Policy := if c = 1 then .sl else if c = 2 then .st else .ca

/-- The translation that a leaf gives (01 R27). -/
def Pte.trans (p : Pte) (lvl va : Nat) : Trans :=
  ⟨p.pa + va % 2 ^ (15 + 10 * lvl), ⟨p.mt, p.ord, p.tags, cpcPolicy p.cpc⟩⟩

/-- The leaf that the translating slice of an address has cached for it (01 R35, R36). -/
def Die.cached (d : Die) (asid va : Nat) : Option TEntry :=
  d.tcache.find? fun t => t.slice == transSlice asid va && t.asid == asid && va / 2 ^ (15 + 10 * t.lvl) == t.va / 2 ^ (15 + 10 * t.lvl)

/-- The deepest table that the translating slice's page-walk caches give for an address: level and table (01 R36). -/
def Die.tableFor (d : Die) (asid va : Nat) : Option (Nat × Nat) :=
  [1, 2, 3].findSome? fun lvl =>
    (d.wcache.find? fun t => t.slice == transSlice asid va && t.asid == asid && t.lvl == lvl &&
      va / 2 ^ (15 + 10 * lvl) == t.va / 2 ^ (15 + 10 * lvl)).map fun t => (lvl - 1, t.npa)

/-- Kinds of access that write. -/
def accWrites : Acc → Bool
  | .store => true
  | .cst => true
  | .atomic => true
  | .load => false
  | .fetch => false

/-- The parts of an access at 32 KiB boundaries: (address, length) (01 R31). -/
def pageParts (va n : Nat) : List (Nat × Nat) :=
  if n = 0 then []
  else
    let k := 0x8000 - va % 0x8000
    if n ≤ k then [(va, n)] else [(va, k), (va + k, n - k)]

/-- The effective cache policy (01 R33). -/
def effPolicy (p : PageInfo) (cp : Policy) : Policy :=
  if p.mt = 2 ∨ p.mt = 4 then .sl
  else match cp, p.pol with
    | .st, _ => .st
    | _, .st => .st
    | .sl, _ => .sl
    | _, .sl => .sl
    | .ca, .ca => .ca

/-- Whether a location of a page can hold a tag (01 R16). -/
def PageInfo.canTag (p : PageInfo) : Bool := p.tags && (p.mt == 0 || p.mt == 1 || p.mt == 3)

end Sys2Proof.Machine
end

