-- ==== Sys2Proof/Machine/Hier.lean ====
section
/-! DEFINITION. The memory hierarchy: channels, the write-update directory, L1 lines, leases, guest lines, residency,
and writes performed at a home (02). -/

namespace Sys2Proof.Machine

/-! ### Channels (02 R61, 04 R116, 06 R151, R170, 20 R421) -/

/-- The slice of a die that serves an address, numbered over the package. -/
def sliceId (die pa : Nat) : Nat := 16 * die + sliceOf pa

/-- The home of an allowance record, numbered over the package: its slice, or its bank (04 R111). -/
def homeId (pa : Nat) : Nat := if isCmem pa then 128 + 256 * homeDie pa + bankOf pa else sliceId (homeDie pa) pa

/-- Messages of one channel arrive in the order sent. A channel is a kind, its sender and its receiver: a slice and a core
for each channel of Table 2.3, a home and a core for the allowance messages, two dies for the exchange, and a die and a
line for what leaves the package (assumption 8). -/
def chan : Instr → Option (Nat × Nat × Nat)
  | .upd c _ _ _ pa .. => some (0, sliceId (c / 32) pa, c)
  | .inv c slice .. => some (0, 16 * (c / 32) + slice, c)
  | .lgrant c _ _ pa .. => some (0, sliceId (c / 32) pa, c)
  | .lrecall c pa => some (0, sliceId (c / 32) pa, c)
  | .fillrsp c _ _ pa .. => some (1, sliceId (c / 32) pa, c)
  | .stack m => some (2, m.slice, m.core)
  | .agrant c rec_ .. => some (3, homeId rec_, c)
  | .rcall c rec_ .. => some (3, homeId rec_, c)
  | .drop c rec_ => some (3, homeId rec_, c)
  | .areq c rec_ .. => some (4, c, homeId rec_)
  | .aop c rec_ .. => some (4, c, homeId rec_)
  | .rret c rec_ .. => some (4, c, homeId rec_)
  | .aret c rec_ .. => some (4, c, homeId rec_)
  | .demand d src .. => some (5, src, d)
  | .dack d src .. => some (5, src, d)
  | .layout ⟨d, src⟩ .. => some (5, src, d)
  | .grant ⟨d, src⟩ .. => some (5, src, d)
  | .gack d src .. => some (5, src, d)
  | .ring ⟨d, src⟩ .. => some (5, src, d)
  | .seg ⟨d, src⟩ .. => some (5, src, d)
  | .skipseg ⟨d, src⟩ .. => some (5, src, d)
  | .sack ⟨d, src⟩ .. => some (5, src, d)
  | .snak ⟨d, src⟩ .. => some (5, src, d)
  | .short ⟨d, src⟩ .. => some (5, src, d)
  | .chdone d src .. => some (5, src, d)
  | .xabort d src .. => some (5, src, d)
  | .suspect d src .. => some (5, src, d)
  | .arbstop ⟨d, src⟩ .. => some (5, src, d)
  | .lastq ⟨d, src⟩ .. => some (5, src, d)
  | .lasta d src .. => some (5, src, d)
  | .remoteAccess r => some (6, r.core / 32, r.pa / 128)
  | .sliceLoad r => if r.page.mt = 2 then some (7, r.core / 32, r.pa / 128) else none
  | .sliceStore r => if r.page.mt = 2 then some (7, r.core / 32, r.pa / 128) else none
  | .homeAtomic r => if r.page.mt = 2 then some (7, r.core / 32, r.pa / 128) else none
  | _ => none

/-- The link by which an MT 3 access of a die leaves (06 R170). -/
def linkOf (die pa : Nat) : Nat := 2 * die + Nat.xor (bitsAt pa 7 1) (Nat.xor (bitsAt pa 12 1) (bitsAt pa 17 1))

/-- The link that carries it: its own, else the die's other one, else another die's; none when all have failed (06 R171). -/
def State.linkFor (s : State) (die pa : Nat) : Option Nat :=
  let l := linkOf die pa
  (l :: (4 * die + 1 - l) :: List.range 16).find? fun i => !s.plat.linksDown.contains i

/-- A message or input that must wait goes to the end of the agenda, and the later ones of its channel after it. -/
def State.again (s : State) (i : Instr) : State :=
  match chan i with
  | none => s.send i
  | some k =>
    { s with agenda := s.agenda.filter (fun j => chan j != some k) ++ i :: s.agenda.filter (fun j => chan j == some k) }

/-- An input that must wait is taken again later. -/
def State.later (s : State) : State := s.sendAll s.taken.toList

/-! ### Lines -/

def lineOf (a : Nat) : Nat := a / 128 * 128

/-- A write cut at 128-byte lines: (address, bytes). -/
def linePieces : Nat → Nat → List Byte → List (Nat × List Byte)
  | 0, _, _ => []
  | fuel + 1, a, bs =>
    if bs.isEmpty then []
    else
      let k := 128 - a % 128
      (a, bs.take k) :: linePieces fuel (a + k) (bs.drop k)

/-- The lines that `n` bytes at `a` touch. -/
def linesOf (a n : Nat) : List Nat :=
  if n = 0 then [] else (List.range ((a + n - 1) / 128 - a / 128 + 1)).map fun i => (a / 128 + i) * 128

/-- Bytes `off` to `off + n - 1` of a line. -/
def lineBytes (d : BitVec 1024) (off n : Nat) : List Byte := (List.range n).map fun i => d.extractLsb' (8 * (off + i)) 8

/-- A line from its 128 bytes. -/
def lineOfBytes (bs : List Byte) : BitVec 1024 := BitVec.ofNat 1024 (natOf (bs.take 128))

/-- A line with bytes replaced where a test on the byte number holds. -/
def linePatch (d : BitVec 1024) (f : Nat → Option Byte) : BitVec 1024 :=
  lineOfBytes ((List.range 128).map fun i => (f i).getD (d.extractLsb' (8 * i) 8))

/-- The runs of bytes of a part that a test keeps: (offset, length). -/
def keptRuns (keep : Nat → Bool) (n : Nat) : List (Nat × Nat) :=
  ((List.range n).foldl (fun (acc : List (Nat × Nat)) i =>
    if !keep i then acc
    else match acc with
      | (o, k) :: r => if o + k = i then (o, k + 1) :: r else (i, 1) :: acc
      | [] => [(i, 1)]) []).reverse

/-- The bytes of `n` at `off` as a mask over a line. -/
def byteMask (off n : Nat) : BitVec 128 := BitVec.ofNat 128 ((2 ^ n - 1) * 2 ^ off)

/-- Eight bits from a test on the granule number. -/
def mask8 (f : Nat → Bool) : BitVec 8 := BitVec.ofNat 8 ((List.range 8).foldl (fun a g => if f g then a + 2 ^ g else a) 0)

/-- A line's tag bits without those of the granules that `n` bytes at `off` touch (01 R18). -/
def clearLineTags (t : BitVec 8) (off n : Nat) : BitVec 8 := mask8 fun g => t.getLsbD g && !touches off n g

/-- A line's tag bits in memory. -/
def State.lineTags (s : State) (pa : Nat) : BitVec 8 := mask8 fun g => s.tagAt (pa + 16 * g)

/-! ### Residency in the L2 (02 R50, R53, R68, R69) -/

/-- The set of a line in its slice: which bits choose it is the model's choice (assumption 9). -/
def l2set (pa : Nat) : Nat := sliceOf pa * 2048 + pa / 2048 % 2048

/-- The lines of the set of an address, least recently used first. -/
def Die.l2In (d : Die) (pa : Nat) : List L2Line := d.l2.filter fun e => l2set e.pa == l2set pa

/-- The retained lines of a die and the range, or 8 for L2PF, that each is retained for. -/
def Die.retained (d : Die) : List (Nat × Nat) :=
  d.l2.filterMap fun e => match e.cls with | .retained n => some (e.pa, n) | .first => none | .normal => none

/-- The line of a full set that gives way (02 R68): evict-first lines go first, then normal ones. A line that is to be
retained for an owner that already holds its WAYS replaces a line of that owner. Within a class the least recently used
goes (assumption 117). -/
def l2Victim (set : List L2Line) (own : Option Nat) : Option L2Line :=
  let mine := own.bind fun n => set.find? fun e => e.cls == .retained n
  mine <|> (set.find? fun e => e.cls == .first) <|> (set.find? fun e => e.cls == .normal)

/-- An access allocates its line or finds it: the die after it, and the line that gave way. A retained line keeps its class
until the rules of 02 R68 and R69 end it. -/
def Die.touch (d : Die) (pa : Nat) (cls : L2Class) (own : Option Nat) : Die × Option Nat :=
  let l := pa / 128 * 128
  match d.l2.find? fun e => e.pa == l with
  | some e =>
    let c := match e.cls with | .retained n => .retained n | .first => cls | .normal => cls
    ({ d with l2 := d.l2.filter (fun x => x.pa != l) ++ [⟨l, c⟩] }, none)
  | none =>
    let set := d.l2In l
    if set.length < 16 then ({ d with l2 := d.l2 ++ [⟨l, cls⟩] }, none)
    else match l2Victim set own with
      | some v => ({ d with l2 := d.l2.filter (fun x => x.pa != v.pa) ++ [⟨l, cls⟩] }, some v.pa)
      | none => (d, none)

/-- The class of a line that the L2 holds. -/
def Die.setClass (d : Die) (l : Nat) (c : L2Class) : Die :=
  { d with l2 := d.l2.map fun x => if x.pa = l then ⟨l, c⟩ else x }

/-- Retains a line that the L2 holds for an owner, under a limit of lines per set and 15 of all owners (02 R68). Where the
owner holds its limit, its least recently used line turns normal (assumption 117). -/
def Die.retain (d : Die) (pa owner ways : Nat) : Die :=
  let l := pa / 128 * 128
  let kept := (d.l2In l).filterMap fun e => match e.cls with | .retained n => some (e.pa, n) | .first => none | .normal => none
  if kept.any (·.1 == l) then d.setClass l (.retained owner)
  else
    let own := kept.filter (·.2 == owner)
    if ways ≤ own.length then
      match own.head? with
      | some old => (d.setClass old.1 .normal).setClass l (.retained owner)
      | none => d
    else if 15 ≤ kept.length then d
    else d.setClass l (.retained owner)

/-- The class that a policy gives (02 R50). -/
def polClass (pol : Policy) : L2Class := if pol = .st then .first else .normal

/-- The lowest-numbered enabled range that holds an address: its number, WAYS and S (02 R68). -/
def Die.rangeOf (d : Die) (pa : Nat) : Option (Nat × Nat × Nat) :=
  ((List.range 8).find? fun n =>
    let r := (Store.get 0 d.res n).toNat
    let base := bitsAt r 15 37 * 2 ^ 15
    let len := bitsAt r 79 37 * 2 ^ 15
    r.testBit 0 && bitsAt r 72 4 ≤ 8 && 0 < bitsAt r 64 4 && base ≤ pa && pa < base + len).map fun n =>
      let r := (Store.get 0 d.res n).toNat
      (n, bitsAt r 64 4, bitsAt r 72 4)

/-- An access performed at a slice is counted and classed (02 R68): the die after it, and the line that gave way. The
first access of a range has count 1 (assumption 10). -/
def Die.account (d : Die) (pa : Nat) (pol : Policy) : Die × Option Nat :=
  let range := if d.l2ctl.getLsbD 4 then none else d.rangeOf pa
  match range with
  | none => d.touch pa (polClass pol) none
  | some (n, ways, sx) =>
    let key := 16 * n + sliceOf pa
    let k := Store.get 0 d.counts key + 1
    let d := { d with counts := Store.put d.counts key k }
    if k % 2 ^ sx = 0 then
      let held := ((d.l2In pa).filter fun e => e.cls == .retained n).length
      let (d, v) := d.touch pa (polClass pol) (if ways ≤ held then some n else none)
      (d.retain pa n ways, v)
    else d.touch pa (polClass pol) none

/-! ### The directory (02 R55-R60) -/

/-- The key of a directory set: the slice and the number of the 64 KiB region, modulo 1024. -/
def dirSet (slice pa : Nat) : Nat := slice * 1024 + pa / 65536 % 1024

def DirEntry.covers (e : DirEntry) (slice pa : Nat) : Bool :=
  e.slice == slice && decide (e.base ≤ pa) && decide (pa < e.base + 2 ^ e.k)

def Die.dirAt (d : Die) (pa : Nat) : Option DirEntry := d.dirs.find? fun e => e.covers (sliceOf pa) pa

/-- Replaces an entry by others. -/
def Die.dirSwap (d : Die) (old : DirEntry) (new : List DirEntry) : Die :=
  { d with dirs := d.dirs.filter (· != old) ++ new }

/-- The virtual line of a sharer for physical line `p` (02 R55). -/
def Sharer.vline (r : Sharer) (base p : Nat) : Nat := (r.vb + (p - base)) % 2 ^ 57

/-- The number of the INVs that one version of a set names. -/
def leaveId (set : Nat) (v : W32) : Nat := 2 ^ 80 + set * 2 ^ 32 + v.toNat

def Leaving.covers (e : Leaving) (slice pa : Nat) : Bool :=
  e.slice == slice && decide (e.base ≤ pa) && decide (pa < e.base + 2 ^ e.k)

/-- The INVs to records of an entry under a version: their cores have copies until they answer, and a store to the region
waits for that (03 R88). -/
def Die.invTo (d : Die) (e : DirEntry) (rs : List Sharer) (v : W32) : Die × List Instr :=
  let iid := leaveId (dirSet e.slice e.base) v
  if rs.isEmpty then (d, [])
  else
    ({ d with leaving := d.leaving ++ [⟨iid, rs.length, e.slice, e.base, e.k, rs.map (·.core), []⟩] },
      rs.map fun r => .inv r.core e.slice iid r.asid (r.vb, r.vb + 2 ^ e.k - 1) v)

/-- Entries of a set that FV is about to leave 2^30 behind: each sends an INV, under a version of its own, and keeps no
record (02 R60). A set has at most 16 entries, so an entry is taken 64 versions early, before the INVs of the others could
carry FV past it. -/
def Die.freshen : Nat → Die → Nat → Die × List Instr
  | 0, d, _ => (d, [])
  | fuel + 1, d, set =>
    let v := Store.get 0 d.fv set + 1
    match d.dirs.find? fun e => dirSet e.slice e.base == set && decide (0x3FFFFFC0 ≤ (v - e.ver).toNat) && decide ((v - e.ver).toNat < 0x80000000) with
    | none => (d, [])
    | some e =>
      let (d1, m) := ({ d with fv := Store.put d.fv set v }.dirSwap e [{ e with ver := v, sharers := [] }]).invTo e e.sharers v
      let (d2, m2) := Die.freshen fuel d1 set
      (d2, m ++ m2)

/-- The next version of a set, and the INVs that 02 R60 sends first. -/
def Die.nextVer (d : Die) (slice pa : Nat) : Die × W32 × List Instr :=
  let set := dirSet slice pa
  let (d, pre) := Die.freshen 32 d set
  let v := Store.get 0 d.fv set + 1
  ({ d with fv := Store.put d.fv set v }, v, pre)

/-- The two halves of an entry (02 R57). -/
def DirEntry.halves (e : DirEntry) : List DirEntry :=
  let h := 2 ^ (e.k - 1)
  [{ e with k := e.k - 1 },
   { e with base := e.base + h, k := e.k - 1, sharers := e.sharers.map fun r => { r with vb := (r.vb + h) % 2 ^ 57 } }]

/-- The greatest k of 16 or less whose region at `p` meets no entry of the slice (02 R56; assumption 11). -/
def Die.freeRegion (d : Die) (p : Nat) : Nat :=
  ((List.range 10).map (16 - ·)).find? (fun k =>
    let base := p / 2 ^ k * 2 ^ k
    d.dirs.all fun e => !(e.slice == sliceOf p && e.base < base + 2 ^ k && base < e.base + 2 ^ e.k)) |>.getD 7

/-- A fill adds a sharer record (02 R56): the die after it and the INVs sent. -/
def Die.addSharer : Nat → Die → Nat → Nat → Nat → Nat → Die × List Instr
  | 0, d, _, _, _, _ => (d, [])
  | fuel + 1, d, p, core, asid, va =>
    let slice := sliceOf p
    match d.dirAt p with
    | none =>
      let k := d.freeRegion p
      let base := p / 2 ^ k * 2 ^ k
      ({ d with dirs := d.dirs ++ [⟨slice, base, k, Store.get 0 d.fv (dirSet slice p), none,
          [⟨core, asid, (va + 2 ^ 57 - (p - base)) % 2 ^ 57⟩]⟩] }, [])
    | some e =>
      let r : Sharer := ⟨core, asid, (va + 2 ^ 57 - (p - e.base)) % 2 ^ 57⟩
      if e.sharers.contains r then (d, [])
      else if e.sharers.length < 8 then (d.dirSwap e [{ e with sharers := e.sharers ++ [r] }], [])
      else if 7 < e.k then Die.addSharer fuel (d.dirSwap e e.halves) p core asid va
      else
        let (d1, v, pre) := d.nextVer slice p
        match d1.dirAt p with
        | none => (d1, pre)
        | some e1 =>
          let (d2, msgs) := (d1.dirSwap e1 [{ e1 with ver := v, sharers := e1.sharers.drop 1 ++ [r] }]).invTo e1 (e1.sharers.take 1) v
          (d2, pre ++ msgs)

/-- Splits the entry that covers a line down to k = 7 (02 R65). -/
def Die.splitTo7 : Nat → Die → Nat → Die
  | 0, d, _ => d
  | fuel + 1, d, p =>
    match d.dirAt p with
    | none => d
    | some e => if 7 < e.k then Die.splitTo7 fuel (d.dirSwap e e.halves) p else d

/-- An NP answer (02 R57). -/
def Die.onNp (d : Die) (p core asid va : Nat) : Die :=
  match d.dirAt p with
  | none => d
  | some e =>
    if 7 < e.k then d.dirSwap e e.halves
    else d.dirSwap e [{ e with sharers := e.sharers.filter fun r => !(r.core == core && r.asid == asid && r.vline e.base (lineOf p) == va) }]

/-- The lease holder of a line. -/
def Die.leaseOf (d : Die) (p : Nat) : Option Nat := (d.dirAt p).bind (·.lease)

def Die.setLease (d : Die) (p : Nat) (c : Option Nat) : Die :=
  match d.dirAt p with
  | none => d
  | some e => d.dirSwap e [{ e with lease := c }]

/-- UPDs under the covering entry for bytes within one line (02 R62): the die after it, the messages, how many answers to
wait for, those of displaced records among them (03 R88). `own` names the issuing core's early line: core, asid, virtual
line; `tags` the granules whose tag the write sets; a write with `sid` 0 waits for none. -/
def Die.updates (d : Die) (pa : Nat) (bs : List Byte) (tags : BitVec 8) (sid : Nat) (own : Option (Nat × Nat × Nat)) :
    Die × List Instr × Nat :=
  let shared := match d.dirAt pa with | some e => !e.sharers.isEmpty | none => false
  let (d1, msgs, n) : Die × List Instr × Nat :=
    if !shared then (d, [], 0)
    else
      let (d1, v, pre) := d.nextVer (sliceOf pa) pa
      match d1.dirAt pa with
      | none => (d1, pre, 0)
      | some e =>
        let out := e.sharers.map fun r =>
          let vl := r.vline e.base (lineOf pa)
          Instr.upd r.core sid r.asid vl pa bs (pa % 128) tags v (own == some (r.core, r.asid, vl))
        (d1.dirSwap e [{ e with ver := v }], pre ++ out, out.length)
  let late (x : Leaving) : Bool := sid != 0 && x.covers (sliceOf pa) pa
  ({ d1 with leaving := d1.leaving.map fun x => if late x then { x with sids := x.sids ++ [sid] } else x }, msgs,
    n + (d1.leaving.filter late).length)

/-- UPDs for bytes that may cross lines; only a write within one line sets tags. -/
def State.sendUpdates (s : State) (die pa : Nat) (bs : List Byte) (tags : BitVec 8) (sid : Nat) (own : Option (Nat × Nat × Nat)) :
    State × Nat :=
  (linePieces 600 pa bs).foldl (fun (t : State × Nat) piece =>
    let (d, msgs, n) := (t.1.die die).updates piece.1 piece.2 tags sid own
    ((t.1.setDie die d).sendAll msgs, t.2 + n)) (s, 0)

/-- The number that names the acknowledgements of a request (02 R62); one of a store that is already in the issuing core's
L1 is told apart, since its operation does not wait for it (03 Table 3.2, 12 R310). -/
def reqSid (r : Req) : Nat := 1024 * r.op + (if r.early then 512 else 0) + 16 * r.lane + r.part

/-- Whether such a number is an early store's. -/
def sidEarly (sid : Nat) : Bool := decide (512 ≤ sid % 1024) && decide (sid % 1024 < 1022)

/-- Waits at a die for the acknowledgements of a store, then sends what follows; with none to wait for, sends at once. -/
def State.await (s : State) (die : Nat) (p : Pend) : State :=
  if p.acks = 0 then s.sendAll p.next else s.modDie die fun d => { d with pends := d.pends ++ [p] }

/-- One acknowledgement arrived (02 R62). -/
def State.ack (s : State) (die sid : Nat) : State :=
  match (s.die die).pends.find? (·.sid == sid) with
  | none => s
  | some p =>
    if p.acks ≤ 1 then (s.modDie die fun d => { d with pends := d.pends.filter (·.sid != sid) }).sendAll p.next
    else s.modDie die fun d => { d with pends := d.pends.map fun q => if q.sid = sid then { q with acks := q.acks - 1 } else q }

/-! ### Monitors (12 R322) -/

/-- The bytes of a monitored word. -/
def Monitor.bytes (m : Monitor) : Nat := if m.ty = .i64 ∨ m.ty = .n64 then 8 else 4

/-- A value of a scalar type as its register holds it (10 R259). -/
def extendS (t : STy) (v : Nat) : W64 :=
  match t with
  | .i32 => sext64 32 v
  | .n32 => BitVec.ofNat 64 (v % 2 ^ 32)
  | .i64 => BitVec.ofNat 64 v
  | .n64 => BitVec.ofNat 64 v

/-- Compares two register values, signed for i types and unsigned for n types (10 R263, 12 R321). -/
def cmpHolds (signed : Bool) (c : Cmp) (w : Nat) (x y : Nat) : Bool :=
  let a : Int := if signed then (BitVec.ofNat w x).toInt else (x % 2 ^ w : Nat)
  let b : Int := if signed then (BitVec.ofNat w y).toInt else (y % 2 ^ w : Nat)
  match c with
  | .eq => a == b
  | .ne => a != b
  | .lt => decide (a < b)
  | .le => decide (a ≤ b)
  | .gt => decide (a > b)
  | .ge => decide (a ≥ b)

def stySigned (t : STy) : Bool := t == .i32 || t == .i64
def styWidth (t : STy) : Nat := if t = .i64 ∨ t = .n64 then 64 else 32

/-- The condition of a monitor on the word now in memory. -/
def State.monitorFires (s : State) (m : Monitor) : Bool :=
  cmpHolds (stySigned m.ty) m.cond (styWidth m.ty) (s.readNat m.pa m.bytes) m.cmp.toNat

/-- Gongs a path of a group, by number. -/
def State.gongPath (s : State) (gid : Nat) (b : Bool) : State :=
  match Store.find s.groups gid with
  | some g => s.send (.gong (g.waiter b))
  | none => s

/-- Monitor entries of a die's slices are removed and their gongs sent (12 R322). -/
def State.gongMonitors (s : State) (d : Nat) (hit : List Monitor) : State :=
  if hit.isEmpty then s
  else
    let s := s.modDie d fun x => { x with monitors := x.monitors.filter fun m => !hit.contains m }
    hit.foldl (fun t m => (t.modPath m.gid m.b fun p => if p.wait = .monitor then { p with wait := .wake } else p).gongPath m.gid m.b) s

/-- A write performed at the home of `n` bytes at `pa` tests the monitors of its words (12 R322). -/
def State.fireMonitors (s : State) (pa n : Nat) : State :=
  s.gongMonitors (homeDie pa) ((s.die (homeDie pa)).monitors.filter fun m => m.pa < pa + n && pa < m.pa + m.bytes && s.monitorFires m)

/-- The tag bit of a line that a CST of a tagged value at `pa` sets. -/
def tagBit (pa : Nat) (tag : Bool) : BitVec 8 := if tag then BitVec.ofNat 8 (2 ^ (pa / 16 % 8)) else 0

/-- A write performed at its home: bytes, tags, monitors, and UPDs to the home die's sharers (02 R62); the number of
acknowledgements to come. `tag` is set by a CST of a tagged value. -/
def State.homeStoreAck (s : State) (pa : Nat) (bs : List Byte) (tag : Bool) (sid : Nat) (own : Option (Nat × Nat × Nat)) :
    State × Nat :=
  let s := s.write pa bs
  let s := (if tag then s.setTag pa true else s).fireMonitors pa bs.length
  if mtOf (localOf pa) = some 0 then s.sendUpdates (homeDie pa) pa bs (tagBit pa tag) sid own else (s, 0)

/-- The same, without waiting for the acknowledgements. -/
def State.homeStore (s : State) (pa : Nat) (bs : List Byte) : State := (s.homeStoreAck pa bs false 0 none).1

/-! ### L1 lines (02 R49, R62, R63) -/

/-- The cache banks that a core has (02 R49). -/
def Core.cacheBanks (c : Core) : Nat := (banksOf c.brr 0).length

def Core.line (c : Core) (asid va : Nat) : Option Line := c.lines.find? fun l => l.asid == asid && l.va == lineOf va

def Core.setLine (c : Core) (l : Line) : Core :=
  { c with lines := c.lines.map fun m => if m.asid = l.asid ∧ m.va = l.va then l else m }

def Core.dropLine (c : Core) (asid va : Nat) : Core :=
  { c with lines := c.lines.filter fun l => !(l.asid == asid && l.va == lineOf va) }

/-- A line whose fill is under way (02 R49). -/
def Line.awaiting (asid va pa : Nat) (r : List Req) : Line :=
  ⟨asid, lineOf va, lineOf pa, 0, 0, 0, List.replicate 128 0, true, [], r, false, 0, false⟩

/-- `older_or_equal` of 02 R59, R62. -/
def olderEq (x y : W32) : Bool := x == y || (let d := (y - x).toNat; 1 ≤ d && d < 0x80000000)

/-- A store written early into a line: the bytes, their tags, and one own-pending count each (02 R63). -/
def Line.early (l : Line) (off : Nat) (bs : List Byte) (tags : BitVec 8) : Line :=
  { l with
    data := linePatch l.data fun i => if off ≤ i then bs[i - off]? else none
    tags := clearLineTags l.tags off bs.length ||| tags
    own := (List.range 128).map fun i => l.own.getD i 0 + (if off ≤ i && i < off + bs.length then 1 else 0) }

/-- A write in a leased line (02 R65): the bytes become dirty. -/
def Line.leased (l : Line) (off : Nat) (bs : List Byte) (tags : BitVec 8) : Line :=
  { l with
    data := linePatch l.data fun i => if off ≤ i then bs[i - off]? else none
    tags := clearLineTags l.tags off bs.length ||| tags
    dirty := l.dirty ||| byteMask off bs.length }

/-- An UPD applied to a line (02 R62, R63). The echo of an own store writes its bytes once no later own store to them is
outstanding. A granule whose bytes are all own-pending keeps its tag with them; one that
takes some of the bytes is tagged only if it takes all that the write tagged (01 R18). -/
def Line.update (l : Line) (off : Nat) (bs : List Byte) (tags : BitVec 8) (ver : W32) (own : Bool) : Line :=
  let hit (i : Nat) : Bool := off ≤ i && i < off + bs.length
  let takes (i : Nat) : Bool := hit i && (if own then decide (l.own.getD i 0 ≤ 1) else l.own.getD i 0 == 0)
  let dec := (List.range 128).map fun i =>
    let n := l.own.getD i 0
    if own && hit i then n - 1 else n
  if olderEq ver l.ver then { l with own := dec }
  else
    let granule (g : Nat) : List Nat := (List.range 16).map (16 * g + ·)
    { l with
      data := linePatch l.data fun i => if takes i then bs[i - off]? else none
      tags := mask8 fun g =>
        if (granule g).any takes then tags.getLsbD g && (granule g).all takes else l.tags.getLsbD g
      own := dec
      ver := ver }

/-! ### Guest lines (02 R75-R79) -/

def Die.guest (d : Die) (pa : Nat) : Option Guest := d.guests.find? (·.pa == lineOf pa)

def Die.setGuest (d : Die) (g : Guest) : Die := { d with guests := d.guests.filter (·.pa != g.pa) ++ [g] }

def Die.dropGuest (d : Die) (pa : Nat) : Die := { d with guests := d.guests.filter (·.pa != lineOf pa) }

/-- Whether a guest slice serves an access (02 R75). -/
def servedByGuest (g : Nat) (pa : Nat) (page : PageInfo) (pol : Policy) : Bool :=
  page.mt == 0 && homeDie pa != g && pol == .ca && page.ord != 1

/-- A flush of a line is on its way, or its acknowledgement. -/
def State.flushing (s : State) (die line : Nat) : Bool :=
  let hit : Instr → Bool := fun
    | .guestFlush d l .. => d == die && l == line
    | .guestFlushAck d l _ => d == die && l == line
    | _ => false
  s.agenda.any hit || (s.die (homeDie line)).pends.any fun p => p.next.any hit

/-- A guest line goes, and with it the copies that the die's L1s hold behind it, so that none of the die's cores reads a
value older than one that another has read at the home (02 R49, R75, R77; 03 R104; assumption 13). A copy whose fill is under
way goes once its loads are served. -/
def State.dropLine (s : State) (die line : Nat) : State :=
  let copies (c : Core) : Core :=
    { c with lines := (c.lines.filter fun l => l.pa != line || l.pending).map fun l => if l.pa = line then { l with stale := true } else l }
  { (s.modDie die fun d => d.dropGuest line) with
    cores := (s.modDie die fun d => d.dropGuest line).cores.map fun e => if e.1 / 32 = die then (e.1, copies e.2) else e }

/-- Sends the flush of a dirty guest line (02 R77). -/
def State.flushGuest (s : State) (die pa : Nat) : State :=
  match (s.die die).guest pa with
  | none => s
  | some g =>
    if g.dirty = 0 ∨ s.flushing die g.pa then s
    else
      s.send (.guestFlush die g.pa g.data g.dirty
        (mask8 fun i => g.tags.getLsbD i && g.dirty.extractLsb' (16 * i) 16 == 0xFFFF))

/-- Flushes every dirty guest line of a die (02 R77); answers whether none is left dirty. -/
def State.flushAll (s : State) (die : Nat) : State × Bool :=
  let ds := (s.die die).guests.filter fun g => g.dirty != 0
  (ds.foldl (fun t g => t.flushGuest die g.pa) s, ds.isEmpty)

/-- An acquire at .pkg or wider clears the valid bit of every byte that is not dirty (02 R79). -/
def Die.invalidateGuests (d : Die) : Die := { d with guests := d.guests.map fun g => { g with valid := g.dirty } }

/-- Fetches a line from its home into its guest line: dirty bytes keep their values, and the fetched bytes fill the rest
(02 R76). -/
def State.guestFill (s : State) (die pa : Nat) : State :=
  let l := lineOf pa
  let home := lineOfBytes (s.read l 128)
  let ht := s.lineTags l
  s.modDie die fun d =>
    match d.guest l with
    | none => d.setGuest ⟨l, home, BitVec.allOnes 128, 0, ht, false⟩
    | some g =>
      d.setGuest { g with
        data := linePatch home fun i => if g.dirty.getLsbD i then some (g.data.extractLsb' (8 * i) 8) else none
        valid := BitVec.allOnes 128
        tags := mask8 fun i => if g.dirty.extractLsb' (16 * i) 16 == 0 then ht.getLsbD i else g.tags.getLsbD i
        leaving := false }

/-- A store performed at a guest slice: bytes valid and dirty, tags cleared (02 R76). -/
def Die.guestStore (d : Die) (pa : Nat) (bs : List Byte) (tags : BitVec 8) : Die :=
  (linePieces 600 pa bs).foldl (fun d piece =>
    let l := lineOf piece.1
    let off := piece.1 % 128
    let g := (d.guest l).getD ⟨l, 0, 0, 0, 0, false⟩
    d.setGuest { g with
      data := linePatch g.data fun i => if off ≤ i then piece.2[i - off]? else none
      valid := g.valid ||| byteMask off piece.2.length
      dirty := g.dirty ||| byteMask off piece.2.length
      tags := clearLineTags g.tags off piece.2.length ||| tags
      leaving := false }) d

/-- A lease request of a line has been accepted and waits for IACKs, so that nothing else is performed on the line
(02 R54, R65). -/
def State.locked (s : State) (pa n : Nat) : Bool := (linesOf pa n).any fun l => (s.die (homeDie l)).locks.any (·.line == l)

/-- Recalls the leases of lines at their home (02 R66); answers whether none stands. -/
def State.recallHeld (s : State) (pa n : Nat) : State × Bool :=
  let h := homeDie pa
  let held := (linesOf pa n).filterMap fun l => ((s.die h).leaseOf l).map fun c => (l, c)
  let sent := held.filter fun e => !(s.agenda.any fun j => match j with
    | .lrecall c p => c == e.2 && p == e.1
    | .lret c p .. => c == e.2 && p == e.1
    | .lgrant c _ _ p .. => c == e.2 && p == e.1
    | _ => false)
  (s.sendAll (sent.map fun e => .lrecall e.2 e.1), held.isEmpty)

/-- Whether the home of lines may perform an access to them: no lease stands, and none is being granted. What stands in the
way of the first is set in motion. -/
def State.recall (s : State) (pa n : Nat) : State × Bool :=
  let (t, free) := s.recallHeld pa n
  (t, free && !t.locked pa n)

/-- Whether a directory set may send one more message: none under way, held ones included, is 2^30 versions old (02 R59). -/
def State.versionRoom (s : State) (die pa : Nat) : Bool :=
  let set := dirSet (sliceOf pa) pa
  let fv := Store.get 0 (s.die die).fv set
  let old (v : W32) : Bool := decide (0x3FFFFFC0 ≤ (fv - v).toNat)
  let late : Instr → Bool := fun
    | .upd c _ _ _ p _ _ _ v _ => c / 32 == die && dirSet (sliceOf p) p == set && old v
    | .inv c _ iid _ _ v => c / 32 == die && iid == leaveId set v && old v
    | _ => false
  !(s.agenda.any late) && !(s.cores.any fun e => e.1 / 32 == die && e.2.lines.any fun l => l.held.any late)

/-- Whether the home of bytes may perform an access of die `die`: no lease stands, and no dirty guest line of that die; what
stands in the way is set in motion (02 R54, R66, R75). -/
def State.homeReady (s : State) (die pa n : Nat) : State × Bool :=
  if mtOf (localOf pa) ≠ some 0 then (s, true)
  else
    let (s, free) := s.recall pa n
    let dirty := homeDie pa != die && (linesOf pa n).any fun l => match (s.die die).guest l with
      | some g => g.dirty != 0
      | none => false
    if dirty then ((linesOf pa n).foldl (fun t l => t.flushGuest die l) s, false) else (s, free)

/-- An access to another die's home drops the die's guest lines of it (02 R75; for a load assumption 13). -/
def State.dropGuests (s : State) (die pa n : Nat) : State :=
  if mtOf (localOf pa) = some 0 ∧ homeDie pa ≠ die then (linesOf pa n).foldl (fun t l => t.dropLine die l) s else s

/-- A die after a line has taken its place in the L2. A guest line that gave way to it is flushed if it is dirty, and goes
(02 R77). -/
def State.settleL2 (s : State) (die : Nat) (r : Die × Option Nat) : State :=
  let t := s.setDie die r.1
  match r.2.bind r.1.guest with
  | none => t
  | some g => if g.dirty = 0 then t.dropLine die g.pa else (t.setDie die (r.1.setGuest { g with leaving := true })).flushGuest die g.pa

/-- Counts and classes an access at the slice of a die that serves it (02 R50, R68). -/
def State.accountAt (s : State) (die pa n : Nat) (pol : Policy) : State :=
  if mtOf (localOf pa) = some 0 then (linesOf pa n).foldl (fun t l => t.settleL2 die ((t.die die).account l pol)) s else s

/-! ### Stores that a group has seen and that may not be performed yet (03 R88, R89) -/

/-- Whether a store is not yet performed at its slice and at every sharer: it is on its way there from the L1, or its
acknowledgements are awaited. -/
def State.outstanding (s : State) (sid : Nat) : Bool :=
  s.dies.any (fun d => d.2.pends.any (·.sid == sid)) ||
    s.agenda.any fun i => match i with | .sliceStore r => r.early && reqSid r == sid | _ => false

/-- Adds a store to what a group has seen, and forgets those that have been performed. -/
def State.addSeen (s : State) (gid : Nat) (l : List Seen) : State :=
  if l.isEmpty then s
  else s.modGrp gid fun g =>
    let old := g.seen.filter fun e => s.outstanding e.sid
    { g with seen := old ++ l.filter fun e => !(old.any fun o => o.sid == e.sid) }

/-- The stores that are not yet performed and write any of `n` bytes at `pa`: those that wait for acknowledgements at a slice,
and those of the core's own L1. -/
def State.pendingAt (s : State) (core pa n : Nat) (l1 : Bool) : List Seen :=
  (s.dies.flatMap fun d => (d.2.pends.filter fun p => decide (p.pa < pa + n) && decide (pa < p.pa + p.len)).map fun p => ⟨p.sid, p.pa, p.len, l1, p.uo⟩) ++
    if l1 then
      s.agenda.filterMap fun i => match i with
        | .sliceStore r =>
          if r.early && r.core == core && decide (r.pa < pa + n) && decide (pa < r.pa + r.len) then some ⟨reqSid r, r.pa, r.len, true, r.page.ord == 2⟩ else none
        | _ => none
    else []

/-- A group has read bytes: it has seen the stores to them that are not yet performed (03 R89). -/
def State.observe (s : State) (gid core pa n : Nat) (l1 : Bool) : State := s.addSeen gid (s.pendingAt core pa n l1)

/-- The stores of a core's groups that are not yet performed. -/
def State.coreStores (s : State) (core : Nat) : List Seen :=
  let back : Instr → Bool := fun | .stack m => m.core == core | _ => false
  (s.dies.flatMap fun d => (d.2.pends.filter fun p => p.next.any back).map fun p => ⟨p.sid, p.pa, p.len, true, p.uo⟩) ++
    s.agenda.filterMap fun i => match i with
      | .sliceStore r => if r.early && r.core == core then some ⟨reqSid r, r.pa, r.len, true, r.page.ord == 2⟩ else none
      | _ => none

/-- An acquire at .core or wider by a group, which may follow a release at .core: the group takes over the stores of its core
that are not yet performed (03 R89). -/
def State.inherit (s : State) (gid : Nat) : State := s.addSeen gid (s.coreStores (s.grp gid).core)

/-! ### The L1 as sets of frames (02 R49, 04 R114) -/

/-- The set of a virtual address: which bits choose it is the model's choice (assumption 25). -/
def Core.l1set (c : Core) (va : Nat) : Nat := va / 128 % (16 * c.cacheBanks)

/-- The lines and allowance entries of a set, as frames in use. -/
def Core.framesUsed (c : Core) (va : Nat) : Nat :=
  (c.lines.filter fun l => c.l1set l.va == c.l1set va).length + (c.allow.filter fun e => c.l1set e.va == c.l1set va).length

/-- A line goes; under a lease its dirty bytes go home first (02 R66). -/
def State.loseLine (s : State) (core : Nat) (l : Line) : State :=
  let t := if l.lease then s.send (.lret core l.pa l.data l.dirty l.tags) else s
  t.modCore core fun c => c.dropLine l.asid l.va

/-- Makes room in the set of an address: a line that is not awaiting its fill is evicted, the oldest first, or else an
allowance entry, whose amount goes home (02 R49, 04 R114; assumption 25). -/
def State.makeFrame (s : State) (core va : Nat) : State × Bool :=
  let c := s.core core
  if c.cacheBanks = 0 then (s, false)
  else if c.framesUsed va < 8 then (s, true)
  else match c.lines.find? fun l => c.l1set l.va == c.l1set va && !l.pending with
    | some l => (s.loseLine core l, true)
    | none => match c.allow.find? fun e => c.l1set e.va == c.l1set va with
      | some e => ((s.modCore core fun c => { c with allow := c.allow.filter (· != e) }).send (.aret core e.pa e.amount), true)
      | none => (s, false)

end Sys2Proof.Machine
end

