-- ==== Sys2Proof/Machine/Counter.lean ====
section
/-! DEFINITION. The home of an allowance counter: its record, its queues, rounds and grants (04 R111-R128). -/

namespace Sys2Proof.Machine

/-- A counter record (04 Table 4.1). -/
structure CRec where
  h     : Nat
  q     : Nat
  rseq  : Nat
  flags : Nat
  fcnt  : Nat
  resv  : Nat
  hold  : Nat
  deriving DecidableEq, Repr

def State.crec (s : State) (pa : Nat) : CRec :=
  let n := s.readNat pa 64
  ⟨bitsAt n 0 64, bitsAt n 64 64, bitsAt n 128 32, bitsAt n 160 32, bitsAt n 192 32, bitsAt n 224 32, bitsAt n 256 256⟩

def CRec.bytes (r : CRec) : List Byte :=
  bytesOf 8 r.h ++ bytesOf 8 r.q ++ bytesOf 4 r.rseq ++ bytesOf 4 r.flags ++ bytesOf 4 r.fcnt ++ bytesOf 4 r.resv
    ++ bytesOf 32 r.hold

def CRec.init (r : CRec) : Bool := r.flags.testBit 0

/-- A record is valid (04 R112). -/
def CRec.valid (r : CRec) : Bool :=
  r.init && r.flags / 8 == 0 && r.resv == 0 && decide (1 ≤ r.q) && decide (r.q ≤ 2 ^ 32) && decide (r.h < 2 ^ 63)

def maxH : Nat := 2 ^ 63 - 1

/-- Pooling an amount (04 R118). -/
def CRec.pool (r : CRec) (a : Nat) : CRec := { r with h := min (r.h + a) maxH }

def CRec.setHold (r : CRec) (core : Nat) : CRec := if r.hold.testBit core then r else { r with hold := r.hold + 2 ^ core }
def CRec.clearHold (r : CRec) (core : Nat) : CRec := if r.hold.testBit core then { r with hold := r.hold - 2 ^ core } else r

/-- The cores of a holder set. -/
def holdersOf (hold : Nat) : List Nat := (List.range 256).filter hold.testBit

/-- The status codes (04 Table 4.4). -/
def ASt.ok : Nat := 0
def ASt.fail : Nat := 1
def ASt.failNw : Nat := 2
def ASt.sat : Nat := 3
def ASt.uninit : Nat := 4
def ASt.badrec : Nat := 5
def ASt.badarg : Nat := 6
def ASt.lost : Nat := 7

def State.home (s : State) (pa : Nat) : AHome := Store.get {} (s.die (homeDie pa)).homes pa
def State.setHome (s : State) (pa : Nat) (h : AHome) : State :=
  s.modDie (homeDie pa) fun d => { d with homes := Store.set {} d.homes pa h }

/-- Writes the record at its home; the line is pinned while a holder stands or a round runs (04 R113). -/
def State.setCrec (s : State) (pa : Nat) (r : CRec) : State :=
  (s.homeStore pa r.bytes).modDie (homeDie pa) fun d =>
    { d with pinned := if r.hold ≠ 0 ∨ (Store.get {} d.homes pa).round then insertNat d.pinned pa else removeNat d.pinned pa }

/-- Whether the home can pin the record: its slice pins 1024 lines at most (04 R113). -/
def State.canPin (s : State) (pa : Nat) : Bool :=
  isCmem pa || (let lines := ((s.die (homeDie pa)).pinned.filter fun p => !isCmem p && sliceOf p == sliceOf pa).map lineOf
    lines.contains (lineOf pa) || decide (lines.eraseDups.length < 1024))

/-- Whether a core can be made a holder: it has an L1, it is neither halted nor failed, and the record can be pinned
(04 R113, R114, R126, R128). -/
def State.canHold (s : State) (core pa : Nat) : Bool :=
  let c := s.core core
  decide (0 < c.cacheBanks) && !c.halted && !c.failed && s.canPin pa

/-- The home's answer (04 Table 4.2). -/
def State.answer (s : State) (core pa op status g value : Nat) : State :=
  s.send (.agrant core pa op status (BitVec.ofNat 64 g) (BitVec.ofNat 64 value) (BitVec.ofNat 32 (s.crec pa).rseq))

/-- The status of a read of the value (04 Table 4.4). -/
def CRec.readStatus (r : CRec) : Nat := if r.flags.testBit 2 then ASt.lost else ASt.ok

/-- A grant outside a round: g and the record after it (04 R117). -/
def State.grantNow (s : State) (core pa op k : Nat) : State :=
  let r := s.crec pa
  let g := if s.canHold core pa then min r.h (max k r.q) else k
  let r' := { r with h := r.h - g }
  (s.setCrec pa (if k < g then r'.setHold core else r')).answer core pa op ASt.ok g 0

/-- The result of serving one waiting operation before the rebalance (04 R119): the state, and the winners so far. -/
def State.serveOne (pa : Nat) (t : State × List (Nat × Nat × Nat)) (w : AWait) : State × List (Nat × Nat × Nat) :=
  let (s, won) := t
  let r := s.crec pa
  match w.kind with
  | .aop (.acinit total q) =>
    -- the record of 04 R121, whatever it held; reserved fields are cleared (assumption 12)
    let r' := { r with
      h := total.toNat, q := q.toNat, flags := if r.flags.testBit 1 then 3 else 1, fcnt := 0, resv := 0 }
    ((s.setCrec pa r').answer w.core pa w.op ASt.ok 0 0, won)
  | k =>
    if !r.init then (s.answer w.core pa w.op ASt.uninit 0 0, won)
    else if !r.valid then (s.answer w.core pa w.op ASt.badrec 0 0, won)
    else match k with
      | .adec k _ =>
        if k.toNat ≤ r.h then (s.setCrec pa { r with h := r.h - k.toNat }, won ++ [(w.core, w.op, k.toNat)])
        else (s.answer w.core pa w.op ASt.fail 0 0, won)
      | .aop _ => (s.answer w.core pa w.op r.readStatus 0 r.h, won)

/-- The rebalance: each winner in order gets its k and a share (04 R119). -/
def State.rebalance (pa share : Nat) (s : State) (w : Nat × Nat × Nat) : State :=
  let r := s.crec pa
  let e := if s.canHold w.1 pa then share else 0
  let r' := { r with h := r.h - e }
  (s.setCrec pa (if 0 < e then r'.setHold w.1 else r')).answer w.1 pa w.2.1 ASt.ok (w.2.2 + e) 0

/-- `serve(closed)` of 04 R119; RND is cleared. -/
def State.serve (s : State) (pa : Nat) : State :=
  let h := s.home pa
  let s := s.setHome pa { h with closed := [], round := false }
  let (s, won) := h.closed.foldl (State.serveOne pa) (s, [])
  let r := s.crec pa
  let s := s.setCrec pa { r with flags := if r.flags.testBit 1 then r.flags - 2 else r.flags }
  let share := if won.isEmpty then 0 else min (s.crec pa).q ((s.crec pa).h / won.length)
  won.foldl (State.rebalance pa share) s

/-- Opens a round (04 R118). -/
def State.openRound (s : State) (pa : Nat) : State :=
  let h := s.home pa
  let s := s.setHome pa { opened := [], closed := h.opened, round := true }
  let r := s.crec pa
  let r' := { r with rseq := (r.rseq + 1) % 2 ^ 32, flags := if r.flags.testBit 1 then r.flags else r.flags + 2 }
  (s.setCrec pa r').sendAll ((holdersOf r.hold).map fun c => .rcall c pa (BitVec.ofNat 32 r'.rseq))

/-- Serves a round whose holders have all answered, then drains the open queue, which may open the next round
(04 R118). -/
def State.settle : Nat → State → Nat → State
  | 0, s, _ => s
  | fuel + 1, s, pa =>
    let h := s.home pa
    if h.round then
      if (s.crec pa).hold = 0 then State.settle fuel (s.serve pa) pa else s
    else
      match h.opened with
      | [] => s
      | w :: rest =>
        let r := s.crec pa
        match w.kind with
        | .adec k _ =>
          if !r.init then State.settle fuel ((s.setHome pa { h with opened := rest }).answer w.core pa w.op ASt.uninit 0 0) pa
          else if !r.valid then State.settle fuel ((s.setHome pa { h with opened := rest }).answer w.core pa w.op ASt.badrec 0 0) pa
          else if k.toNat ≤ r.h then
            State.settle fuel ((s.setHome pa { h with opened := rest }).grantNow w.core pa w.op k.toNat) pa
          else State.settle fuel (s.openRound pa) pa
        | .aop _ => State.settle fuel (s.openRound pa) pa

/-- Steps enough for every queue this state can hold. -/
def State.settleAll (s : State) (pa : Nat) : State :=
  State.settle (2 * ((s.home pa).opened.length + (s.home pa).closed.length) + 4) s pa

/-- The amount of an AREQ or ARET is pooled, or discarded where the record is not valid (04 R112). -/
def State.poolAt (s : State) (pa a : Nat) : State :=
  let r := s.crec pa
  if r.valid ∧ a ≠ 0 then s.setCrec pa (r.pool a) else s

/-- An AREQ accepted at the home (04 Table 4.3). -/
def State.acceptReq (s : State) (core pa op k a : Nat) (nw : Bool) : State :=
  let r := s.crec pa
  if !r.init then s.answer core pa op ASt.uninit 0 0
  else if !r.valid then s.answer core pa op ASt.badrec 0 0
  else
    let s := s.poolAt pa a
    let h := s.home pa
    if h.round then
      if nw then s.answer core pa op ASt.failNw 0 0
      else s.setHome pa { h with opened := h.opened ++ [⟨core, op, .adec (BitVec.ofNat 64 k) nw⟩] }
    else if h.opened.isEmpty then
      if k ≤ (s.crec pa).h then s.grantNow core pa op k
      else if nw then s.answer core pa op ASt.failNw 0 0
      else (s.setHome pa { h with opened := [⟨core, op, .adec (BitVec.ofNat 64 k) nw⟩] }).settleAll pa
    else (s.setHome pa { h with opened := h.opened ++ [⟨core, op, .adec (BitVec.ofNat 64 k) nw⟩] }).settleAll pa

/-- An AOP accepted at the home (04 Table 4.3, R121, R122). -/
def State.acceptOp (s : State) (core pa op : Nat) (o : AOp) : State :=
  let r := s.crec pa
  let enqueue (s : State) : State :=
    let h := s.home pa
    let s := s.setHome pa { h with opened := h.opened ++ [⟨core, op, .aop o⟩] }
    if h.round then s else s.settleAll pa
  match o with
  | .acinit total q =>
    if total.toNat > maxH ∨ q.toNat = 0 ∨ q.toNat > 2 ^ 32 then s.answer core pa op ASt.badarg 0 0 else enqueue s
  | .ainc k =>
    if !r.init then s.answer core pa op ASt.uninit 0 0
    else if !r.valid then s.answer core pa op ASt.badrec 0 0
    else (s.poolAt pa k.toNat).answer core pa op (if r.h + k.toNat > maxH then ASt.sat else ASt.ok) 0 0
  | .areada =>
    if !r.init then s.answer core pa op ASt.uninit 0 0
    else if !r.valid then s.answer core pa op ASt.badrec 0 0
    else s.answer core pa op r.readStatus 0 r.h
  | .areadx =>
    if !r.init then s.answer core pa op ASt.uninit 0 0
    else if !r.valid then s.answer core pa op ASt.badrec 0 0
    else enqueue s

/-- ARET: the amount is pooled and the holder's bit cleared; on a record that is not valid nothing changes (04 R112,
Table 4.3). -/
def State.acceptReturn (s : State) (core pa a : Nat) : State :=
  if !(s.crec pa).valid then s
  else
    let s := s.poolAt pa a
    (s.setCrec pa ((s.crec pa).clearHold core)).settleAll pa

/-- RRET: the answer to the RCALL of the round that runs. One that a round has not waited for, because an ARET had cleared
the bit, pools its amount and leaves a bit that a later grant has set (04 R118, R120, R124). An ACINIT's round takes answers
for a record that is not valid (04 R121). -/
def State.acceptAnswer (s : State) (core pa a : Nat) (rseq : W32) : State :=
  let s := s.poolAt pa a
  if (s.home pa).round && decide (rseq.toNat = (s.crec pa).rseq) then (s.setCrec pa ((s.crec pa).clearHold core)).settleAll pa
  else s

/-- FORFEIT at one record (04 R128). -/
def State.forfeitAt (s : State) (core pa : Nat) : State :=
  let r := s.crec pa
  if r.hold.testBit core then
    let r' := { r.clearHold core with
      flags := if r.flags.testBit 2 then r.flags else r.flags + 4
      fcnt := min (r.fcnt + 1) 0xFFFFFFFF }
    (s.setCrec pa r').settleAll pa
  else s

/-- The pinned records whose lines a write of `n` bytes at `pa` meets. -/
def State.recordsMet (s : State) (pa n : Nat) : List Nat :=
  (s.die (homeDie pa)).pinned.filter fun p => (linesOf pa n).contains (lineOf p)

/-- The holders of a record lose their allowances, with the units counted as consumed, before a write that does not come from
an allowance operation: the entries go, and so does what a grant on its way gives beyond its amount (04 R113). The DROP that
follows finds nothing left to discard. -/
def State.dropHolders (s : State) (pa : Nat) : State :=
  let r := s.crec pa
  let hs := holdersOf r.hold
  let t := hs.foldl (fun t c => t.modCore c fun x => { x with allow := x.allow.filter fun e => e.pa != pa }) s
  let spent : Instr → Instr := fun
    | .agrant c p op st g v rs => .agrant c p op st (if p = pa ∧ hs.contains c then 0 else g) v rs
    | i => i
  let u := { t with agenda := t.agenda.map spent }
  (u.sendAll (hs.map fun c => .drop c pa)).setCrec pa { r with hold := 0 }

/-- A write performed at its home that does not come from an allowance operation: holders of a record in its lines
are dropped first, and later operations see the record as written (04 R113). -/
def State.homeWriteAck (s : State) (pa : Nat) (bs : List Byte) (tag : Bool) (sid : Nat) (own : Option (Nat × Nat × Nat)) :
    State × Nat :=
  let recs := s.recordsMet pa bs.length
  let r := (recs.foldl State.dropHolders s).homeStoreAck pa bs tag sid own
  (recs.foldl (fun t p => t.settleAll p) r.1, r.2)

/-- The same, without waiting for acknowledgements. -/
def State.homeWrite (s : State) (pa : Nat) (bs : List Byte) : State := (s.homeWriteAck pa bs false 0 none).1

/-- Writes of the dirty bytes of a line at its home, granule by granule, with the tags of granules that are wholly dirty:
the state and the acknowledgements to come. -/
def State.writeDirty (s : State) (pa : Nat) (data : BitVec 1024) (dirty : BitVec 128) (tags : BitVec 8) (sid : Nat) :
    State × Nat :=
  (List.range 8).foldl (fun (t : State × Nat) g =>
    if tags.getLsbD g && dirty.extractLsb' (16 * g) 16 == 0xFFFF then
      let (u, k) := t.1.homeWriteAck (pa + 16 * g) (lineBytes data (16 * g) 16) true sid none
      (u, t.2 + k)
    else
      (keptRuns (fun i => dirty.getLsbD (16 * g + i)) 16).foldl (fun (t : State × Nat) run =>
        let (u, k) := t.1.homeWriteAck (pa + 16 * g + run.1) (lineBytes data (16 * g + run.1) run.2) false sid none
        (u, t.2 + k)) t) (s, 0)

/-! ### A recall in one step (02 R66) -/

/-- A lease of one line is recalled, answered and its dirty bytes written, all in the step of the access that recalls it
(02 R66; assumption 118). A lease granted by a message still on its way has served nothing: the request stands again
behind the access. -/
def State.recallLine (s : State) (l : Nat) : State :=
  match (s.die (homeDie l)).leaseOf l with
  | none => s
  | some c =>
    let clear (t : State) : State := t.modDie (homeDie l) fun d => d.setLease l none
    let s := { s with agenda := s.agenda.filter fun i => match i with | .lrecall x p => !(x == c && p == l) | _ => true }
    let grant : Instr → Option Instr := fun
      | .lgrant x asid va p .. => if x = c ∧ p = l then some (.lreq x asid va p) else none
      | _ => none
    let ret : Instr → Option (BitVec 1024 × BitVec 128 × BitVec 8) := fun
      | .lret x p data dirty tags => if x = c ∧ p = l then some (data, dirty, tags) else none
      | _ => none
    match s.agenda.findSome? grant with
    | some again => (clear { s with agenda := s.agenda.filter fun i => (grant i).isNone }).send again
    | none => match s.agenda.findSome? ret with
      | some (data, dirty, tags) => clear ({ s with agenda := s.agenda.filter fun i => (ret i).isNone }.writeDirty l data dirty tags 0).1
      | none => match (s.core c).lines.find? fun x => x.pa == l && x.lease with
        | some x =>
          clear ((s.modCore c fun k => k.setLine { x with lease := false, dirty := 0 }).writeDirty l x.data x.dirty x.tags 0).1
        | none => clear s

/-- The same for every line of a range of HBM. -/
def State.recallNow (s : State) (pa n : Nat) : State := if mtOf (localOf pa) = some 0 then (linesOf pa n).foldl State.recallLine s else s

/-- A write by firmware or by fault hardware at its home, any lease recalled first. -/
def State.homeWriteNow (s : State) (pa : Nat) (bs : List Byte) : State := (s.recallNow pa bs.length).homeWrite pa bs

/-- Bytes read by firmware or by fault hardware at their home, any lease recalled first. -/
def State.readNow (s : State) (pa n : Nat) : State × Nat := let t := s.recallNow pa n; (t, t.readNat pa n)

/-! ### Directory sets with their bound (02 R55, R66) -/

/-- Evicts an entry: every record is invalidated, and a lease recalled first. -/
def State.evictEntry (s : State) (die : Nat) (e : DirEntry) : State :=
  let s := if e.lease.isSome then s.recallNow e.base 128 else s
  let same (x : DirEntry) : Bool := x.slice == e.slice && x.base == e.base && x.k == e.k
  if !((s.die die).dirs.any same) then s
  else
    let (d1, v, pre) := (s.die die).nextVer e.slice e.base
    match d1.dirs.find? same with
    | none => s
    | some x =>
      let (d2, msgs) := (d1.dirSwap x []).invTo x x.sharers v
      (s.setDie die d2).sendAll (pre ++ msgs)

/-- Evicts entries of a set until it holds `limit`: the oldest, but for the one that covers `pa`, one without a lease first
(assumption 30). -/
def State.trimSet : Nat → Nat → State → Nat → Nat → State
  | 0, _, s, _, _ => s
  | fuel + 1, limit, s, die, pa =>
    let slice := sliceOf pa
    let members := (s.die die).dirs.filter fun e => dirSet e.slice e.base == dirSet slice pa
    if members.length ≤ limit then s
    else
      let others := members.filter fun e => !e.covers slice pa && !((s.die die).locks.any fun k => e.covers slice k.line)
      match (others.find? (·.lease.isNone)) <|> others.head? with
      | none => s
      | some e => State.trimSet fuel limit (s.evictEntry die e) die pa

/-- A fill's record in the directory of a die, with the set within its 16 ways (02 R55, R56). -/
def State.addSharer (s : State) (die pa core asid va : Nat) : State :=
  let s := if ((s.die die).dirAt pa).isNone then State.trimSet 32 15 s die pa else s
  let (d, out) := Die.addSharer 12 (s.die die) pa core asid va
  State.trimSet 32 16 ((s.setDie die d).sendAll out) die pa

/-- Splits the entry that covers a line down to k = 7, with the set within its 16 ways (02 R55, R65). -/
def State.splitLine (s : State) (die pa : Nat) : State := State.trimSet 32 16 (s.modDie die fun d => Die.splitTo7 10 d pa) die pa

/-- An NP answer (02 R57). -/
def State.onNp (s : State) (die pa core asid va : Nat) : State :=
  State.trimSet 32 16 (s.modDie die fun d => d.onNp pa core asid va) die pa

end Sys2Proof.Machine
end

