-- ==== Sys2Proof/Machine/Walk.lean ====
section
/-! DEFINITION. Translation at the slices: the walk with its caches, and AF and DF (01 R27, R28, R35-R37). -/

namespace Sys2Proof.Machine

/-- Sets AF or DF of an entry with a compare-and-swap at its home, any lease recalled first, with UPDs to the home's
sharers (01 R28, 02 R64, R66); answers whether the compare held. -/
def State.setPteBit (s : State) (at_ old bit : Nat) : State × Bool :=
  let (t, now) := s.readNow at_ 16
  if now = old then (t.homeWrite at_ (bytesOf 16 (old + 2 ^ bit)), true) else (t, false)

/-- Recalls the leases of the entries that a walk from a table reads, each before it is read (01 R37, 02 R66). -/
def State.settleWalk (s : State) (va : Nat) : Nat → Nat → State
  | lvl, tbl =>
    let (t, n) := s.readNow (tbl + bitsAt va (15 + 10 * lvl) 10 * 16) 16
    let p := Pte.ofNat n
    if !p.v || p.leaf then t
    else match lvl with
      | 0 => t
      | l + 1 => State.settleWalk t va l p.npa

/-- Fills the page-walk caches of the translating slice (01 R36). They give no number of entries; the model keeps each until
a shootdown or a purge (assumption 31). -/
def Die.cacheTables (d : Die) (asid va : Nat) (ts : List (Nat × Nat)) : Die :=
  ts.foldl (fun d t =>
    let e : WEntry := ⟨transSlice asid va, asid, va / 2 ^ (15 + 10 * t.1) * 2 ^ (15 + 10 * t.1), t.1, t.2⟩
    if d.wcache.any fun x => x.slice == e.slice && x.asid == e.asid && x.va == e.va && x.lvl == e.lvl then d
    else { d with wcache := d.wcache ++ [e] }) d

/-- Adds a leaf to the translating slice's cache of 8192 entries, whose oldest gives way (01 R36; assumption 31). -/
def Die.cacheLeaf (d : Die) (e : TEntry) : Die :=
  let mine := d.tcache.filter (·.slice == e.slice)
  let rest := if mine.length < 8192 then d.tcache else match mine.head? with | some o => d.tcache.erase o | none => d.tcache
  { d with tcache := rest ++ [e] }

/-- Fills the translation cache from a walk: AF is set in the entry; a malformed entry or one with ZP is not cached
(01 R28, R36). -/
def State.fillTcache (s : State) (die asid va : Nat) (w : Nat × Nat × Nat) : State :=
  let (lvl, at_, n) := w
  let p := Pte.ofNat n
  let bad := match p.checkLeaf s.pkg (s.partOf asid) lvl .load with
    | some f => f.code == Code.pageNotPresent
    | none => false
  if bad then s
  else
    let (s, n) := if p.af then (s, n) else let (t, ok) := s.setPteBit at_ n 11; (t, if ok then n + 2 ^ 11 else n)
    s.modDie die fun d =>
      d.cacheLeaf ⟨transSlice asid va, asid, va / 2 ^ (15 + 10 * lvl) * 2 ^ (15 + 10 * lvl), lvl, at_, BitVec.ofNat 128 n⟩

/-- A walk by the translating slice, from the deepest table that its page-walk caches hold; tables and leaf are cached
(01 R27, R36, R37). A walk is one step, so no two are ever in flight at one slice (assumption 119). -/
def State.walkAt (s : State) (die asid va : Nat) : State × Except TFault (Nat × Nat × Nat) :=
  match s.rootOf asid va with
  | .error f => (s, .error f)
  | .ok root =>
    let (lvl, tbl) := ((s.die die).tableFor asid va).getD (3, root)
    let t := s.settleWalk va lvl tbl
    let t := t.modDie die fun d => d.cacheTables asid va (tablesFrom t va lvl tbl)
    match walkFrom t va lvl tbl with
    | .error f => (t, .error f)
    | .ok w => (t.fillTcache die asid va w, .ok w)

/-- The leaf for an address: from the cache, or from a walk. -/
def State.leafFor (s : State) (die asid va : Nat) : State × Except TFault (Nat × Nat × Nat) :=
  match (s.die die).cached asid va with
  | some t => (s, .ok (t.lvl, t.pteAt, t.pte.toNat))
  | none => s.walkAt die asid va

/-- Translation of an address for an access by a core of die `die`, without DF (01 R22, R27, R29, R35). -/
def State.look (s : State) (die asid va : Nat) (acc : Acc) : State × Except TFault Trans :=
  match s.leafFor die asid va with
  | (s', .error f) => (s', .error f)
  | (s', .ok (lvl, _, n)) =>
    let p := Pte.ofNat n
    match p.checkLeaf s.pkg (s'.partOf asid) lvl acc with
    | some f => (s', .error f)
    | none =>
      let t := p.trans lvl va
      if mtOf (localOf t.pa) = none then (s', .error .malformed) else (s', .ok t)

/-- Before the first write through a cached leaf with DF = 0, DF is set at the entry's home. If the compare fails, the
cached copy is discarded, and the answer is false (01 R28). -/
def State.setDirty (s : State) (die asid va : Nat) : State × Bool :=
  match (s.die die).cached asid va with
  | none => (s, true)
  | some e =>
    let n := e.pte.toNat
    if (Pte.ofNat n).df then (s, true)
    else
      let (t, ok) := s.setPteBit e.pteAt n 12
      if ok then
        (t.modDie die fun d => { d with tcache := d.tcache.map fun x => if x = e then { x with pte := BitVec.ofNat 128 (n + 2 ^ 12) } else x }, true)
      else (t.modDie die fun d => { d with tcache := d.tcache.filter (· != e) }, false)

/-- Translation of an access that is performed at once: a write sets DF, and walks again if the entry has changed
(01 R28). -/
def State.translate (s : State) (die asid va : Nat) (acc : Acc) : State × Except TFault Trans :=
  match s.look die asid va acc with
  | (t, .error f) => (t, .error f)
  | (t, .ok x) =>
    if !accWrites acc then (t, .ok x)
    else
      let (u, ok) := t.setDirty die asid va
      if ok then (u, .ok x)
      else match u.look die asid va acc with
        | (v, .error f) => (v, .error f)
        | (v, .ok y) => ((v.setDirty die asid va).1, .ok y)

/-- Translation of every part, before any is performed; the first fault is the lowest (01 R31). -/
def State.translateParts (s : State) (die asid : Nat) (acc : Acc) :
    List (Nat × Nat) → State × Except (TFault × Nat) (List (Nat × Nat × Trans))
  | [] => (s, .ok [])
  | (va, n) :: r =>
    match s.look die asid va acc with
    | (s', .error f) => (s', .error (f, va))
    | (s', .ok t) =>
      match State.translateParts s' die asid acc r with
      | (s2, .error e) => (s2, .error e)
      | (s2, .ok l) => (s2, .ok ((va, n, t) :: l))

/-- DF for every part of an access that is about to be performed; false if a leaf has changed (01 R28). -/
def State.setDirtyParts (s : State) (die asid : Nat) (ps : List (Nat × Nat)) : State × Bool :=
  ps.foldl (fun t p => let (u, ok) := t.1.setDirty die asid p.1; (u, t.2 && ok)) (s, true)

end Sys2Proof.Machine
end

