-- ==== Sys2Proof/Machine/Objects.lean ====
section
/-! DEFINITION. Synchronisation objects at their banks: gongs, waiter chains and futures (07 R184, R185); fault and
event records (16 R396, 20 R430); what a release waits for (03 R89). -/

namespace Sys2Proof.Machine

/-! ### Gongs (07 R185) -/

/-- The paths that wait on an object. -/
def State.waitersOn (s : State) (w : Wait) : List (Nat × Bool) :=
  s.groups.flatMap fun e =>
    (if e.2.pa.live && e.2.pa.wait == w then [(e.1, false)] else []) ++
      (if e.2.pb.live && e.2.pb.wait == w then [(e.1, true)] else [])

/-- Every path that waits on the object at `pa` receives a gong. -/
def State.gongAll (s : State) (pa : Nat) : State :=
  (s.waitersOn (.gong pa)).foldl (fun t w => (t.modPath w.1 w.2 fun p => { p with wait := .wake }).gongPath w.1 w.2) s

/-- Marks a saved group as readied, and sets its restore in motion; one that its partition's halt saved waits for the
swap-in (16 R400, R402). -/
def State.readySaved (s : State) (gid : Nat) : State :=
  match (s.grp gid).place with
  | .res _ _ => s
  | .saved d r =>
    if (s.grp gid).saved.ready.isSome then s
    else
      let t := s.modGrp gid fun g => { g with saved := { g.saved with ready := some s.time } }
      if (s.grp gid).saved.halted then t else t.send (.groupRestore (32 * d) d r)

/-- Readies a path; a saved group is marked readied (16 R400). -/
def State.ready (s : State) (gid : Nat) (b : Bool) : State :=
  (s.modGrp gid fun g => g.setPath b { g.path b with wait := .none }).readySaved gid

/-- The issuing path chains itself on the object at `pa`, whose WHEAD stands at `whead` and WCNT at `wcnt`: its link
takes the old head, the head names it, the count rises, and it parks (07 R185). -/
def State.chainOn (s : State) (pa whead wcnt : Nat) : State :=
  let link := BitVec.ofNat 16 (s.readNat whead 2)
  let n := s.readNat wcnt 2 + 1
  let s1 := (s.homeWrite whead (bytesOf 2 s.g.wid)).homeWrite wcnt (bytesOf 2 n)
  (s1.modP fun p => { p with link := link, whead := whead }).park (.gong pa)

/-- A gong on the chain of an object: every waiter, then WCNT 0 and WHEAD 0xFFFF (07 R185). -/
def State.gongChain (s : State) (pa whead wcnt : Nat) : State :=
  ((s.gongAll pa).homeWrite whead (bytesOf 2 0xFFFF)).homeWrite wcnt (bytesOf 2 0)

/-- The back-off state after reading `v` at address `a` (12 R323). -/
def Path.polled (p : Path) (a v : W64) : Path :=
  { p with pdelay := if p.paddr = a ∧ p.pval = v then min 4096 (max 16 (2 * p.pdelay)) else 0, paddr := a, pval := v }

/-- The issuing path backs off as POLL does, and then re-executes its instruction: JOIN and BARW on a saturated count,
WAITC without a monitor entry (12 R322, R323, R325). -/
def State.backOff (s : State) (a v : Nat) : State :=
  let t := s.modP fun p => p.polled (BitVec.ofNat 64 a) (BitVec.ofNat 64 v)
  if t.p.pdelay = 0 then t else (t.park .delay).send (.pollDelayEnd ⟨t.c, t.g.slot, t.cur.b⟩)

/-! ### Futures (07 R184, R185) -/

/-- A future cell (07 Table 7.4). -/
structure Fut where
  st   : Nat
  gen  : Nat
  wcnt : Nat
  val  : Nat
  deriving DecidableEq, Repr

/-- Reads a future cell (07 Table 7.4). Nonzero reserved bytes (15-12, 3-1, ST bits 7-2) are ignored: a DESIGN CHOICE, for
07 states no report of them (assumption 133). -/
def State.fut (s : State) (pa : Nat) : Fut :=
  let n := s.readNat pa 32
  ⟨bitsAt n 0 2, bitsAt n 32 32, bitsAt n 64 16, bitsAt n 128 128⟩

def futEmpty : Nat := 0
def futFull : Nat := 1
def futFault : Nat := 2
def futCancelled : Nat := 3

/-- Any fill of a cell (07 Table 7.5): the state after it, and whether it filled. -/
def State.fillFut (s : State) (pa st val : Nat) : State × Bool :=
  if (s.fut pa).st = futEmpty then
    (((s.homeWrite pa [BitVec.ofNat 8 st]).homeWrite (pa + 16) (bytesOf 16 val)).gongChain pa (pa + 10) (pa + 8), true)
  else (s, false)

/-- The value that a fault leaves in a cell: the address in bytes 23-16, the cause in byte 24. -/
def faultVal (code addr : Nat) : Nat := addr % 2 ^ 57 + code % 256 * 2 ^ 64

/-- FNEW (07 Table 7.5): the state after it and the new GEN. -/
def State.newFut (s : State) (pa : Nat) : State × Nat :=
  let gen := ((s.fut pa).gen + 1) % 2 ^ 32
  ((((s.homeWrite pa [BitVec.ofNat 8 futEmpty]).homeWrite (pa + 4) (bytesOf 4 gen)).homeWrite (pa + 16) (bytesOf 16 0)).gongChain
    pa (pa + 10) (pa + 8), gen)

/-! ### Records for firmware and the host -/

/-- The 32 bytes of a fault record (16 Table 16.2). -/
def FaultRec.bytes (f : FaultRec) (fseq wid : Nat) : List Byte :=
  bytesOf 32 (f.va % 2 ^ 57 + f.ctx % 256 * 2 ^ 128 + f.orig % 256 * 2 ^ 136 + f.acc % 16 * 2 ^ 144 + f.kind % 16 * 2 ^ 148
    + f.cause % 256 * 2 ^ 152 + wid % 65536 * 2 ^ 160 + f.asid % 65536 * 2 ^ 176 + fseq % 2 ^ 64 * 2 ^ 192)

/-- ACC of a fault record (16 Table 16.2). -/
def accCode : Acc → Nat
  | .load => 0
  | .store => 1
  | .atomic => 2
  | .fetch => 3
  | .cst => 4

/-- Whether a partition holds a die. -/
def State.partOfDie (s : State) (d : Nat) : Option Nat := Store.findKey? s.parts fun p => p.dies.contains d

/-- Writes an event record to a partition's event ring, or drops it (20 R430, 16 Table 16.5). -/
def State.event (s : State) (part kind detail dies : Nat) : State :=
  let p := s.part part
  let base := bitsAt p.evbase.toNat 12 40 * 4096
  let log := bitsAt p.evbase.toNat 0 4 + 4
  let full := (p.eseq + 2 ^ 64 - p.evack.toNat - 1) % 2 ^ 64 = 2 ^ log
  if p.evbase = 0 ∨ full then s.setPart part { p with evlost := p.evlost + 1, eseq := p.eseq + 1 }
  else
    let rec_ := bytesOf 32 (kind % 256 + part % 256 * 2 ^ 40 + dies % 256 * 2 ^ 64 + detail % 2 ^ 64 * 2 ^ 128 + p.eseq % 2 ^ 64 * 2 ^ 192)
    (s.homeWriteNow (base + p.eseq % 2 ^ log * 32) rec_).setPart part { p with eseq := p.eseq + 1 }

/-- Firmware spares a structure, with or without a replacement, and writes a SPARED event (20 R432). -/
def State.spare (s : State) (u : ErrUnit) (noSpare : Bool) : State :=
  let t := { s with plat := { s.plat with
    spared := s.plat.spared ++ [(u, noSpare)], toSpare := s.plat.toSpare.filter fun e => e.1 != u } }
  match t.partOfDie u.die with
  | some p => t.event p 4 ((if noSpare then 2 ^ 63 else 0) + u.place * 2 ^ 8 % 2 ^ 51 + u.struct % 256) (2 ^ u.die)
  | none => t

/-! ### The deque (07 R186) -/

/-- Work that a core's deque leaves to do: dispatch, staging, and the return of entries from the overflow area. Each is
set on its way once. -/
def State.poke (s : State) (core : Nat) : State :=
  let c := s.core core
  let want := (if c.deque.any (·.st == .ready) then [Instr.dispatch core] else []) ++
    (if c.deque.any (fun e => e.st == .pending && !e.staging) then [Instr.autoStageStart core] else []) ++
    (if !c.overflow.isEmpty && decide (c.deque.length < 1024) then [Instr.dequeRefill core] else [])
  s.sendAll (want.filter fun i => !s.agenda.contains i)

/-- The tile count of an entry. -/
def tileCount (e : Entry) : Nat := bitsAt e.closure.toNat 21 3

/-- Entries leave for the overflow area without their staged buffers; those with tiles will stage again. -/
def unstaged (e : Entry) : Entry :=
  { e with st := if tileCount e = 0 then .ready else .pending, staging := false, tiles := [] }

/-- A push at the hot end; on a full deque the 256 cold-most READY entries move out first. None when they cannot. -/
def Core.pushHot (c : Core) (e : Entry) : Option Core :=
  if c.deque.length < 2048 then some { c with deque := e :: c.deque }
  else
    let ids := ((c.deque.filter (·.st == .ready)).reverse.take 256).map (·.eid)
    if ids.isEmpty ∨ 65536 < c.overflow.length + ids.length then none
    else
      let out := c.deque.filter fun x => ids.contains x.eid
      some { c with
        deque := e :: c.deque.filter fun x => !ids.contains x.eid
        overflow := out.map unstaged ++ c.overflow
        bufs := c.bufs.filter fun b => !ids.contains b.eid }

/-- A core has a free slot and nothing READY or PENDING (07 R188). -/
def State.hungry (s : State) (core : Nat) : Bool :=
  let c := s.core core
  !c.halted && !c.failed && decide ((s.residents core).length < 64) && c.deque.all (·.st == .running) && c.overflow.isEmpty

/-- A core's hunger: the cycles for which it has been short of work without a break, up to 65,535 (07 R188). -/
def State.hunger (s : State) (core : Nat) : Nat := if s.hungry core then min 65535 (s.clock - (s.core core).fed) else 0

/-- A push at the cold end, for an entry that a steal or a root brings; on a full deque the 256 cold-most READY entries move out
first (07 R186, R190). -/
def Core.pushCold (c : Core) (e : Entry) : Option Core :=
  if c.deque.length < 2048 then some { c with deque := c.deque ++ [e] }
  else (c.pushHot e).map fun k => { k with deque := k.deque.drop 1 ++ [e] }

/-- The core that keeps a group's entry: its own while it is resident, and for a saved group the one whose deque holds the place
(07 R186). -/
def State.entryCore (s : State) (g : Group) : Nat :=
  if g.resident then g.core else (Store.findKey? s.cores fun c => c.deque.any (·.eid == g.eid)).getD g.core

/-! ### Releases and acquires (03 R89, 02 R66, R77, R79) -/

def scopeNum : Scope → Nat
  | .grp => 0
  | .core => 1
  | .die => 2
  | .pkg => 3
  | .dom => 4
  | .sys => 5

/-- Returns a core's leases: every leased line sends LRET and becomes an ordinary copy (02 R66). -/
def State.returnLeases (s : State) (core : Nat) : State :=
  let c := s.core core
  let ls := c.lines.filter (·.lease)
  let s := s.setCore core { c with lines := c.lines.map fun l => if l.lease then { l with lease := false, dirty := 0 } else l }
  s.sendAll (ls.map fun l => .lret core l.pa l.data l.dirty l.tags)

/-- Whether an LRET of a core is on its way. -/
def State.lretInFlight (s : State) (core : Nat) : Bool :=
  s.agenda.any fun i => match i with | .lret c .. => c == core | _ => false

/-- Whether the operations of a path that a release covers are performed: its own covered reads and writes (03 R89, R94). -/
def State.ownDone (s : State) (gid : Nat) (b uo : Bool) : Bool :=
  !(s.ops.any fun o => o.2.gid == gid && (if b then o.2.chB else o.2.chA) && !o.2.parked && (uo || !o.2.uo) && (o.2.reads || o.2.stores))

/-- Whether the covered stores that a group has stored early, read from or taken over are performed: those that it knows from
its core's L1 count as performed at .core (03 R88, R89). -/
def State.seenDone (s : State) (gid : Nat) (sc : Scope) (uo : Bool) : Bool :=
  !((s.grp gid).seen.any fun e => (uo || !e.uo) && (2 ≤ scopeNum sc || (scopeNum sc == 1 && !e.l1)) && s.outstanding e.sid)

/-- Whether the writes that a release by a path must carry are performed at its scope (03 R89): what the path has done and what
its group has seen, the core's leases at .die, the die's guest lines at .pkg. What is missing is set in motion. -/
def State.releaseAt (s : State) (gid : Nat) (b : Bool) (sc : Scope) (uo : Bool) : State × Bool :=
  let core := (s.grp gid).core
  let done := s.ownDone gid b uo && s.seenDone gid sc uo
  if scopeNum sc < 2 then (s, done)
  else
    let s1 := s.returnLeases core
    let back := !s1.lretInFlight core
    if scopeNum sc < 3 then (s1, done && back)
    else
      let (s2, clean) := s1.flushAll (dieOf core)
      (s2, done && back && clean)

/-- A core's L1 at an acquire at .pkg or wider: copies of lines whose home is another die go with the guest lines
behind them (02 R79, 03 R104; assumption 13). -/
def Core.dropForeign (die : Nat) (c : Core) : Core :=
  { c with lines := (c.lines.filter fun l => homeDie l.pa == die || l.pending).map fun l =>
      if homeDie l.pa ≠ die then { l with stale := true } else l }

/-- The invalidation that an acquire at .pkg or wider includes (02 R79). -/
def State.acquireAt (s : State) (die : Nat) (sc : Scope) : State :=
  if 3 ≤ scopeNum sc then
    let s := s.modDie die Die.invalidateGuests
    { s with cores := s.cores.map fun e => if e.1 / 32 = die then (e.1, e.2.dropForeign die) else e }
  else s

/-- An acquire by a group: the invalidation, and the stores of its core that a release at .core may have passed to it
(03 R89). -/
def State.acquireFor (s : State) (gid : Nat) (sc : Scope) : State :=
  let t := s.acquireAt (dieOf (s.grp gid).core) sc
  if 1 ≤ scopeNum sc then t.inherit gid else t

end Sys2Proof.Machine
end

