-- ==== Sys2Proof/Machine/Ops.lean ====
section
/-! DEFINITION. The shared operations: ending a task, taking a trap and returning from one, page faults, and what an
instruction that must wait does (07 R180; 13 R332; 16 R389-R397). -/

namespace Sys2Proof.Machine

/-! ### Ending a task (07 R180, 13 R332, 15 R383) -/

/-- The launch loses a live task; at zero, once every root is placed, it completes (15 R383). -/
def State.taskGone (s : State) (lid : Nat) : State :=
  match Store.find s.launches lid with
  | none => s
  | some l =>
    let n := l.tasks - 1
    let last := n == 0 && l.unplaced.isEmpty && !l.done
    let s := { s with launches := Store.put s.launches lid { l with tasks := n, done := l.done || last } }
    if last then
      -- every WAITPRED on this launch is readied (13 R336)
      let s := (s.waitersOn .pred).foldl (fun t w =>
        if ((Store.find t.launches (t.grp w.1).launch).bind (·.pred)) == some lid then t.ready w.1 w.2 else t) s
      s.send (.packetComplete l.part l.queue l.num (if l.aborted then .aborted else .ok) 0)
    else s

/-- Marks a launch as aborted (16 R394). -/
def State.abortLaunch (s : State) (lid : Nat) : State :=
  match Store.find s.launches lid with
  | none => s
  | some l => { s with launches := Store.put s.launches lid { l with aborted := true } }

/-- The cell that a future capability names, for an access from die `die`: its physical address, or the fault that
keeps it out of reach (13 R332). -/
def State.futCell (s : State) (die asid : Nat) (f : Cap) : State × Except TFault Nat :=
  if f.cursor % 32 ≠ 0 ∨ (f.check .atomic f.cursor 32).isSome then (s, .error .perm)
  else
    match s.translate die asid f.cursor .atomic with
    | (s', .error e) => (s', .error e)
    | (s', .ok t) => (s', if t.page.mt = 1 then .ok t.pa else .error .perm)

/-- Fills a task's future; one that cannot be reached leaves a fault record (13 R332). -/
def State.fillTask (s : State) (die asid : Nat) (f : Cap) (w : Option Waiter) (orig : Nat) (e : Ending) : State :=
  if !f.tag then s
  else
    match s.futCell die asid f with
    | (s', .ok pa) =>
      match e with
      | .value v => (s'.fillFut pa futFull v.toNat).1
      | .fault c a => (s'.fillFut pa futFault (faultVal c a)).1
    | (s', .error t) => s'.send (.faultRecord die ⟨asid, w, t.code, t.kind, 2, orig, 0, f.cursor⟩)

/-- Removes an entry and its buffers from a core's deque. -/
def Core.dropEntry (c : Core) (eid : Nat) : Core :=
  { c with deque := c.deque.filter (·.eid != eid), bufs := c.bufs.filter (·.eid != eid) }

/-- Bytes as a store of those that are not 0. -/
def imageOf (bs : List Byte) : Store Byte := bs.zipIdx.filterMap fun e => if e.1 = 0 then none else some (e.2, e.1)

/-- The first bytes of a group's window and slots, with the window's tags. -/
def State.localImage (s : State) (gid scr tob : Nat) : Saved :=
  { scr := imageOf (s.scrRead gid 0 scr), tags := (List.range (scr / 16)).filter fun i => s.scrTag gid (16 * i)
    tob := imageOf (s.tobRead gid 0 tob) }

/-- A CPYT.st of a group that leaves its slot, and whose data has not been read, takes what the window and slots hold now
(05 R147, 14 R364; assumption 123). -/
def State.snapCmds (s : State) (gid : Nat) : State :=
  let g := s.grp gid
  let waits (c : Cmd) : Bool := c.gid == gid && !c.started && c.snap.isNone && (match c.ins with | .cpyt store .. => store | _ => false)
  if (s.core g.core).cmds.any waits then
    let im := s.localImage gid g.scrSize (2048 * g.tobCnt)
    s.modCore g.core fun k => { k with cmds := k.cmds.map fun c => if waits c then { c with snap := some im } else c }
  else s

/-- The end of a task: its future is filled, its entry and group go, its launch counts it out (13 R332, 15 R383). -/
def State.endTask (s : State) (gid : Nat) (e : Ending) : State :=
  let g := s.grp gid
  let s := s.snapCmds gid
  let s := s.fillTask (dieOf g.core) g.asid g.fut (some (g.waiter false)) 0 e
  let s := { s with
    groups := Store.del s.groups gid
    ops := s.ops.filter fun o => o.2.gid != gid }
  let home := s.entryCore g
  let s := s.modCore home fun c => c.dropEntry g.eid
  let s := { s with dies := s.dies.map fun (d : Nat × Die) => (d.1, { d.2 with monitors := d.2.monitors.filter fun m => m.gid != gid }) }
  (s.taskGone g.launch).poke home

/-- Whether a group's operations have all completed; those parked on a fault are abandoned (07 R180). -/
def State.drained (s : State) (gid : Nat) : Bool := !(s.ops.any fun o => o.2.gid == gid && !o.2.parked)

/-- The lowest-numbered group that has executed EXIT and waits for its operations or for its release. -/
def State.endable (s : State) (gid : Nat) : State × Bool :=
  if s.drained gid then
    let s := { s with ops := s.ops.filter fun o => o.2.gid != gid }
    s.releaseAt gid false .pkg true
  else (s, false)

/-- Ends every task that has executed EXIT and has nothing left to wait for. -/
def State.sweep (s : State) : State :=
  s.groups.foldl (fun t e =>
    match (t.grp e.1).ending with
    | none => t
    | some x => let (t', ok) := t.endable e.1; if ok then t'.endTask e.1 x else t') s

/-- EXIT, and escalation: both paths stop, and the task ends once its operations have completed (07 R180). -/
def State.exitTask (s : State) (gid : Nat) (e : Ending) : State :=
  (s.modGrp gid fun g =>
    { g with
      pa := { g.pa with live := false, wait := .none }
      pb := { g.pb with live := false, wait := .none }
      ending := some (g.ending.getD e) }).sweep

/-! ### Traps (16 R389-R394) -/

/-- Where a kernel's trap handler starts (16 R391). -/
def Launch.handler (l : Launch) : Option VA :=
  (l.entries[l.hent]?).map fun e => BitVec.ofNat 57 (l.code.cursor + e.off)

/-- Escalation (16 R394): the task ends with its future in FAULT, the launch is aborted, an event is written. -/
def State.escalate (s : State) (gid : Nat) (code : Nat) (faddr : W64) : State :=
  let g := s.grp gid
  let part := s.partOf g.asid
  let s := s.event part 2 (faddr.toNat % 2 ^ 57 + code % 128 * 2 ^ 57) (2 ^ dieOf g.core)
  (s.abortLaunch g.launch).exitTask gid (.fault code faddr.toNat)

/-- Entry to the trap handler in one step (16 R391). -/
def State.enterHandler (s : State) (gid : Nat) (b : Bool) (h : VA) (code : Nat) (faddr : W64) (unfinished : Mask) : State :=
  s.modGrp gid fun g =>
    let p := g.path b
    let epc := p.pc.zeroExtend 64
    let g := { g with
      cause := BitVec.ofNat 8 code
      faddr := faddr
      epc := epc
      emask := if Code.resumes code then 0 else unfinished }
    g.setPath b { p with
      frame := some ⟨p.left, p.seta, p.setb, p.loops, p.mask, epc, !Code.resumes code, p.phase, p.wrote⟩
      phase := none, wrote := [], loops := [], left := 0, pc := h, wait := .none, replay := none, promoted := none }

/-- Debug halt in place of the handler (16 R404). The trap registers take what R391 gives them (assumption 14). -/
def State.debugHalt (s : State) (gid : Nat) (code : Nat) (faddr : W64) (b : Bool) (unfinished : Mask) : State :=
  let g := s.grp gid
  let s := s.event (s.partOf g.asid) 3 g.wid (2 ^ dieOf g.core)
  s.modGrp gid fun g =>
    let p := g.path b
    let g := { g with
      cause := BitVec.ofNat 8 code
      faddr := faddr
      epc := p.pc.zeroExtend 64
      emask := if Code.resumes code then 0 else unfinished }
    { g with
      pa := if g.pa.live && (g.pa.wait == .none || !b) then { g.pa with wait := .debug } else g.pa
      pb := if g.pb.live && (g.pb.wait == .none || b) then { g.pb with wait := .debug } else g.pb }

/-- Taking a trap by path `b` of a group (16 R391, R392, R394, R404). The path's program counter is the trap point: the
instruction for a replay cause, the next one for a resume cause. -/
def State.trapOn (s : State) (gid : Nat) (b : Bool) (code : Nat) (faddr : W64) (unfinished : Mask) : State :=
  let g := s.grp gid
  if g.debug then s.debugHalt gid code faddr b unfinished
  else if (g.path b).frame.isSome then s.escalate gid code faddr
  else if (g.path (!b)).frame.isSome then
    if Code.resumes code then s.modPath gid b fun p => { p with held := some ⟨code, faddr⟩ } else s
  else
    match (s.launchOf g).bind (·.handler) with
    | none => s.escalate gid code faddr
    | some h => s.enterHandler gid b h code faddr unfinished

/-- A trap by the issuing path. -/
def State.trap (s : State) (code : Nat) (faddr : W64) (unfinished : Mask) : State :=
  s.trapOn s.cur.gid s.cur.b code faddr unfinished

/-- A trap by an instruction that acts once per path: its whole active mask is unfinished (16 R391). -/
def State.trapAll (s : State) (code : Nat) (faddr : W64) : State := s.trap code faddr s.act

/-- A trap at the issuing instruction's own address. -/
def State.trapHere (s : State) (code : Nat) : State := s.trapAll code (s.p.pc.zeroExtend 64)

/-- A resume cause held for a path is taken once the other path has left handler mode (16 R392). -/
def State.takeHeld (s : State) (gid : Nat) (b : Bool) : State :=
  match ((s.grp gid).path b).held with
  | none => s
  | some c => (s.modPath gid b fun p => { p with held := none }).trapOn gid b c.code c.faddr 0

/-- Parked operations of a path whose replay will not come, because its handler has continued elsewhere, are over: lanes on
their way keep a count until they have been performed (09 R227, 16 R393). -/
def State.unpark (s : State) (gid : Nat) (b : Bool) : State :=
  let mine (o : OpRec) : Bool := o.gid == gid && o.b == b && o.parked
  { s with ops := (s.ops.filter fun o => !(mine o.2) || o.2.out != 0).map fun (o : Nat × OpRec) =>
      if mine o.2 then (o.1, { o.2 with parked := false, fin := .none }) else o }

/-- The handler return of 16 R393 by the issuing path, whose frame is `f`. -/
def State.handlerReturn (s : State) (f : Frame) : State :=
  let g := s.g
  let t : VA := g.epc.truncate 57
  let s := s.modP fun p =>
    let p := { p.used with frame := none, loops := f.loops, mask := f.mask, pc := t }
    if g.epc = f.epc then
      { p with left := f.left, seta := f.seta, setb := f.setb, phase := f.phase, wrote := f.wrote
               replay := if f.replays then some (g.emask &&& f.mask) else none }
    else { p with left := 0 }
  (if g.epc = f.epc then s else s.unpark s.cur.gid s.cur.b).takeHeld s.cur.gid (!s.cur.b)

/-! ### Page faults (16 R395) -/

/-- A fault that the pager takes parks the path at its instruction with its unfinished lanes; on a die without a pager
it is a trap (16 R395, R396). `code` is the cause, `f` what the walk found. -/
def State.pageFault (s : State) (code kind : Nat) (acc : Nat) (va : Nat) (unfinished : Mask) : State :=
  let g := s.g
  let die := dieOf g.core
  if (s.die die).pgbase = 0 then s.trap code (BitVec.ofNat 64 va) unfinished
  else
    let f : FaultRec := ⟨g.asid, some (g.waiter s.cur.b), code, kind, acc, 0, 0, va % 2 ^ 57⟩
    ((s.modP fun p => { p with replay := some unfinished }).park (.faultHeld f)).send (.faultRecord die f)

/-- A cause of translation: the pager's causes go to the pager, ORD_RESERVED to the handler (16 Table 16.1). -/
def State.transFault (s : State) (f : TFault) (acc : Acc) (va : Nat) (unfinished : Mask) : State :=
  if f.code = Code.pageNotPresent ∨ f.code = Code.pagePerm then s.pageFault f.code f.kind (accCode acc) va unfinished
  else s.trap f.code (BitVec.ofNat 64 va) unfinished

end Sys2Proof.Machine
end

