-- ==== Sys2Proof/Machine/Flags.lean ====
section
/-! DEFINITION. sr.fpcsr: rounding mode, sticky flags and the ARITH trap (08 R206-R208). -/

namespace Sys2Proof.Machine

/-- The rounding mode that a code of sr.fpcsr.RM names (08 Table 8.3). -/
def rmOfCode : Nat → Rm
  | 0 => .rne
  | 1 => .rtz
  | 2 => .rdn
  | 3 => .rup
  | _ => .rna

/-- The mode of an instruction: SC, or sr.fpcsr.RM for .dyn, read at issue (11 R284). -/
def Group.roundMode (g : Group) (rm : Rm) : Rm :=
  match rm with
  | .dyn => rmOfCode (bitsAt g.fpcsr.toNat 16 3)
  | .rne => .rne
  | .rtz => .rtz
  | .rdn => .rdn
  | .rup => .rup
  | .rna => .rna

/-- Sticky flags accumulate (08 R206). -/
def Group.raise (g : Group) (fl : Nat) : Group := { g with fpcsr := g.fpcsr ||| BitVec.ofNat 64 (fl % 64) }

/-- Whether a raised flag has its trap enable set (08 R208). -/
def Group.trapping (g : Group) (fl : Nat) : Bool := Nat.land (fl % 32) (bitsAt g.fpcsr.toNat 8 5) != 0

/-- The end of an interlocked float instruction: its flags are set, it moves past, and an enabled flag traps (08 R208).
The trap point of ARITH is the next instruction. -/
def State.retireFlags (s : State) (fl bytes : Nat) : State :=
  let t := (s.modG fun g => g.raise fl).retire bytes
  if s.g.trapping fl then t.trap Code.arith (BitVec.ofNat 64 (fl % 32)) 0 else t

/-- Flags raised by an operation that completes later: ARITH waits for the path's next instruction boundary, and flags
of several operations are ORed (11 R291). -/
def State.raiseLater (s : State) (gid : Nat) (b : Bool) (fl : Nat) : State :=
  let trap := (s.grp gid).trapping fl
  let s := s.modGrp gid fun g => g.raise fl
  if trap then
    s.modPath gid b fun p =>
      { p with held := some ⟨Code.arith, (match p.held with | some c => c.faddr | none => 0) ||| BitVec.ofNat 64 (fl % 32)⟩ }
  else s

end Sys2Proof.Machine
end

