-- ==== Sys2Proof/WellFormed.lean ====
section
/-! DEFINITION. The static field rules of an instruction (09 R218-R221 and each definition's own), apart from the
group's register budgets, which the fetch stage checks. An event of the part has no fields and is well formed. -/

namespace Sys2Proof

/-! ### Sets of types -/

/-- TY 0-3, "wide" (11 R276). -/
def ETy.wide : ETy → Bool
  | .i32 | .n32 | .i64 | .n64 => true
  | _ => false

/-- TY 0-7, "int" (11 R276). -/
def ETy.int : ETy → Bool
  | .i32 | .n32 | .i64 | .n64 | .i16x2 | .n16x2 | .i8x4 | .n8x4 => true
  | _ => false

/-- TY 0-7 and 12, "int+b32" (11 R276). -/
def ETy.intB (t : ETy) : Bool := t.int || t == .b32

/-- TY 8, 9, 10, 11, 13 and 14, "all" of 11 R283. -/
def ETy.flt : ETy → Bool
  | .f32 | .f64 | .f16x2 | .bf16x2 | .f16 | .bf16 => true
  | _ => false

/-- The types that occupy a register pair (09 Table 9.4). -/
def ETy.pair : ETy → Bool
  | .i64 | .n64 | .f64 => true
  | _ => false

def STy.w64 : STy → Bool
  | .i64 | .n64 => true
  | _ => false

/-- Width of a scalar type (10 R259). -/
def STy.width (t : STy) : Nat := if t.w64 then 64 else 32

/-! ### Field checks -/

/-- K = 0 with KN = 1 is not a predicate (09 R219). -/
def Pred.ok (p : Pred) : Bool := !(p.k == 0 && p.kn)

def evenReg (r : VReg) : Bool := !r.getLsbD 0

/-- A vector register holding an operand of type `t`: even when the type occupies a pair (09 R218). -/
def regFor (t : ETy) (r : VReg) : Bool := !t.pair || evenReg r

/-- A last source of type `t` in register or scalar form (11 Table 11.1). -/
def VSrc.ok (t : ETy) : VSrc → Bool
  | .reg r => regFor t r
  | .imm _ => true
  | .sc _ => true

def VSrc.noImm : VSrc → Bool
  | .imm _ => false
  | _ => true

/-- Branch offsets are multiples of 8 (10 R248). -/
def off8 (o : W32) : Bool := o.extractLsb' 0 3 == 0

/-- SC must be 0 when ORDQ is 00 (03 R86). -/
def ordSc (o : Ord) (s : Scope) : Bool := o != .plain || s == .grp

def AMode.scratch : AMode → Bool
  | .scr | .scrs _ | .scrv _ => true
  | _ => false

/-- Qualifiers of a load or store: plain in the scratch modes (12 R305), a load never releases, a store never acquires
(03 R86). -/
def MemQ.loadOk (q : MemQ) : Bool := (q.ord == .plain || q.ord == .acq) && ordSc q.ord q.sc

def MemQ.storeOk (q : MemQ) : Bool := (q.ord == .plain || q.ord == .rel) && ordSc q.ord q.sc

def MemQ.zero (q : MemQ) : Bool := q.ord == .plain && q.sc == .grp && q.cp == .ca

def MemQ.scratchOk (q : MemQ) (m : AMode) : Bool := !m.scratch || q.zero

/-- Modes 000, 001, 100, 101 (12 Table 12.4). -/
def AMode.scalarMem : AMode → Bool
  | .c _ | .cs _ _ | .scr | .scrs _ => true
  | _ => false

/-- Modes 000 and 001. -/
def AMode.capOnly : AMode → Bool
  | .c _ | .cs _ _ => true
  | _ => false

/-- Modes 000-011; a 64-bit index is an even pair (12 Table 12.2). -/
def AMode.vecMem : AMode → Bool
  | .c _ | .cs _ _ | .cv _ _ => true
  | .cp _ b => evenReg b
  | _ => false

/-- Modes 100-110. -/
def AMode.vecScr : AMode → Bool
  | .scr | .scrs _ | .scrv _ => true
  | _ => false

/-- Access sizes against TY (12 Table 12.3). -/
def Size.okS (s : Size) (t : STy) : Bool :=
  match s with
  | .word => t.w64
  | _ => true

def Size.okV (s : Size) (t : ETy) : Bool :=
  match s with
  | .full => true
  | .byte | .half => t.wide
  | .word => t == .i64 || t == .n64

/-- TY of a read-modify-write (12 Table 12.5). -/
def Rmw.tyOk (op : Rmw) (t : ETy) : Bool :=
  match op with
  | .fadd => t == .f32
  | .pmax | .pmaxs | .sup => t == .i64 || t == .n64
  | _ => t.wide

/-- FN 0-9, the operations of AMO and VAMO. -/
def Rmw.amo : Rmw → Bool
  | .pmax | .pmaxs | .sup => false
  | _ => true

/-- FN 0-10, the operations of BUPD. -/
def Rmw.bupd : Rmw → Bool
  | .pmaxs | .sup => false
  | _ => true

/-- Reductions and their types (11 Table 11.6). -/
def Red.tyOk (op : Red) (t : ETy) : Bool :=
  match op with
  | .add | .min | .max => t.int
  | .and | .or | .xor => t.intB
  | .fadd | .fmin | .fmax => t.flt

/-- Positions of a bit field of width `w` (10 R262). -/
def bfOk (w : Nat) (pos len : Byte) : Bool :=
  decide (pos.toNat < w) && decide (0 < len.toNat) && decide (pos.toNat + len.toNat ≤ w)

def ETy.elemBits : ETy → Nat
  | .i64 | .n64 | .f64 => 64
  | .i16x2 | .n16x2 | .f16x2 | .bf16x2 | .f16 | .bf16 => 16
  | .i8x4 | .n8x4 => 8
  | _ => 32

/-- Size in bits of a float element format that VFCVT accepts, 0 for every other code (05 Table 5.5, 11 R292). -/
def cvtBits (code : Byte) : Nat :=
  match code.toNat with
  | 0x01 => 64
  | 0x02 => 32
  | 0x03 => 16
  | 0x04 => 16
  | 0x10 => 4
  | n =>
    if 0x20 ≤ n && n < 0x40 && n % 8 != 0 then 8 else 0

/-- VFCVT's number of elements per lane and of parts (11 R292). -/
def cvtElems (ws wd : Nat) : Nat := if 32 ≤ max ws wd then 1 else 32 / max ws wd

def cvtParts (ws wd : Nat) : Nat := max 1 (32 / (cvtElems ws wd * min ws wd))

def cvtOk (dst src : Byte) (part : BitVec 3) (d a : VReg) : Bool :=
  let ws := cvtBits src
  let wd := cvtBits dst
  ws != 0 && wd != 0 && decide (part.toNat < cvtParts ws wd) &&
    (ws != 64 || evenReg a) && (wd != 64 || evenReg d)

def Sr.narrow : Sr → Bool
  | .grpid | .core | .die | .pkg | .cause | .emask => true
  | _ => false

/-- The forms of RDSR (13 Table 13.6). -/
def rdsrOk (f : RdDst) (r : Sr) : Bool :=
  match f with
  | .s _ => r != .laneid && r != .fut
  | .v _ => r == .laneid || r.narrow
  | .c _ => r == .fut

/-- PLANE's source types (14 R357). -/
def ETy.planeOk : ETy → Bool
  | .i64 | .n64 | .f64 | .b32 => false
  | _ => true

/-- TY 8, 9, 13 and 14. -/
def ETy.fcmpOk : ETy → Bool
  | .f32 | .f64 | .f16 | .bf16 => true
  | _ => false

/-- "all but f64". -/
def ETy.fltN64 (t : ETy) : Bool := t.flt && t != .f64

/-! ### Well-formed instructions -/

def wfV2 (set : ETy → Bool) (p : Pred) (ty : ETy) (d a : VReg) : Bool :=
  p.ok && set ty && regFor ty d && regFor ty a

def wfV3 (set : ETy → Bool) (p : Pred) (ty : ETy) (d a : VReg) (y : VSrc) : Bool :=
  wfV2 set p ty d a && y.ok ty

def wfF3 (p : Pred) (ty : ETy) (d a : VReg) (y : VSrc) : Bool :=
  wfV3 ETy.flt p ty d a y && y.noImm

/-- The field rules of every instruction that has an encoding. -/
def Instr.wf : Instr → Bool
  | .nop => true
  | .br off => off8 off
  | .brc (.any p) off => p.ok && off8 off
  | .brc (.all p) off => p.ok && off8 off
  | .brc (.nz _) off => off8 off
  | .brc (.z _) off => off8 off
  | .brd p t rc => p.ok && off8 t && off8 rc
  | .reconv => true
  | .call _ off => off8 off
  | .ret _ => true
  | .jmpi _ => true
  | .loop _ off => off8 off && decide (24 ≤ off.toInt)
  | .yield => true
  | .sadd _ _ _ _ | .ssub _ _ _ _ | .smul _ _ _ _ | .smulh _ _ _ _ | .sdiv _ _ _ _ | .srem _ _ _ _ => true
  | .sand _ _ _ _ | .sor _ _ _ _ | .sxor _ _ _ _ | .sshl _ _ _ _ | .sshr _ _ _ _ | .ssra _ _ _ _ => true
  | .smin _ _ _ _ | .smax _ _ _ _ | .scmp _ _ _ _ _ => true
  | .ssel ty _ _ _ _ => ty.w64
  | .smov _ _ _ => true
  | .sli ty _ _ => ty.w64
  | .saddi _ _ _ _ => true
  | .sbfe ty _ _ pos len => bfOk ty.width pos len
  | .sbfi ty _ _ pos len => bfOk ty.width pos len
  | .spopc _ _ _ | .sclz _ _ _ => true
  | .cbnd _ _ _ _ | .cinc _ _ _ | .cinci _ _ _ | .cperm _ _ _ | .cget _ _ _ | .ctest _ _ _ _ | .csub _ _ _ => true
  | .kbool d _ _ _ => d != 0
  | .kget _ _ => true
  | .kset d _ => d != 0
  | .kcnt _ _ => true
  | .kfind _ _ _ => true
  | .kshf _ d _ _ => d != 0
  | .kquad _ d _ => d != 0
  | .vadd p ty _ d a y => wfV3 ETy.int p ty d a y
  | .vsub p ty _ d a y => wfV3 ETy.int p ty d a y
  | .vmul p ty _ d a y => wfV3 ETy.int p ty d a y
  | .vmulh p ty d a y => wfV3 ETy.int p ty d a y
  | .vmad p ty _ d a y c => wfV3 ETy.int p ty d a y && y.noImm && regFor ty c
  | .vand p ty d a y => wfV3 ETy.intB p ty d a y
  | .vor p ty d a y => wfV3 ETy.intB p ty d a y
  | .vxor p ty d a y => wfV3 ETy.intB p ty d a y
  | .vnot p ty d a => wfV2 ETy.intB p ty d a
  | .vshl p ty d a y => wfV3 ETy.intB p ty d a y
  | .vshr p ty d a y => wfV3 ETy.intB p ty d a y
  | .vsra p ty d a y => wfV3 ETy.int p ty d a y
  | .vmin p ty d a y => wfV3 ETy.int p ty d a y
  | .vmax p ty d a y => wfV3 ETy.int p ty d a y
  | .vabs p ty _ d a => wfV2 (fun t => t == .i32 || t == .i64 || t == .i16x2 || t == .i8x4) p ty d a
  | .vcmp p _ ty d a y => p.ok && ty.wide && d != 0 && regFor ty a && y.ok ty
  | .vsel p ty d a y _ => wfV3 ETy.intB p ty d a y && y.noImm
  | .vmov p ty d y => p.ok && ty.intB && regFor ty d && y.ok ty
  | .vli p ty d _ => p.ok && ty.intB && regFor ty d
  | .vpopc p ty d a => wfV2 ETy.intB p ty d a
  | .vclz p ty d a => wfV2 ETy.intB p ty d a
  | .vbrev p ty d a => wfV2 ETy.intB p ty d a
  | .vbfe p ty d a pos len => wfV2 ETy.wide p ty d a && bfOk ty.elemBits pos len
  | .vbfi p ty d a pos len => wfV2 ETy.wide p ty d a && bfOk ty.elemBits pos len
  | .vdp4 p su ty _ _ _ y _ => p.ok && (ty == .i8x4 || (ty == .n8x4 && !su)) && y.noImm
  | .vfadd p ty _ d a y => wfF3 p ty d a y
  | .vfsub p ty _ d a y => wfF3 p ty d a y
  | .vfmul p ty _ d a y => wfF3 p ty d a y
  | .vfma p ty _ d a y c => wfF3 p ty d a y && regFor ty c
  | .vfmin p ty d a y => wfF3 p ty d a y
  | .vfmax p ty d a y => wfF3 p ty d a y
  | .vfcmp p _ ty d a y => p.ok && ty.fcmpOk && d != 0 && regFor ty a && y.ok ty && y.noImm
  | .vfrcp p ty _ d a => wfV2 ETy.flt p ty d a
  | .vfrsq p ty _ d a => wfV2 ETy.flt p ty d a
  | .vfsqrt p ty _ d a => wfV2 ETy.flt p ty d a
  | .vfdiv p ty _ d a y => wfF3 p ty d a y
  | .vfexp2 p ty _ d a => wfV2 ETy.fltN64 p ty d a
  | .vflog2 p ty _ d a => wfV2 ETy.fltN64 p ty d a
  | .vfsin p ty _ d a => wfV2 ETy.fltN64 p ty d a
  | .vfcos p ty _ d a => wfV2 ETy.fltN64 p ty d a
  | .vftanh p ty _ d a => wfV2 ETy.fltN64 p ty d a
  | .vfcvt p dst src part _ d a => p.ok && cvtOk dst src part d a
  | .vftoi p _ ty _ d a => wfV2 ETy.flt p ty d a
  | .vitof p bf ty _ d a =>
    wfV2 (fun t => if bf then t == .i16x2 || t == .n16x2 else t.wide || t == .i16x2 || t == .n16x2) p ty d a
  | .vfrnd p ty _ d a => wfV2 ETy.flt p ty d a
  | .vfclass p ty _ a => p.ok && ty.flt && regFor ty a
  | .vfscale p ty _ d a y => wfV2 ETy.flt p ty d a && y.noImm
  | .vfdot2 p ty _ _ _ y _ => p.ok && (ty == .f16x2 || ty == .bf16x2) && y.noImm
  | .vshuf p ty d a _ => p.ok && regFor ty d && regFor ty a
  | .vrot p q ty d a n => p.ok && regFor ty d && regFor ty a && (!q || decide (n.toNat < 8))
  | .vbcast (.lane p d _) ty a => p.ok && regFor ty d && regFor ty a
  | .vbcast (.first p d) ty a => p.ok && regFor ty d && regFor ty a
  | .vbcast (.ts _ _) ty a => regFor ty a
  | .vred p op ty _ a => p.ok && op.tyOk ty && regFor ty a
  | .vscan p op _ ty d a => p.ok && op.tyOk ty && regFor ty d && regFor ty a
  | .vvote p (.mk d) ty a => p.ok && d != 0 && regFor ty a
  | .vvote p (.cnt _) ty a => p.ok && regFor ty a
  | .vvote p (.lo _) ty a => p.ok && regFor ty a
  | .vvote p (.hi _) ty a => p.ok && regFor ty a
  | .vvote p (.eq _) ty a => p.ok && regFor ty a
  | .vcompact p ty d a => p.ok && regFor ty d && regFor ty a
  | .vmatch p ty _ a => p.ok && regFor ty a
  | .elect p (.k d) => p.ok && d != 0
  | .elect p (.s _) => p.ok
  | .ld sz ty q _ m _ => m.scalarMem && sz.okS ty && q.loadOk && q.scratchOk m
  | .st sz ty q _ m _ => m.scalarMem && sz.okS ty && q.storeOk && q.scratchOk m
  | .vld p sz ty q d m _ => p.ok && m.vecMem && sz.okV ty && q.loadOk && regFor ty d
  | .vst p sz ty q d m _ => p.ok && m.vecMem && sz.okV ty && q.storeOk && regFor ty d
  | .vldc p sz ty q d m _ => p.ok && m.capOnly && sz.okV ty && q.loadOk && regFor ty d
  | .vstc p sz ty q d m _ => p.ok && m.capOnly && sz.okV ty && q.storeOk && regFor ty d
  | .cld q _ m _ => m.scalarMem && q.loadOk && q.scratchOk m
  | .cst q _ m _ => m.scalarMem && q.storeOk && q.scratchOk m
  | .vlds p sz ty d m _ => p.ok && m.vecScr && sz.okV ty && regFor ty d
  | .vsts p sz ty d m _ => p.ok && m.vecScr && sz.okV ty && regFor ty d
  | .pref _ m _ => m.capOnly
  | .l2pf _ _ _ _ _ => true
  | .amo op ty q _ m _ _ => op.amo && op.tyOk ty && m.capOnly && ordSc q.ord q.sc
  | .acas ty q _ m _ _ => ty.wide && m.capOnly && ordSc q.ord q.sc
  | .vamo p op ty q d m _ c => p.ok && op.amo && op.tyOk ty && m.vecMem && ordSc q.ord q.sc && regFor ty d && regFor ty c
  | .vacas p ty q d m _ c => p.ok && ty.wide && m.vecMem && ordSc q.ord q.sc && regFor ty d && regFor ty c
  | .bop op ty q _ m _ _ => op.tyOk ty && m.capOnly && ordSc q.ord q.sc
  | .bcas ty q _ m _ _ => ty.wide && m.capOnly && ordSc q.ord q.sc
  | .vbop p op ty q d m _ c => p.ok && op.tyOk ty && m.vecMem && ordSc q.ord q.sc && regFor ty d && regFor ty c
  | .bupd op ty _ _ _ _ _ => op.bupd && op.tyOk ty
  | .acinit _ _ _ _ | .adec _ _ _ _ | .ainc _ _ _ | .areadx _ _ | .areada _ _ | .acret _ _ => true
  | .fence _ _ _ => true
  | .waitc _ _ ord sc _ m _ _ => (ord == .plain || ord == .acq) && ordSc ord sc && m.capOnly
  | .poll _ ord sc _ m _ => (ord == .plain || ord == .acq) && ordSc ord sc && m.capOnly
  | .bari _ _ _ | .bara _ _ _ | .barw _ _ _ _ | .baraw _ _ _ => true
  | .spawn m _ => m == .scr || (match m with | .scrs _ => true | _ => false)
  | .spawnl m _ => m == .scr || (match m with | .scrs _ => true | _ => false)
  | .fnew _ _ | .ffill _ _ _ | .join _ _ _ | .joint _ _ | .exit _ => true
  | .regrp (.range b c) _ _ => decide (b.toNat ≤ c.toNat)
  | .regrp .flush _ _ => true
  | .qpop _ _ _ _ | .qapp _ _ _ | .lhint | .waitpred _ => true
  | .plane _ p ty _ _ _ _ _ => p.ok && ty.planeOk
  | .mfmt _ _ => true
  | .mma p _ _ _ => p.ok
  | .mzero p _ => p.ok
  | .cpy .. | .cpyt .. | .stage .. | .drain .. | .twait .. | .tread .. | .dpost .. | .xsend .. | .xwait .. | .xstat .. => true
  | .rdsr f r => rdsrOk f r
  | .wrsr _ _ => true
  | .trap _ | .brk _ | .phint .. | .invv .. | .cflush .. | .udf => true
  | .clauseHeader _ seta setb _ _ =>
    !(seta == 12 || seta == 13 || seta == 14) && !(setb == 12 || setb == 13 || setb == 14)
  | _ => true

end Sys2Proof
end

