-- ==== Sys2Proof/Machine/Counted.lean ====
section
/-! DEFINITION. Counted operations (09 R224-R227): their class and flag, how one is opened, how its parts return, and
what its completion writes. -/

namespace Sys2Proof.Machine

/-- The class of a counted instruction: false for A, true for B (09 Table 9.6). -/
def countedClass : Instr → Option Bool
  | .ld .. | .st .. | .vld .. | .vst .. | .vldc .. | .vstc .. | .cld .. | .cst .. | .vlds .. | .vsts .. => some false
  | .poll .. | .pref .. | .amo .. | .acas .. | .vamo .. | .vacas .. | .bop .. | .bcas .. | .vbop .. => some false
  | .acinit .. | .adec .. | .ainc .. | .areadx .. | .areada .. | .acret .. => some false
  | .plane .. | .mfmt .. | .mma .. | .mzero .. => some true
  | .vfrcp .. | .vfrsq .. | .vfsqrt .. | .vfdiv .. | .vfexp2 .. | .vflog2 .. | .vfsin .. | .vfcos .. | .vftanh .. => some true
  | _ => none

/-- The flag that a path's clause names for a class; 15 names none (09 R224). -/
def Path.flagOf (p : Path) (cls : Bool) : Option Nat :=
  let f := if cls then p.setb else p.seta
  if f = 15 then none else some f.toNat

def OpRec.charged (o : OpRec) (b : Bool) : Bool := if b then o.chB else o.chA

/-- The count of flag `i` on a path: the operations charged to it under that flag (09 R224, 07 R176). -/
def State.flagCount (s : State) (gid : Nat) (b : Bool) (i : Nat) : Nat :=
  (s.ops.filter fun o => o.2.gid == gid && o.2.charged b && o.2.flag == some i).length

/-- The registers that an operation will write with what its accesses return, not yet known: scalar, vector and capability
numbers (09 R226). -/
def Fin.regs : Fin → List Nat × List Nat × List Nat
  | .scalar _ d => ([d.toNat], [], [])
  | .poll _ d _ => ([d.toNat], [], [])
  | .status d pair => (if pair then [d.toNat, d.toNat + 1] else [d.toNat], [], [])
  | .vector ty _ d => ([], if ty.pair then [d.toNat, d.toNat + 1] else [d.toNat], [])
  | .cap d => ([], [], [d.toNat])
  | .none => ([], [], [])

/-- The vector registers that an operation has yet to write (14 R367). -/
def OpRec.pendingV (o : OpRec) : List Nat :=
  o.fin.regs.2.1 ++ o.writes.filterMap fun w => match w with | .v r _ _ => some r.toNat | _ => none

/-- Whether a register write is of a register in one of three lists: scalar, vector and capability numbers. -/
def RegWrite.within (w : RegWrite) (src : List Nat × List Nat × List Nat) : Bool :=
  match w with
  | .s r _ => src.1.contains r.toNat
  | .v r _ _ => src.2.1.contains r.toNat
  | .c r _ => src.2.2.contains r.toNat
  | .k _ _ => false

/-- A register write without an undo entry. -/
def Group.put (g : Group) : RegWrite → Group
  | .s r v => g.setS r v
  | .v r m x => g.setV r m x
  | .k r v => g.setK r v
  | .c r v => g.setC r v

/-- The parked operation of a path at its instruction, whose replay continues it (09 R227). -/
def State.parkedOp (s : State) (gid : Nat) (b : Bool) : Option Nat :=
  Store.findKey? s.ops fun o => o.gid == gid && o.b == b && o.parked && o.ia == ((s.grp gid).path b).pc

/-- Opens a counted operation of the issuing path, or continues the one that parked; `f` adds what is issued now. -/
def State.openOp (s : State) (cls : Bool) (f : OpRec → OpRec) : State × Nat :=
  match s.parkedOp s.cur.gid s.cur.b with
  | some id =>
    ({ s with ops := s.ops.map fun (o : Nat × OpRec) => if o.1 = id then (id, f { o.2 with parked := false }) else o }, id)
  | none =>
    let o : OpRec :=
      { gid := s.cur.gid, b := s.cur.b, core := s.c, chA := !s.cur.b, chB := s.cur.b, flag := s.p.flagOf cls, ia := s.p.pc }
    ({ s with ops := Store.put s.ops s.fresh (f o), fresh := s.fresh + 1 }, s.fresh)

/-- Changes an operation that stands. -/
def State.modOp (s : State) (id : Nat) (f : OpRec → OpRec) : State :=
  { s with ops := s.ops.map fun (o : Nat × OpRec) => if o.1 = id then (id, f o.2) else o }

/-- An operation with nothing outstanding, and no replay to come, is on its way to complete; an acquire is performed
now (03 R89). -/
def State.opDone (s : State) (id : Nat) : State :=
  match Store.find s.ops id with
  | some o =>
    if o.out = 0 ∧ !o.parked then
      let t := match o.acq with
        | some sc => (s.acquireFor o.gid sc).modOp id fun o => { o with acq := none }
        | none => s
      if o.after.isEmpty then t.send (.countedComplete id) else t
    else s
  | none => s

/-- A request of an operation returned its bytes. -/
def State.partGot (s : State) (id lane part : Nat) (bytes : List Byte) (tag : Bool) : State :=
  s.modOp id fun o => { o with got := o.got ++ [⟨lane, part, bytes, tag⟩] }

/-- A request of an operation has been performed. -/
def State.partAck (s : State) (id : Nat) : State := (s.modOp id fun o => { o with out := o.out - 1 }).opDone id

/-- Both. -/
def State.partDone (s : State) (id lane part : Nat) (bytes : List Byte) (tag : Bool) : State :=
  (s.partGot id lane part bytes tag).partAck id

/-- An instruction whose replay has no lanes left counts as performed (16 R393): its parked operation is over with the lanes that
were performed. -/
def State.performedNone (s : State) (bytes : Nat) : State :=
  (match s.parkedOp s.cur.gid s.cur.b with
    | some id => (s.modOp id fun o => { o with parked := false }).opDone id
    | none => s).retire bytes

/-! ### Results -/

/-- The bytes that a lane's parts returned, in the order of the parts. -/
def OpRec.laneBytes (o : OpRec) (lane : Nat) : List Byte :=
  (List.range 4).flatMap fun k => (o.got.filter fun g => g.lane == lane && g.part == k).flatMap (·.bytes)

def OpRec.laneTag (o : OpRec) (lane : Nat) : Bool := o.got.any fun g => g.lane == lane && g.tag

/-- Loaded bytes extended to the element width: with the sign for i32 and i64, with zeros for every other type (12 R306). -/
def loadElem (ty : ETy) (bs : List Byte) : Nat :=
  let w := if ty.pair then 64 else 32
  if ty = .i32 ∨ ty = .i64 then ((BitVec.ofNat (8 * bs.length) (natOf bs)).signExtend w).toNat else natOf bs % 2 ^ w

/-- A scalar result under 12 R306 and 10 R259. -/
def loadScalar (ty : STy) (bs : List Byte) : W64 :=
  if stySigned ty then sext64 (8 * bs.length) (natOf bs) else BitVec.ofNat 64 (natOf bs)

/-- The writes of a vector result of a type: one register, or a pair (11 R273). -/
def vecWrites (pair : Bool) (d : VReg) (m : Mask) (f : Nat → Nat) : List RegWrite :=
  if m = 0 then []
  else .v d m (mkLanes fun l => BitVec.ofNat 32 (f l)) ::
    (if pair then [.v (d + 1) m (mkLanes fun l => BitVec.ofNat 32 (f l / 2 ^ 32))] else [])

/-- What the completion of an operation writes. -/
def OpRec.results (o : OpRec) : List RegWrite :=
  o.writes ++
  match o.fin with
  | .none => []
  | .scalar ty d => [.s d (loadScalar ty (o.laneBytes 0))]
  | .vector ty one d => vecWrites ty.pair d o.lanes fun l => loadElem ty (o.laneBytes (if one then 0 else l))
  | .cap d => [.c d ⟨BitVec.ofNat 128 (natOf (o.laneBytes 0)), o.laneTag 0⟩]
  | .poll ty d _ => [.s d (loadScalar ty (o.laneBytes 0))]
  | .status d pair =>
    .s d (BitVec.ofNat 64 (natOf ((o.laneBytes 0).take 8))) ::
      (if pair then [.s (d + 1) (BitVec.ofNat 64 (natOf ((o.laneBytes 0).drop 8)))] else [])

/-- The path that waited for an operation moves on: past the instruction that the operation held it at, and for a POLL
into its delay (12 R323). -/
def OpRec.wakes (o : OpRec) (p : Path) : Path :=
  let p := { if o.hold ≠ 0 then p.past o.hold else p with wait := .none }
  match o.fin with
  | .poll ty _ va =>
    let q := p.polled va (loadScalar ty (o.laneBytes 0))
    { q with wait := if q.pdelay = 0 then .none else .delay }
  | .none => p
  | .scalar _ _ => p
  | .vector _ _ _ => p
  | .cap _ => p
  | .status _ _ => p

/-- The end of an operation for the path that waits for it; a saved group, whose registers in the save area have taken the results,
is readied (04 R126, 16 R400). -/
def State.wakeFor (s : State) (id : Nat) (o : OpRec) : State :=
  let g := s.grp o.gid
  let b := g.pb.wait == .op id
  if (g.path b).wait = .op id then
    let t := (s.modPath o.gid b o.wakes).readySaved o.gid
    if ((t.grp o.gid).path b).wait = .delay then t.send (.pollDelayEnd ⟨g.core, g.slot, b⟩) else t
  else s

/-- A group writes its results. -/
def State.writeResults (s : State) (gid : Nat) (ia : VA) (ws : List RegWrite) : State :=
  ws.foldl (fun t w => t.modGrp gid fun g => g.apply ia w) s

/-- The lanes of an operation that have been performed. -/
def OpRec.kept (o : OpRec) : Mask := if o.once && o.bad.isSome then 0 else o.lanes &&& ~~~o.badMask

/-- A page fault of an operation whose path waits for its other lanes (01 R32, 16 R395): it parks at the instruction. -/
def State.lateFault (s : State) (id : Nat) (o : OpRec) (c : Cause) : State :=
  let b := (s.grp o.gid).pb.wait == .op id
  let t := s.modOp id fun o => { o with parked := true, lanes := o.kept, bad := none, badMask := 0, hold := 0 }
  { ({ t with cur := ⟨o.gid, b⟩ } : State).pageFault c.code o.badKind o.badAcc c.faddr.toNat o.badMask with cur := s.cur }

/-- A trap of an operation whose path waits for its other lanes: those that were performed write their results (16 R390). -/
def State.lateTrap (s : State) (id : Nat) (o : OpRec) (c : Cause) : State :=
  let b := (s.grp o.gid).pb.wait == .op id
  let t := { s with ops := Store.del s.ops id }
  let t := if o.kept = 0 then t else t.writeResults o.gid o.ia { o with lanes := o.kept }.results
  (t.modPath o.gid b fun p => { p with wait := .none }).trapOn o.gid b c.code c.faddr o.badMask

/-- Operations that waited for one that has completed (09 R226). -/
def State.followers (s : State) (id : Nat) : State :=
  let t := { s with ops := s.ops.map fun (o : Nat × OpRec) => (o.1, { o.2 with after := o.2.after.filter (· != id) }) }
  t.sendAll ((s.ops.filter fun o => o.2.after == [id] && o.2.out == 0 && !o.2.parked).map fun o => .countedComplete o.1)

/-- The completion of an operation: its registers, its flags, its path; the counts it held are gone (09 R224). One of whose
lanes met a cause takes it now. -/
def State.completeOp (s : State) (id : Nat) : State :=
  match Store.find s.ops id with
  | none => s
  | some o =>
    if o.out ≠ 0 ∨ o.parked ∨ !o.after.isEmpty then s
    else match o.bad with
      | some c =>
        let pager := (c.code == Code.pageNotPresent || c.code == Code.pagePerm) && (s.die (dieOf o.core)).pgbase != 0
        (if pager then s.lateFault id o c else s.lateTrap id o c).sweep
      | none =>
        let s1 := { s with ops := Store.del s.ops id }.followers id
        let s2 := s1.writeResults o.gid o.ia o.results
        let s3 := if o.quiet then s2.modGrp o.gid fun g => g.raise o.flags.toNat else s2.raiseLater o.gid o.b o.flags.toNat
        (s3.wakeFor id o).sweep

/-- Opens an operation whose results are known at issue, and sends its completion (09 Table 9.6, class B). -/
def State.countNow (s : State) (cls : Bool) (ws : List RegWrite) (fl bytes : Nat) : State :=
  let (t, id) := s.openOp cls fun o => { o with writes := o.writes ++ ws, flags := BitVec.ofNat 64 fl }
  (t.opDone id).retire bytes

end Sys2Proof.Machine
end

