-- ==== Sys2Proof/Machine/Operands.lean ====
section
/-! DEFINITION. Vector operands and results: elements, pairs, the forms of the last source, and lane-wise writes
(11 R272-R274). A lane's operand is a number of 32 bits, or of 64 for a pair. -/

namespace Sys2Proof.Machine

/-- The number of elements in a lane (08 R197). -/
def elemCount : ETy → Nat
  | .i16x2 | .n16x2 | .f16x2 | .bf16x2 => 2
  | .i8x4 | .n8x4 => 4
  | .i32 | .n32 | .i64 | .n64 | .f32 | .f64 | .b32 | .f16 | .bf16 => 1

/-- The signed integer types. -/
def etySigned : ETy → Bool
  | .i32 | .i64 | .i16x2 | .i8x4 => true
  | .n32 | .n64 | .n16x2 | .n8x4 | .f32 | .f64 | .f16x2 | .bf16x2 | .b32 | .f16 | .bf16 => false

/-- The width of a lane's operand in bits. -/
def laneBits (ty : ETy) : Nat := if ty.pair then 64 else 32

/-- A lane of a vector register, or of a pair with bits [31:0] in the first (11 R273). -/
def Group.laneOf (g : Group) (pair : Bool) (r : VReg) (l : Nat) : Nat :=
  ((g.vreg r).at l).toNat + (if pair then ((g.vreg (r + 1)).at l).toNat * 2 ^ 32 else 0)

/-- Element `i` of a lane. -/
def elemAt (ty : ETy) (x i : Nat) : Nat := bitsAt x (ty.elemBits * i) ty.elemBits

/-- A lane from its elements; the rest of it is 0. -/
def packElems (ty : ETy) (f : Nat → Nat) : Nat :=
  (List.range (elemCount ty)).foldl (fun a i => a + f i % 2 ^ ty.elemBits * 2 ^ (ty.elemBits * i)) 0

/-- C extended to the element width and placed in every element (11 Table 11.1). -/
def immLane (ty : ETy) (v : Byte) : Nat :=
  packElems ty fun _ => (if etySigned ty then v.signExtend 64 else v.zeroExtend 64).toNat % 2 ^ ty.elemBits

/-- The last source of a lane, in the form that MOD chooses (11 R274). -/
def Group.srcLane (g : Group) (ty : ETy) (y : VSrc) (l : Nat) : Nat :=
  match y with
  | .reg r => g.laneOf ty.pair r l
  | .imm v => immLane ty v
  | .sc r => (g.sreg r).toNat % 2 ^ (laneBits ty)

/-- Writes of several registers by the issuing path. -/
def State.wrs (s : State) (ws : List RegWrite) : State := ws.foldl (fun t w => t.wr w) s

/-- A lane-wise result into the selected lanes of a register or pair. -/
def State.putV (s : State) (pair : Bool) (d : VReg) (m : Mask) (f : Nat → Nat) : State := s.wrs (vecWrites pair d m f)

/-- A mask result: all 32 bits, and nothing when no lane is selected (11 R278, 09 R219). -/
def State.putK (s : State) (d : KReg) (m : Mask) (f : Nat → Bool) : State :=
  if m = 0 then s else s.wk d (maskOf fun l => m.getLsbD l && f l)

/-- A lane-wise instruction: each selected lane gets `f` of its number (11 R272). -/
def State.lanewise (s : State) (p : Pred) (ty : ETy) (d : VReg) (f : Nat → Nat) (bytes : Nat) : State :=
  (s.putV ty.pair d (s.sel p) f).retire bytes

/-- An element-wise instruction of one source. -/
def State.elem1 (s : State) (f : Nat → Nat) (p : Pred) (ty : ETy) (d a : VReg) : State :=
  s.lanewise p ty d (fun l => packElems ty fun i => f (elemAt ty (s.g.laneOf ty.pair a l) i)) 8

/-- An element-wise instruction of two sources. -/
def State.elem2 (s : State) (f : Nat → Nat → Nat) (p : Pred) (ty : ETy) (d a : VReg) (y : VSrc) : State :=
  s.lanewise p ty d (fun l => packElems ty fun i =>
    f (elemAt ty (s.g.laneOf ty.pair a l) i) (elemAt ty (s.g.srcLane ty y l) i)) 8

/-- An element-wise instruction of three sources. -/
def State.elem3 (s : State) (f : Nat → Nat → Nat → Nat) (p : Pred) (ty : ETy) (d a : VReg) (y : VSrc) (c : VReg) : State :=
  s.lanewise p ty d (fun l => packElems ty fun i =>
    f (elemAt ty (s.g.laneOf ty.pair a l) i) (elemAt ty (s.g.srcLane ty y l) i) (elemAt ty (s.g.laneOf ty.pair c l) i)) 8

end Sys2Proof.Machine
end

