-- ==== Sys2Proof/Machine/Access.lean ====
section
/-! DEFINITION. A memory access from its address to its performing point: address modes, checks, translation, the stalls
that program order asks for, and where each part goes (01 R14, R30-R33; 02 R50, R63-R65, R70, R80, R81; 03 R89, R97;
12 R303-R315; 16 R390). -/

namespace Sys2Proof.Machine

/-! ### Read-modify-write (02 R71-R73, 12 Table 12.5) -/

/-- The key of a packed score word (02 R72). -/
def scoreKey (x : Nat) : Nat :=
  let s := bitsAt x 32 32
  if isNan (decodeBase fp32 s) then 0
  else
    let s := if s = 0x80000000 then 0 else s
    (if s.testBit 31 then 0xFFFFFFFF - s else s + 0x80000000) + 1

/-- The winner of two packed score words (02 R72). -/
def scoreWin (old x : Nat) : Nat :=
  if scoreKey old < scoreKey x then x
  else if scoreKey old = scoreKey x ∧ bitsAt x 0 32 < bitsAt old 0 32 then x else old

/-- The new value of a read-modify-write of width `w`; `sup` says that the candidate is suppressed (02 Table 2.6). -/
def rmwNew (op : Rmw) (w old x : Nat) (sup : Bool) : Nat :=
  let sg (v : Nat) : Int := (BitVec.ofNat w v).toInt
  match op with
  | .add => (old + x) % 2 ^ w
  | .smin => if sg old ≤ sg x then old else x
  | .smax => if sg old ≤ sg x then x else old
  | .umin => min old x
  | .umax => max old x
  | .and => Nat.land old x
  | .or => Nat.lor old x
  | .xor => Nat.xor old x
  | .swap => x
  | .fadd => (cvt fp32 .rne false (addF .rne (decodeBase fp32 old) (decodeBase fp32 x)).1).1
  | .pmax => scoreWin old x
  | .pmaxs => if sup then old else scoreWin old x
  | .sup => Nat.lor old (2 ^ (x % 64))

/-- Whether a candidate is suppressed by the block of the row after its target (02 R73, 12 R316). -/
def State.suppressed (s : State) (pa x : Nat) : Bool :=
  let i := bitsAt x 0 32
  decide (i < 2048) && (s.readByte (pa / 256 * 256 + 0x10000 + i / 8)).getLsbD (i % 8)

/-! ### Performing at the home -/

/-- What a performed request leaves: the state, the bytes and tag that it returns, the acknowledgements to come. -/
structure Done where
  st    : State
  bytes : List Byte
  tag   : Bool
  acks  : Nat

/-- The undo log of a debugged group records the bytes that a write replaces (16 R405). -/
def State.logBytes (s : State) (op pa : Nat) (old : List Byte) : State :=
  match Store.find s.ops op with
  | some o => if (s.grp o.gid).debug then s.modGrp o.gid fun g => g.log ⟨true, pa, old.length, o.lanes, o.ia, old⟩ else s
  | none => s

def State.logMem (s : State) (op pa n : Nat) : State := s.logBytes op pa (s.read pa n)

/-! ### Barrier objects (12 R324, R325) -/

/-- Fields of a barrier object (12 Table 12.8). -/
structure Bar where
  count : Nat
  phase : Nat
  exp   : Nat
  wcnt  : Nat
  deriving DecidableEq, Repr

def State.bar (s : State) (pa : Nat) : Bar :=
  let n := s.readNat pa 16
  ⟨bitsAt n 0 32, bitsAt n 32 32, bitsAt n 64 32, bitsAt n 96 16⟩

/-- An arrival: the state after it and the phase it counts in. -/
def State.arrive (s : State) (pa : Nat) : State × Nat :=
  let b := s.bar pa
  if b.exp ≤ (b.count + 1) % 2 ^ 32 then
    ((s.homeWrite pa (bytesOf 4 0 ++ bytesOf 4 (b.phase + 1))).gongChain pa (pa + 14) (pa + 12), b.phase)
  else (s.homeWrite pa (bytesOf 4 (b.count + 1)), b.phase)

/-- A request performed at the home of its bytes. -/
def State.performHome (s : State) (r : Req) (sid : Nat) (own : Option (Nat × Nat × Nat)) : Done :=
  match r.act with
  | .load => ⟨s, s.read r.pa r.len, false, 0⟩
  | .poll => ⟨s, s.read r.pa r.len, false, 0⟩
  | .loadCap lc => ⟨s, s.read r.pa 16, lc && PageInfo.canTag r.page && s.tagAt r.pa, 0⟩
  | .store bs =>
    let t := (s.logMem r.op r.pa r.len).homeWriteAck r.pa bs false sid own
    ⟨t.1, [], false, t.2⟩
  | .storeCap v tag =>
    let t := (s.logMem r.op r.pa 16).homeWriteAck r.pa (bytesOf 16 v.toNat) tag sid own
    ⟨t.1, [], false, t.2⟩
  | .rmw op w x =>
    let old := s.readNat r.pa (w / 8)
    let t := (s.logMem r.op r.pa (w / 8)).homeWriteAck r.pa
      (bytesOf (w / 8) (rmwNew op w old (x.toNat % 2 ^ w) (s.suppressed r.pa x.toNat))) false sid own
    ⟨t.1, bytesOf (w / 8) old, false, t.2⟩
  | .cas w exp new =>
    let old := s.readNat r.pa (w / 8)
    if old = exp.toNat % 2 ^ w then
      let t := (s.logMem r.op r.pa (w / 8)).homeWriteAck r.pa (bytesOf (w / 8) (new.toNat % 2 ^ w)) false sid own
      ⟨t.1, bytesOf (w / 8) old, false, t.2⟩
    else ⟨s, bytesOf (w / 8) old, false, 0⟩
  | .arrive => let t := s.arrive r.pa; ⟨t.1, bytesOf 8 t.2, false, 0⟩

/-- Whether a request writes; a compare-and-swap counts as one that does. -/
def actWrites : Act → Bool
  | .load => false
  | .poll => false
  | .loadCap _ => false
  | .store _ => true
  | .storeCap _ _ => true
  | .rmw _ _ _ => true
  | .cas _ _ _ => true
  | .arrive => true

/-- A read-modify-write or compare-and-swap. -/
def actRmw : Act → Bool
  | .rmw _ _ _ => true
  | .cas _ _ _ => true
  | .arrive => true
  | .load => false
  | .poll => false
  | .loadCap _ => false
  | .store _ => false
  | .storeCap _ _ => false

/-- A request performed in a line of the issuing core's L1: a load of any line, and everything in a leased line
(02 R49, R65). -/
def Line.perform (l : Line) (r : Req) : Line × List Byte × Bool :=
  let off := r.va % 128
  match r.act with
  | .load => (l, lineBytes l.data off r.len, false)
  | .poll => (l, lineBytes l.data off r.len, false)
  | .loadCap lc => (l, lineBytes l.data off 16, lc && PageInfo.canTag r.page && l.tags.getLsbD (off / 16))
  | .store bs => (l.leased off bs 0, [], false)
  | .storeCap v tag => (l.leased off (bytesOf 16 v.toNat) (tagBit r.pa tag), [], false)
  | .rmw op w x =>
    let old := natOf (lineBytes l.data off (w / 8))
    (l.leased off (bytesOf (w / 8) (rmwNew op w old (x.toNat % 2 ^ w) false)) 0, bytesOf (w / 8) old, false)
  | .cas w exp new =>
    let old := natOf (lineBytes l.data off (w / 8))
    (if old = exp.toNat % 2 ^ w then l.leased off (bytesOf (w / 8) (new.toNat % 2 ^ w)) 0 else l, bytesOf (w / 8) old, false)
  | .arrive => (l, [], false)

/-- The group of a request's operation. -/
def State.gidOf (s : State) (r : Req) : Nat := match Store.find s.ops r.op with | some o => o.gid | none => 0

/-- A request performed in the L1 line that holds it. -/
def State.performLine (s : State) (l : Line) (r : Req) : State :=
  let (l', bs, tag) := l.perform r
  let s := if actWrites r.act then s.logBytes r.op r.pa (lineBytes l.data (r.va % 128) r.len)
    else s.observe (s.gidOf r) r.core r.pa r.len true
  (s.modCore r.core fun c => c.setLine l').partDone r.op r.lane r.part bs tag

/-! ### Where a request goes (02 R50, R63-R65, R70, R80, R81) -/

/-- Whether a load may take its bytes from an L1 copy (02 R49, R50). -/
def cachedLoad (r : Req) : Bool := r.page.pol == .ca && r.page.ord != 1 && r.act != .poll

/-- A load of HBM: the L1 at .ca, else the serving slice. A miss allocates a frame, where the set has one, and waits for the
fill; a fill of another translation of the line, or one that is to be dropped, serves no later load. -/
def State.sendLoad (s : State) (r : Req) : State :=
  match (s.core r.core).line r.asid r.va with
  | some l =>
    if l.pending then
      if cachedLoad r && !l.stale && l.pa == lineOf r.pa then s.modCore r.core fun c => c.setLine { l with loads := l.loads ++ [r] }
      else s.send (.sliceLoad r)
    else if (l.lease && r.act != .poll) || cachedLoad r then s.performLine l r
    else s.send (.sliceLoad r)
  | none =>
    if !cachedLoad r then s.send (.sliceLoad r)
    else
      let (t, room) := s.makeFrame r.core r.va
      if room then
        (t.modCore r.core fun c => { c with lines := c.lines ++ [Line.awaiting r.asid r.va r.pa [r]] }).send
          (.fillreq r.core r.asid (lineOf r.va) (lineOf r.pa))
      else t.send (.sliceLoad r)

/-- A store written early into an L1 copy (02 R63): its operation counts it as complete, and its group has seen it (03 Table 3.2,
12 R310). -/
def State.storeEarly (s : State) (l : Line) (r : Req) : State :=
  let l' := match r.act with
    | .store bs => l.early (r.va % 128) bs 0
    | .storeCap v tag => l.early (r.va % 128) (bytesOf 16 v.toNat) (tagBit r.pa tag)
    | .load => l
    | .loadCap _ => l
    | .rmw _ _ _ => l
    | .cas _ _ _ => l
    | .poll => l
    | .arrive => l
  let r := { r with early := true }
  let t := (s.modCore r.core fun c => c.setLine l').send (.sliceStore r)
  (t.addSeen (t.gidOf r) [⟨reqSid r, r.pa, r.len, true, r.page.ord == 2⟩]).partAck r.op

/-- A store to HBM: in the leased line, or early in the L1 copy and then at the serving slice (02 R63, R65). -/
def State.sendStore (s : State) (r : Req) : State :=
  match (s.core r.core).line r.asid r.va with
  | some l =>
    if l.pending then s.send (.sliceStore r)
    else if l.lease then s.performLine l r
    else if r.page.pol = .ca ∧ r.page.ord ≠ 1 ∧ r.rel = none then s.storeEarly l r
    else s.send (.sliceStore r)
  | none => s.send (.sliceStore r)

/-- Whether an atomic to HBM is performed under a lease (02 R64). -/
def State.leasable (s : State) (r : Req) : Bool :=
  r.page.ord != 1 && r.page.pol == .ca && homeDie r.pa == dieOf r.core && decide (0 < (s.core r.core).cacheBanks)

/-- An atomic waits for the lease of its line: with an earlier one whose request stands, or with a request of its own. -/
def State.askLease (s : State) (r : Req) : State :=
  let same (w : LWait) : Bool := w.asid == r.asid && w.va == lineOf r.va && w.pa == lineOf r.pa && !w.stale
  if (s.core r.core).lwaits.any same then
    s.modCore r.core fun c => { c with lwaits := c.lwaits.map fun w => if same w then { w with reqs := w.reqs ++ [r] } else w }
  else
    (s.modCore r.core fun c => { c with lwaits := c.lwaits ++ [⟨r.asid, lineOf r.va, lineOf r.pa, [r], false⟩] }).send
      (.lreq r.core r.asid (lineOf r.va) (lineOf r.pa))

/-- An atomic to HBM: in the leased line, with a request for the lease, or at the home slice (02 R64). -/
def State.sendAtomic (s : State) (r : Req) : State :=
  if !s.leasable r then s.send (.homeAtomic r)
  else match (s.core r.core).line r.asid r.va with
    | some l => if l.lease then s.performLine l r else s.askLease r
    | none => s.askLease r

/-- Sends a request to its performing point. -/
def State.route (s : State) (r : Req) : State :=
  -- a core without an L1 performs a .ca access as .sl (02 R49)
  let r := if r.page.pol = .ca ∧ (s.core r.core).cacheBanks = 0 then { r with page := { r.page with pol := .sl } } else r
  match r.page.mt with
  | 0 => if actRmw r.act then s.sendAtomic r else if actWrites r.act then s.sendStore r else s.sendLoad r
  | 1 => if actRmw r.act then s.send (.bankAluOp r) else s.send (.bankAccess r)
  | 2 => if actRmw r.act then s.send (.homeAtomic r) else if actWrites r.act then s.send (.sliceStore r) else s.send (.sliceLoad r)
  | 3 => s.send (.remoteAccess r)
  | _ => s.send (.mmioAccess r)

/-! ### Addresses (12 R304) -/

/-- The signed offset of a memory operand. -/
def offNat : Off → Nat
  | .short v => (v.signExtend 64).toNat
  | .long v => (v.signExtend 64).toNat

def optOff : Option W32 → Nat
  | some v => (v.signExtend 64).toNat
  | none => 0

/-- The address, or scratch offset, of lane `l` modulo 2^64. -/
def Group.addrOf (g : Group) (m : AMode) (off l : Nat) : Nat :=
  (match m with
    | .c a => (g.creg a).cursor
    | .cs a b => (g.creg a).cursor + (g.sreg b).toNat
    | .cv a b => (g.creg a).cursor + (((g.vreg b).at l).signExtend 64).toNat
    | .cp a b => (g.creg a).cursor + g.laneOf true b l
    | .scr => 0
    | .scrs b => (g.sreg b).toNat
    | .scrv b => ((g.vreg b).at l).toNat) % 2 ^ 64 + off

/-- The capability of a memory operand. -/
def Group.capOf (g : Group) : AMode → Cap
  | .c a => g.creg a
  | .cs a _ => g.creg a
  | .cv a _ => g.creg a
  | .cp a _ => g.creg a
  | .scr => Cap.null
  | .scrs _ => Cap.null
  | .scrv _ => Cap.null

/-! ### One access per lane -/

/-- A lane's access before its checks. -/
structure LaneAcc where
  lane : Nat
  va   : Nat
  len  : Nat
  act  : Act

/-- What an instruction asks of the pages it reaches. -/
inductive Target where
  | any
  | amo
  | bank (pmaxs : Bool)
  | word
  | cst (tag : Bool)
  | counter
  | barrier (remote : Bool)
  | object (here : Bool)
  deriving DecidableEq, Repr

/-- A memory instruction: its capability, the kind of access, the cause it meets whatever the address, its lanes, the
lanes it stands for (all of them for one that acts once), and its qualifiers. -/
structure MemOp where
  cap    : Cap
  acc    : Acc
  align  : Bool
  extra  : Option Nat
  target : Target
  lanes  : List LaneAcc
  mask   : Mask
  once   : Bool
  cp     : Policy
  ord    : Ord
  sc     : Scope
  fin    : Fin
  waits  : Bool := false

/-- Whether an ordering acquires, or releases. -/
def ordAcq (o : Ord) : Bool := o == .acq || o == .ar
def ordRel (o : Ord) : Bool := o == .rel || o == .ar

/-- The lowest cause of a lane's checks before translation (16 R390, stage 2). -/
def MemOp.laneCause (m : MemOp) (x : LaneAcc) : Option Nat :=
  lowCause (lowCause (m.cap.check m.acc x.va x.len) m.extra)
    (if m.align && x.va % x.len != 0 then some Code.align else none)

/-- The fault of a translated part that its page or location gives this instruction (01 R17, R20; 12 R314, R316,
R321). -/
def MemOp.partFault (s : State) (m : MemOp) (t : Trans) (n : Nat) : Option TFault :=
  let cmem := mtOf (localOf t.pa) == some 1
  let page := match m.target with
    | .any => none
    | .cst _ => none
    | .amo => if t.page.mt = 4 then some TFault.perm else none
    | .word => if t.page.mt = 4 then some TFault.perm else none
    | .counter => if t.page.mt ≤ 1 ∧ t.page.ord ≠ 2 then none else some TFault.perm
    | .barrier remote =>
      if t.page.mt == 1 || (remote && t.page.mt == 3 && cmem) then none else some TFault.perm
    | .object here => if t.page.mt = 1 ∧ (!here ∨ homeDie t.pa = dieOf s.c) then none else some TFault.perm
    | .bank ps =>
      if !(t.page.mt == 1 || (t.page.mt == 3 && cmem)) then some TFault.perm
      else if ps && bitsAt (localOf t.pa) 16 10 == 1023 then some ⟨Code.align, 0⟩ else none
  match page with
  | some f => some f
  | none =>
    if m.target == .cst true && !(PageInfo.canTag t.page) then some ⟨Code.capNoTagMem, 0⟩
    else if m.acc != .store && m.acc != .cst && s.poisoned t.pa n then some ⟨Code.ecc, 0⟩ else none

/-- A failed lane: its cause, the KIND of a fault record, its address. -/
structure LaneFail where
  lane : Nat
  code : Nat
  kind : Nat
  addr : Nat
  deriving DecidableEq, Repr

/-- The outcome of the checks of every lane. -/
structure Checked where
  st     : State
  passed : List (LaneAcc × List (Nat × Nat × Trans))
  failed : List LaneFail

/-- Checks and translates one lane (16 R390, stages 2 to 4). -/
def MemOp.checkLane (m : MemOp) (k : Checked) (x : LaneAcc) : Checked :=
  match m.laneCause x with
  | some c => { k with failed := k.failed ++ [⟨x.lane, c, 0, x.va⟩] }
  | none =>
    match k.st.translateParts (dieOf k.st.c) k.st.g.asid m.acc (pageParts x.va x.len) with
    | (s, .error (f, a)) => { k with st := s, failed := k.failed ++ [⟨x.lane, f.code, f.kind, a⟩] }
    | (s, .ok ps) =>
      match ps.findSome? fun p => (m.partFault s p.2.2 p.2.1).map fun f => (f, p.1) with
      | some (f, a) => { k with st := s, failed := k.failed ++ [⟨x.lane, f.code, f.kind, a⟩] }
      | none => { k with st := s, passed := k.passed ++ [(x, ps)] }

def MemOp.check (s : State) (m : MemOp) : Checked := m.lanes.foldl m.checkLane ⟨s, [], []⟩

/-- The failure that is taken: the lowest code, at its lowest address (16 R390, Table 16.1). -/
def worstOf (l : List LaneFail) : Option LaneFail :=
  l.foldl (fun b f => match b with
    | none => some f
    | some x => if f.code < x.code ∨ (f.code = x.code ∧ f.addr < x.addr) then some f else b) none

/-! ### Requests -/

/-- Cuts a page part at 128-byte lines: (virtual, physical, length). -/
def cutParts (ps : List (Nat × Nat × Trans)) : List (Nat × Nat × Nat × PageInfo) :=
  ps.flatMap fun p =>
    let k := 128 - p.1 % 128
    if p.2.1 ≤ k then [(p.1, p.2.2.pa, p.2.1, p.2.2.page)]
    else [(p.1, p.2.2.pa, k, p.2.2.page), (p.1 + k, p.2.2.pa + k, p.2.1 - k, p.2.2.page)]

/-- Bytes that a store of a lower lane leaves out: physical ranges that higher lanes write, and virtual ranges that higher lanes
have yet to write (03 R93). -/
structure Above where
  pas : List (Nat × Nat)
  vas : List (Nat × Nat)

def Above.holds (h : Above) (va pa : Nat) : Bool :=
  (h.pas.any fun e => decide (e.1 ≤ pa) && decide (pa < e.1 + e.2)) || h.vas.any fun e => decide (e.1 ≤ va) && decide (va < e.1 + e.2)

/-- The parts of a lane as requests; bytes of a store that a higher lane also writes are left out (03 R93). -/
def MemOp.laneReqs (m : MemOp) (core asid : Nat) (higher : Above) (x : LaneAcc) (ps : List (Nat × Nat × Trans)) : List Req :=
  let cut := (cutParts ps).flatMap fun c =>
    match x.act with
    | .store bs =>
      (keptRuns (fun i => !higher.holds (c.1 + i) (c.2.1 + i)) c.2.2.1).map fun k =>
        (c.1 + k.1, c.2.1 + k.1, k.2, c.2.2.2, Act.store ((bs.drop (c.1 + k.1 - x.va)).take k.2))
    | a => [(c.1, c.2.1, c.2.2.1, c.2.2.2, a)]
  cut.zipIdx.map fun e =>
    let (c, i) := e
    { op := 0, lane := x.lane, part := i, core := core, asid := asid, va := c.1, pa := c.2.1, len := c.2.2.1
      page := { c.2.2.2.1 with pol := if m.target = .word then .sl else effPolicy c.2.2.2.1 m.cp }
      act := c.2.2.2.2
      rel := if ordRel m.ord then some m.sc else none
      acq := if ordAcq m.ord then some m.sc else none
      early := false }

/-- Every request of the passed lanes. `done` is what lanes of the same instruction have stored before a fault, and `later` are
the lanes that a page fault leaves to be replayed. -/
def MemOp.reqs (m : MemOp) (core asid : Nat) (done : List Wrote) (later : List LaneAcc) :
    List (LaneAcc × List (Nat × Nat × Trans)) → List Req
  | [] => []
  | (x, ps) :: rest =>
    let higher : Above :=
      ⟨(rest.flatMap fun r => r.2.map fun p => (p.2.2.pa, p.2.1)) ++ (done.filter fun w => decide (x.lane < w.lane)).map fun w => (w.pa, w.len),
        (later.filter fun y => decide (x.lane < y.lane)).map fun y => (y.va, y.len)⟩
    m.laneReqs core asid higher x ps ++ MemOp.reqs m core asid done later rest

/-- What the passed lanes of a store write, for the lanes that are replayed after them (03 R93). -/
def wroteBy (passed : List (LaneAcc × List (Nat × Nat × Trans))) : List Wrote :=
  passed.flatMap fun e => match e.1.act with
    | .store _ => e.2.map fun p => ⟨e.1.lane, p.2.2.pa, p.2.1⟩
    | _ => []

/-! ### Stalls of program order (03 R89, R97, R104, R107) -/

/-- Whether a load takes its bytes from the L1 copy of its core now. -/
def State.l1Hit (s : State) (r : Req) : Bool :=
  !actWrites r.act && cachedLoad r && match (s.core r.core).line r.asid r.va with | some l => !l.pending | none => false

/-- Whether an MT 3 access of a die to the line of a request is on its way (06 R170). -/
def State.remoteQueued (s : State) (r : Req) : Bool :=
  s.agenda.any fun i => match i with | .remoteAccess q => dieOf q.core == dieOf r.core && q.pa / 128 == r.pa / 128 | _ => false

/-- Whether an access must wait for earlier ones: one of its path to a common byte, a store to a common byte that its group has
seen and that is not yet performed (but for a load that sees it in the L1), an acquire not yet performed, an SO access before an
SO access, or own bytes on their way to a line that is to be leased. -/
def State.orderStall (s : State) (rs : List Req) : Bool :=
  let self := s.parkedOp s.cur.gid s.cur.b
  let mine := s.ops.filter fun o => o.2.gid == s.cur.gid && o.2.charged s.cur.b && some o.1 != self
  (mine.any fun o => o.2.out != 0 && o.2.spans.any fun p => rs.any fun r => p.1 < r.pa + r.len && r.pa < p.1 + p.2.1) ||
    (s.g.seen.any fun e => rs.any fun r =>
      decide (e.pa < r.pa + r.len) && decide (r.pa < e.pa + e.len) && !(e.l1 && s.l1Hit r) && s.outstanding e.sid) ||
    (rs.any (fun r => r.page.ord != 2) && mine.any fun o => o.2.acq.isSome) ||
    (rs.any (fun r => r.page.ord == 1) && mine.any fun o => o.2.so) ||
    rs.any fun r => r.page.mt == 0 && actRmw r.act && s.leasable r &&
      match (s.core r.core).line r.asid r.va with
      | some l => l.own.any (· != 0)
      | none => false

/-! ### Issue -/

/-- The counted operation that carries the requests. -/
def MemOp.fill (m : MemOp) (rs : List Req) (lanes : Mask) (hold : Nat) (o : OpRec) : OpRec :=
  { o with
    fin := m.fin
    out := o.out + rs.length
    lanes := o.lanes ||| lanes
    spans := o.spans ++ rs.map fun r => (r.pa, r.len, actWrites r.act)
    acq := if ordAcq m.ord then some m.sc else o.acq
    so := o.so || rs.any fun r => r.page.ord == 1
    uo := (o.spans.isEmpty || o.uo) && rs.all fun r => r.page.ord == 2
    once := m.once
    reads := o.reads || m.acc != .store && m.acc != .cst
    stores := o.stores || rs.any fun r => actWrites r.act
    hold := hold }

/-- Stores, atomics and what follows from them end a task's restartability when they issue (16 R401). -/
def State.voids (s : State) : State := s.modG fun g => { g with restart := false }

/-- The lanes that are not done: those that failed or were left, or everything for an instruction that acts once
(16 R391). -/
def MemOp.unfinished (m : MemOp) (passed : List (LaneAcc × List (Nat × Nat × Trans))) : Mask :=
  if m.once then m.mask else m.mask &&& ~~~(maskOf fun l => passed.any fun p => p.1.lane == l)

/-- Whether a cause goes to the pager of the issuing die (16 R395, R396). -/
def State.toPager (s : State) (code : Nat) : Bool :=
  (code == Code.pageNotPresent || code == Code.pagePerm) && (s.die (dieOf s.c)).pgbase != 0

/-- The failure of an instruction that is not counted. -/
def State.failPlain (s : State) (m : MemOp) (f : LaneFail) (un : Mask) : State :=
  if s.toPager f.code then s.pageFault f.code f.kind (accCode m.acc) f.addr un
  else s.trap f.code (BitVec.ofNat 64 f.addr) un

/-- DF for every leaf that the passed lanes are about to write through; false if one has changed (01 R28). -/
def MemOp.setDirty (m : MemOp) (s : State) (passed : List (LaneAcc × List (Nat × Nat × Trans))) : State × Bool :=
  if accWrites m.acc then s.setDirtyParts (dieOf s.c) s.g.asid (passed.flatMap fun e => e.2.map fun p => (p.1, p.2.1)) else (s, true)

/-- An instruction that acts once, at one object performed in this step: its checks and stalls, then `act` at the
object's physical address and page. `rel` is the scope of a release that it includes. -/
def State.atObject (s : State) (m : MemOp) (act : State → Nat → PageInfo → State) : State :=
  let k := m.check s
  match worstOf k.failed with
  | some f => k.st.failPlain m f m.mask
  | none =>
    let rs := m.reqs k.st.c k.st.g.asid [] [] k.passed
    let (t, ready) := if ordRel m.ord then k.st.releaseAt s.cur.gid s.cur.b m.sc false else (k.st, true)
    if !ready || t.orderStall rs || rs.any t.remoteQueued then t
    else
      let (u, same) := m.setDirty t k.passed
      if !same then u
      else match rs with
        | r :: _ => act u r.pa r.page
        | [] => u

/-- The operation of an instruction on the object at `c`'s cursor, of `n` aligned bytes, with LD, ST and AT. -/
def objectOp (c : Cap) (n : Nat) (mask : Mask) (target : Target) (ord : Ord) (sc : Scope) : MemOp :=
  { cap := c, acc := .atomic, align := true, extra := none, target := target, lanes := [⟨0, c.cursor, n, .load⟩]
    mask := mask, once := true, cp := .sl, ord := ord, sc := sc, fin := .none }

/-- Sends the requests of a counted operation and moves the path on; with a lane failed, the failure is taken: at once, or once
the lanes on their way to another package have returned. -/
def State.launchMem (s : State) (m : MemOp) (rs : List Req) (wrote : List Wrote) (un : Mask) (worst : Option LaneFail) (bytes : Nat) : State :=
  let pager := match worst with | some f => s.toPager f.code | none => false
  let remote := rs.any fun r => r.page.mt == 3
  let (u, id) := if rs.isEmpty && !pager then (s, 0) else s.openOp false (m.fill rs (m.mask &&& ~~~un) (if remote then bytes else 0))
  let u := match worst with
    | none => u
    | some f =>
      let t := if wrote.isEmpty then u else u.modP fun p => { p with wrote := p.wrote ++ wrote }
      if remote then t.modOp id fun o => { o with
        bad := some ⟨f.code, BitVec.ofNat 64 f.addr⟩, badMask := un, badKind := f.kind, badAcc := accCode m.acc }
      else if pager || (s.parkedOp s.cur.gid s.cur.b).isSome then t.modOp id fun o => { o with parked := true }
      else t
  let v := rs.foldl (fun v r => v.route { r with op := id }) u
  if remote then v.park (.op id)
  else match worst with
    | some f =>
      if pager then v.pageFault f.code f.kind (accCode m.acc) f.addr un
      else v.trap f.code (BitVec.ofNat 64 f.addr) un
    | none => if m.waits then (v.retire bytes).park (.op id) else v.retire bytes

/-- The issue of a counted memory instruction of `bytes` bytes: lanes that pass are performed or on their way, lanes that
fail fault or trap (01 R32, 16 R390). -/
def State.issueMem (s : State) (m : MemOp) (bytes : Nat) : State :=
  if m.lanes.isEmpty then s.retire bytes
  else
    let k := m.check s
    let worst := worstOf k.failed
    let later := match worst with
      | some f => if k.st.toPager f.code then m.lanes.filter fun x => k.failed.any fun y => y.lane == x.lane else []
      | none => []
    let rs := m.reqs k.st.c k.st.g.asid k.st.p.wrote later k.passed
    let (t, ready) := if ordRel m.ord then k.st.releaseAt s.cur.gid s.cur.b m.sc false else (k.st, true)
    if !ready || t.orderStall rs then t
    else
      let (u, same) := m.setDirty t k.passed
      if !same then u
      else u.launchMem m rs (wroteBy k.passed) (if worst.isNone then 0 else m.unfinished k.passed) worst bytes

end Sys2Proof.Machine
end

