-- ==== Sys2Proof/Machine/Allowance.lean ====
section
/-! DEFINITION. The allowance instructions and the core's side of the protocol (04 R111-R122, 12 R318, R319). -/

namespace Sys2Proof.Machine

/-! ### Allowance entries (04 R114) -/

def Core.allowAt (c : Core) (asid va : Nat) : Option AEntry := c.allow.find? fun e => e.asid == asid && e.va == va

/-- The sum of a core's entries of a record, under every alias. -/
def Core.allowSum (c : Core) (pa : Nat) : Nat := (c.allow.filter (·.pa == pa)).foldl (fun a e => a + e.amount.toNat) 0

def Core.dropAllow (c : Core) (pa : Nat) : Core := { c with allow := c.allow.filter (·.pa != pa) }

/-- Installs an entry in a frame of the L1 and merges the other aliases of its record into it; a 65th entry pushes the oldest out,
whose amount goes home, and an amount for which the L1 has no frame goes home at once (04 R114). -/
def State.installAllow (s : State) (core asid va pa amount : Nat) : State :=
  let c := s.core core
  let rest := c.allow.filter (·.pa != pa)
  let sum := BitVec.ofNat 64 (amount + c.allowSum pa)
  let t := match rest with
    | old :: r => if rest.length < 64 then s.setCore core { c with allow := rest } else (s.setCore core { c with allow := r }).send (.aret core old.pa old.amount)
    | [] => s.setCore core { c with allow := [] }
  let (u, room) := t.makeFrame core va
  if room then u.modCore core fun c => { c with allow := c.allow ++ [⟨asid, va, pa, sum⟩] } else u.send (.aret core pa sum)

/-! ### ADEC (04 R115, R117) -/

/-- The status that completes an allowance operation, with a value. -/
def State.ctrDone (s : State) (id status value : Nat) : State := s.partDone id 0 0 (bytesOf 8 status ++ bytesOf 8 value) false

/-- ADEC k on a record by its core: local, or with a request to the home; while the core has one outstanding for the
record, it waits. -/
def State.adec (s : State) (core id k : Nat) (nw : Bool) : State :=
  match Store.find s.ops id with
  | none => s
  | some o =>
    let asid := (s.grp o.gid).asid
    let c := s.core core
    let a := match c.allowAt asid o.ctrVa with | some e => e.amount.toNat | none => 0
    if k = 0 then s.ctrDone id ASt.ok 0
    else if k ≤ a then
      (s.setCore core { c with allow := c.allow.map fun e =>
        if e.asid = asid ∧ e.va = o.ctrVa then { e with amount := e.amount - BitVec.ofNat 64 k } else e }).ctrDone id ASt.ok 0
    else if c.areqs.any (·.1 == o.ctr) then
      s.setCore core { c with await := c.await ++ [(o.ctr, id, BitVec.ofNat 64 k, nw)] }
    else
      (s.setCore core { c with
        allow := c.allow.filter fun e => !(e.asid == asid && e.va == o.ctrVa)
        areqs := c.areqs ++ [(o.ctr, id)] }).send (.areq core o.ctr id (BitVec.ofNat 64 k) (BitVec.ofNat 64 a) nw)

/-- Sends an AOP (04 Table 4.2). -/
def State.askHome (s : State) (core id : Nat) (o : AOp) : State :=
  match Store.find s.ops id with
  | none => s
  | some r =>
    (s.modCore core fun c => { c with areqs := c.areqs ++ [(r.ctr, id)] }).send (.aop core r.ctr id o)

/-- The core returns every entry of a record (04 R122). -/
def State.returnAllow (s : State) (core pa : Nat) : State :=
  let c := s.core core
  if (c.allow.any fun e => e.pa == pa) then
    (s.setCore core (c.dropAllow pa)).send (.aret core pa (BitVec.ofNat 64 (c.allowSum pa)))
  else s

/-! ### The instructions (12 R318, R319) -/

/-- The checks of an allowance instruction, then its operation `act` on the record; `rel` and `acq` say that it releases
or acquires at .pkg (03 R102), `home` that it needs the core's one request (04 R115). The path of an operation that `waits`
waits until it is answered (12 R319). -/
def State.issueCtr (s : State) (d : SReg) (pair : Bool) (a : CReg) (k : Nat) (rel acq home waits : Bool)
    (act : State → Nat → State) : State :=
  let m : MemOp :=
    { cap := s.rc a, acc := .atomic, align := true, extra := none, target := .counter
      lanes := [⟨0, (s.rc a).cursor, 64, .load⟩], mask := s.act, once := true, cp := .ca
      ord := if rel then .rel else if acq then .acq else .plain, sc := .pkg, fin := .status d pair }
  let c := m.check s
  match worstOf c.failed with
  | some f => c.st.launchMem m [] [] s.act (some f) 8
  | none =>
    let rs := m.reqs c.st.c c.st.g.asid [] [] c.passed
    let pa := match rs with | r :: _ => r.pa | [] => 0
    let (t, ready) := if rel then c.st.releaseAt s.cur.gid s.cur.b .pkg false else (c.st, true)
    if !ready || t.orderStall rs || (home && (t.core t.c).areqs.any (·.1 == pa)) then t
    else
      let (t, same) := m.setDirty t c.passed
      if !same then t
      else
        let (u, id) := t.openOp false fun o =>
          { m.fill rs s.act 0 o with ctr := pa, ctrVa := (s.rc a).cursor, ctrK := k }
        let v := act u id
        let out := match Store.find v.ops id with | some o => o.out != 0 | none => false
        if waits && out then (v.retire 8).park (.op id) else v.retire 8

def execAcinit (d : SReg) (a : CReg) (b c : SReg) (s : State) : Host.Outcome State Fault Refusal :=
  .next (s.voids.issueCtr d false a 0 true false true false fun t id => t.askHome t.c id (.acinit (s.rs b) (s.rs c)))

def execAdec (nw : Bool) (d : SReg) (a : CReg) (b : SReg) (s : State) : Host.Outcome State Fault Refusal :=
  .next (s.voids.issueCtr d false a (s.rs b).toNat false false false true fun t id => t.adec t.c id (s.rs b).toNat nw)

def execAinc (d : SReg) (a : CReg) (b : SReg) (s : State) : Host.Outcome State Fault Refusal :=
  .next (s.voids.issueCtr d false a 0 true false true false fun t id => t.askHome t.c id (.ainc (s.rs b)))

def execAreadx (d : SReg) (a : CReg) (s : State) : Host.Outcome State Fault Refusal :=
  .next (s.issueCtr d true a 0 false true true false fun t id => t.askHome t.c id .areadx)

def execAreada (d : SReg) (a : CReg) (s : State) : Host.Outcome State Fault Refusal :=
  .next (s.issueCtr d true a 0 false false true false fun t id => t.askHome t.c id .areada)

def execAcret (d : SReg) (a : CReg) (s : State) : Host.Outcome State Fault Refusal :=
  .next (s.voids.issueCtr d false a 0 true false false false fun t id =>
    (t.returnAllow t.c (match Store.find t.ops id with | some o => o.ctr | none => 0)).ctrDone id ASt.ok 0)

end Sys2Proof.Machine
end

