-- ==== Sys2Proof/Machine/MemInstr.lean ====
section
/-! DEFINITION. Loads, stores and prefetches (12 R303-R311). -/

namespace Sys2Proof.Machine

/-- Bytes of an access (12 Table 12.3). -/
def sizeS (sz : Size) (ty : STy) : Nat :=
  match sz with
  | .full => styWidth ty / 8
  | .byte => 1
  | .half => 2
  | .word => 4

def sizeV (sz : Size) (ty : ETy) : Nat :=
  match sz with
  | .full => if ty.pair then 8 else if ty = .f16 ∨ ty = .bf16 then 2 else 4
  | .byte => 1
  | .half => 2
  | .word => 4

/-! ### Scratch (02 R51, 12 R305) -/

/-- One lane's scratch access: lane, offset, length. -/
structure ScrAcc where
  lane : Nat
  off  : Nat
  len  : Nat
  deriving DecidableEq, Repr

/-- The cause of a scratch access: outside the window, or a misaligned granule (12 R305, R309); then, for a load, a granule in
error (01 R20, 16 R390). -/
def State.scrCause (s : State) (align loads : Bool) (x : ScrAcc) : Option Nat :=
  match lowCause (if s.g.scrSize < x.off + x.len then some Code.scrBounds else none)
    (if align && x.off % x.len != 0 then some Code.align else none) with
  | some c => some c
  | none => if loads && s.scrPoisoned s.cur.gid x.off x.len then some Code.ecc else none

/-- The issue of a counted scratch access: the lanes that pass are performed at once, in program order, and the others
trap (02 R51). `act` performs one lane and gives the writes of `wr` over the lanes that pass. -/
def State.issueScr (s : State) (align loads once : Bool) (mask : Mask) (ls : List ScrAcc)
    (act : State → ScrAcc → State) (wr : State → List ScrAcc → List RegWrite) (bytes : Nat) : State :=
  if ls.isEmpty then s.retire bytes
  else
    let bad := ls.filterMap fun x => (s.scrCause align loads x).map fun c => (⟨x.lane, c, 0, x.off⟩ : LaneFail)
    let ok := ls.filter fun x => (s.scrCause align loads x).isNone
    let ws := wr s ok
    let t := ok.foldl act s
    match worstOf bad with
    | none => t.countNow false ws 0 bytes
    | some f =>
      let u := if ok.isEmpty then t else let (u, id) := t.openOp false fun o => { o with writes := o.writes ++ ws }; u.opDone id
      u.trap f.code (BitVec.ofNat 64 f.addr) (if once then mask else maskOf fun l => bad.any fun b => b.lane == l)

/-! ### Scalar loads and stores -/

def execLd (sz : Size) (ty : STy) (q : MemQ) (d : SReg) (m : AMode) (off : Off) (s : State) :
    Host.Outcome State Fault Refusal :=
  let n := sizeS sz ty
  let bytes := match off with | .short _ => 8 | .long _ => 16
  let a := (s.g.addrOf m (offNat off) 0) % 2 ^ 64
  .next (
    if m.scratch then
      s.issueScr false true true s.act [⟨0, a, n⟩] (fun t _ => t)
        (fun t ok => ok.map fun x => .s d (loadScalar ty (t.scrRead t.cur.gid x.off n))) bytes
    else
      s.issueMem
        { cap := s.g.capOf m, acc := .load, align := false, extra := none, target := .any, lanes := [⟨0, a, n, .load⟩]
          mask := s.act, once := true, cp := q.cp, ord := q.ord, sc := q.sc, fin := .scalar ty d } bytes)

def execSt (sz : Size) (ty : STy) (q : MemQ) (d : SReg) (m : AMode) (off : Off) (s : State) :
    Host.Outcome State Fault Refusal :=
  let n := sizeS sz ty
  let bytes := match off with | .short _ => 8 | .long _ => 16
  let a := (s.g.addrOf m (offNat off) 0) % 2 ^ 64
  let v := bytesOf n (s.rs d).toNat
  .next (
    if m.scratch then
      s.issueScr false false true s.act [⟨0, a, n⟩] (fun t x => t.scrStore x.off v) (fun _ _ => []) bytes
    else
      s.voids.issueMem
        { cap := s.g.capOf m, acc := .store, align := false, extra := none, target := .any, lanes := [⟨0, a, n, .store v⟩]
          mask := s.act, once := true, cp := q.cp, ord := q.ord, sc := q.sc, fin := .none } bytes)

/-! ### Vector loads and stores (12 R308) -/

/-- Modes in which every lane has the same address. -/
def sameAddr : AMode → Bool
  | .c _ => true
  | .cs _ _ => true
  | .cv _ _ => false
  | .cp _ _ => false
  | .scr => true
  | .scrs _ => true
  | .scrv _ => false

/-- The bytes of a lane's element that a store of `n` bytes writes. -/
def State.storeBytes (s : State) (ty : ETy) (n : Nat) (d : VReg) (l : Nat) : List Byte := bytesOf n (s.g.laneOf ty.pair d l)

/-- A vector load through a capability: one access per lane, or one for all. -/
def State.vload (s : State) (p : Pred) (ty : ETy) (n : Nat) (q : MemQ) (d : VReg) (m : AMode) (addr : Nat → Nat)
    (one : Bool) (bytes : Nat) : State :=
  let sel := s.sel p
  let ls := if one then (if sel = 0 then [] else [0]) else lanesOf sel
  s.issueMem
    { cap := s.g.capOf m, acc := .load, align := false, extra := none, target := .any
      lanes := ls.map fun l => ⟨l, addr l % 2 ^ 64, n, .load⟩
      mask := sel, once := one, cp := q.cp, ord := q.ord, sc := q.sc, fin := .vector ty one d } bytes

/-- A vector store through a capability: one access per lane, or the highest selected lane's (03 R93). -/
def State.vstore (s : State) (p : Pred) (ty : ETy) (n : Nat) (q : MemQ) (d : VReg) (m : AMode) (addr : Nat → Nat)
    (one : Bool) (bytes : Nat) : State :=
  let sel := s.sel p
  let ls := if one then (lanesOf sel).getLast?.toList else lanesOf sel
  s.voids.issueMem
    { cap := s.g.capOf m, acc := .store, align := false, extra := none, target := .any
      lanes := ls.map fun l => ⟨l, addr l % 2 ^ 64, n, .store (s.storeBytes ty n d l)⟩
      mask := sel, once := one, cp := q.cp, ord := q.ord, sc := q.sc, fin := .none } bytes

def offBytes : Off → Nat
  | .short _ => 8
  | .long _ => 16

def execVld (p : Pred) (sz : Size) (ty : ETy) (q : MemQ) (d : VReg) (m : AMode) (off : Off) (s : State) :
    Host.Outcome State Fault Refusal :=
  .next (s.vload p ty (sizeV sz ty) q d m (s.g.addrOf m (offNat off)) (sameAddr m) (offBytes off))

def execVst (p : Pred) (sz : Size) (ty : ETy) (q : MemQ) (d : VReg) (m : AMode) (off : Off) (s : State) :
    Host.Outcome State Fault Refusal :=
  .next (s.vstore p ty (sizeV sz ty) q d m (s.g.addrOf m (offNat off)) (sameAddr m) (offBytes off))

/-- Lane l takes the mode's address plus l times the size (12 R308). -/
def execVldc (p : Pred) (sz : Size) (ty : ETy) (q : MemQ) (d : VReg) (m : AMode) (off : Off) (s : State) :
    Host.Outcome State Fault Refusal :=
  .next (s.vload p ty (sizeV sz ty) q d m (fun l => s.g.addrOf m (offNat off) 0 + l * sizeV sz ty) false (offBytes off))

def execVstc (p : Pred) (sz : Size) (ty : ETy) (q : MemQ) (d : VReg) (m : AMode) (off : Off) (s : State) :
    Host.Outcome State Fault Refusal :=
  .next (s.vstore p ty (sizeV sz ty) q d m (fun l => s.g.addrOf m (offNat off) 0 + l * sizeV sz ty) false (offBytes off))

/-! ### Capabilities (12 R309) -/

def execCld (q : MemQ) (d : CReg) (m : AMode) (off : Off) (s : State) : Host.Outcome State Fault Refusal :=
  let a := (s.g.addrOf m (offNat off) 0) % 2 ^ 64
  .next (
    if m.scratch then
      s.issueScr true true true s.act [⟨0, a, 16⟩] (fun t _ => t)
        (fun t ok => ok.map fun x =>
          .c d ⟨BitVec.ofNat 128 (natOf (t.scrRead t.cur.gid x.off 16)), t.scrTag t.cur.gid x.off⟩) (offBytes off)
    else
      s.issueMem
        { cap := s.g.capOf m, acc := .load, align := true, extra := none, target := .any
          lanes := [⟨0, a, 16, .loadCap (s.g.capOf m).lc⟩]
          mask := s.act, once := true, cp := q.cp, ord := q.ord, sc := q.sc, fin := .cap d } (offBytes off))

def execCst (q : MemQ) (d : CReg) (m : AMode) (off : Off) (s : State) : Host.Outcome State Fault Refusal :=
  let a := (s.g.addrOf m (offNat off) 0) % 2 ^ 64
  let v := s.rc d
  .next (
    if m.scratch then
      s.issueScr true false true s.act [⟨0, a, 16⟩]
        (fun t x =>
          let u := t.scrStore x.off (bytesOf 16 v.bits.toNat)
          if v.tag then u.scrSetTag u.cur.gid x.off else u)
        (fun _ _ => []) (offBytes off)
    else
      s.voids.issueMem
        { cap := s.g.capOf m, acc := .cst, align := true, extra := (s.g.capOf m).checkCst v, target := .cst v.tag
          lanes := [⟨0, a, 16, .storeCap v.bits v.tag⟩]
          mask := s.act, once := true, cp := q.cp, ord := q.ord, sc := q.sc, fin := .none } (offBytes off))

/-! ### Vector scratch -/

/-- The scratch accesses of the selected lanes (12 R308). -/
def State.scrLanes (s : State) (p : Pred) (n : Nat) (m : AMode) (off : Off) : List ScrAcc :=
  (lanesOf (s.sel p)).map fun l =>
    ⟨l, (if sameAddr m then s.g.addrOf m (offNat off) 0 + l * n else s.g.addrOf m (offNat off) l) % 2 ^ 64, n⟩

def execVlds (p : Pred) (sz : Size) (ty : ETy) (d : VReg) (m : AMode) (off : Off) (s : State) :
    Host.Outcome State Fault Refusal :=
  let n := sizeV sz ty
  .next (s.issueScr false true false (s.sel p) (s.scrLanes p n m off) (fun t _ => t)
    (fun t ok => vecWrites ty.pair d (maskOf fun l => ok.any fun x => x.lane == l) fun l =>
      match ok.find? (·.lane == l) with
      | some x => loadElem ty (t.scrRead t.cur.gid x.off n)
      | none => 0) (offBytes off))

def execVsts (p : Pred) (sz : Size) (ty : ETy) (d : VReg) (m : AMode) (off : Off) (s : State) :
    Host.Outcome State Fault Refusal :=
  let n := sizeV sz ty
  .next (s.issueScr false false false (s.sel p) (s.scrLanes p n m off)
    (fun t x => t.scrStore x.off (s.storeBytes ty n d x.lane)) (fun _ _ => []) (offBytes off))

/-! ### Prefetch (12 R311) -/

/-- A prefetch of one line: a fill of the L1 and the L2 at .ca, or of the L2 alone, where R49 forbids an L1 fill or the set has no
frame. The operation completes when the serving slice accepts it; with nothing to do, at once. -/
def State.prefetch (s : State) (id : Nat) (r : Req) : State :=
  let c := s.core r.core
  if r.page.mt ≠ 0 then s.partAck id
  else if r.page.pol = .ca ∧ (c.line r.asid r.va).isSome then s.partAck id
  else if r.page.pol = .ca ∧ r.page.ord ≠ 1 ∧ 0 < c.cacheBanks then
    let (t, room) := s.makeFrame r.core r.va
    if room then
      (t.modCore r.core fun c => { c with lines := c.lines ++ [Line.awaiting r.asid r.va r.pa [r]] }).send
        (.fillreq r.core r.asid (lineOf r.va) (lineOf r.pa))
    else t.send (.sliceLoad r)
  else s.send (.sliceLoad { r with page := { r.page with pol := if r.page.pol = .ca then .sl else r.page.pol } })

/-- PREF never faults: what would stop a load leaves it without effect. -/
def execPref (cp : Policy) (m : AMode) (off : Off) (s : State) : Host.Outcome State Fault Refusal :=
  let a := (s.g.addrOf m (offNat off) 0) % 2 ^ 64
  let c := s.g.capOf m
  .next (
    if (c.check .load a 1).isSome then s.countNow false [] 0 (offBytes off)
    else match s.look (dieOf s.c) s.g.asid a .load with
      | (_, .error _) => s.countNow false [] 0 (offBytes off)
      | (t, .ok x) =>
        let (u, id) := t.openOp false fun o => { o with out := 1 }
        (u.prefetch id
          { op := id, lane := 0, part := 0, core := u.c, asid := u.g.asid, va := a, pa := x.pa, len := 0
            page := { x.page with pol := effPolicy x.page cp }, act := .load, rel := none, acq := none, early := false }).retire (offBytes off))

end Sys2Proof.Machine
end

