-- ==== Sys2Proof/Machine/Atomics.lean ====
section
/-! DEFINITION. Atomics and bank operations (12 R313-R316). Each is one indivisible access per lane, naturally aligned. -/

namespace Sys2Proof.Machine

/-- The scalar type under which an old value is extended (12 R315). -/
def scalarOf : ETy → STy
  | .i32 => .i32
  | .i64 => .i64
  | .n64 => .n64
  | .n32 | .f64 | .i16x2 | .n16x2 | .i8x4 | .n8x4 | .f32 | .f16x2 | .bf16x2 | .b32 | .f16 | .bf16 => .n32

/-- Length of an instruction whose offset is IMM32 or absent. -/
def optBytes : Option W32 → Nat
  | none => 8
  | some _ => 16

/-- A scalar atomic: the register forms of 12 R315. -/
def State.atomic (s : State) (ty : ETy) (q : MemQ) (d : SReg) (m : AMode) (off : Option W32) (target : Target) (act : Act) :
    State :=
  s.voids.issueMem
    { cap := s.g.capOf m, acc := .atomic, align := true, extra := none, target := target
      lanes := [⟨0, (s.g.addrOf m (optOff off) 0) % 2 ^ 64, laneBits ty / 8, act⟩]
      mask := s.act, once := true, cp := q.cp, ord := q.ord, sc := q.sc, fin := .scalar (scalarOf ty) d } (optBytes off)

/-- A vector atomic: one access per selected lane. -/
def State.vatomic (s : State) (p : Pred) (ty : ETy) (q : MemQ) (d : VReg) (m : AMode) (off : Option W32) (target : Target)
    (act : Nat → Act) : State :=
  s.voids.issueMem
    { cap := s.g.capOf m, acc := .atomic, align := true, extra := none, target := target
      lanes := (lanesOf (s.sel p)).map fun l => ⟨l, (s.g.addrOf m (optOff off) l) % 2 ^ 64, laneBits ty / 8, act l⟩
      mask := s.sel p, once := false, cp := q.cp, ord := q.ord, sc := q.sc, fin := .vector ty false d } (optBytes off)

/-- A lane of a vector operand as 64 bits. -/
def State.lane64 (s : State) (ty : ETy) (r : VReg) (l : Nat) : W64 := BitVec.ofNat 64 (s.g.laneOf ty.pair r l)

def execAmo (op : Rmw) (ty : ETy) (q : MemQ) (d : SReg) (m : AMode) (off : Option W32) (c : SReg) (s : State) :
    Host.Outcome State Fault Refusal :=
  .next (s.atomic ty q d m off .amo (.rmw op (laneBits ty) (s.rs c)))

def execAcas (ty : ETy) (q : MemQ) (d : SReg) (m : AMode) (off : Option W32) (c : SReg) (s : State) :
    Host.Outcome State Fault Refusal :=
  .next (s.atomic ty q d m off .amo (.cas (laneBits ty) (s.rs d) (s.rs c)))

def execVamo (p : Pred) (op : Rmw) (ty : ETy) (q : MemQ) (d : VReg) (m : AMode) (off : Option W32) (c : VReg) (s : State) :
    Host.Outcome State Fault Refusal :=
  .next (s.vatomic p ty q d m off .amo fun l => .rmw op (laneBits ty) (s.lane64 ty c l))

def execVacas (p : Pred) (ty : ETy) (q : MemQ) (d : VReg) (m : AMode) (off : Option W32) (c : VReg) (s : State) :
    Host.Outcome State Fault Refusal :=
  .next (s.vatomic p ty q d m off .amo fun l => .cas (laneBits ty) (s.lane64 ty d l) (s.lane64 ty c l))

/-- Bank operations reach CMEM only (12 Table 12.6). -/
def execBop (op : Rmw) (ty : ETy) (q : MemQ) (d : SReg) (m : AMode) (off : Option W32) (c : SReg) (s : State) :
    Host.Outcome State Fault Refusal :=
  .next (s.atomic ty q d m off (.bank (op == .pmaxs)) (.rmw op (laneBits ty) (s.rs c)))

def execBcas (ty : ETy) (q : MemQ) (d : SReg) (m : AMode) (off : Option W32) (c : SReg) (s : State) :
    Host.Outcome State Fault Refusal :=
  .next (s.atomic ty q d m off (.bank false) (.cas (laneBits ty) (s.rs d) (s.rs c)))

def execVbop (p : Pred) (op : Rmw) (ty : ETy) (q : MemQ) (d : VReg) (m : AMode) (off : Option W32) (c : VReg) (s : State) :
    Host.Outcome State Fault Refusal :=
  .next (s.vatomic p ty q d m off (.bank (op == .pmaxs)) fun l => .rmw op (laneBits ty) (s.lane64 ty c l))

end Sys2Proof.Machine
end

