-- ==== Sys2Proof/Decode.lean ====
section
/-! DEFINITION. Decoding and encoding (09 R215-R231). `toRaw` is the spec's encoding of each instruction as the
fields of 09 Table 9.2; `ofRaw` reads an instruction from the fields its definition uses. A word decodes to `i` only if
`i`'s encoding is that very word, so every field that `i` does not use must be zero (09 R218). -/

namespace Sys2Proof

/-- The length codes 0-2 (09 Table 9.1). -/
inductive Len where | l64 | l96 | l128
  deriving DecidableEq, Repr

/-- The fields of an instruction word (09 Table 9.2); `ext` is bits [127:64], 0 in a 64-bit word. -/
structure Raw where
  len  : Len := .l64
  op   : BitVec 8
  fn   : BitVec 4 := 0
  d    : BitVec 8 := 0
  a    : BitVec 8 := 0
  b    : BitVec 8 := 0
  c    : BitVec 8 := 0
  k    : BitVec 3 := 0
  kn   : Bool := false
  ty   : BitVec 4 := 0
  cp   : BitVec 2 := 0
  sc   : BitVec 3 := 0
  ordq : BitVec 2 := 0
  mod  : BitVec 3 := 0
  ext  : BitVec 64 := 0
  deriving DecidableEq, Repr

def Len.code : Len → BitVec 2
  | .l64 => 0
  | .l96 => 1
  | .l128 => 2

/-- Bytes of code that an instruction of this length occupies (09 Table 9.1). -/
def Len.bytes : Len → Nat
  | .l64 => 8
  | .l96 => 16
  | .l128 => 16

/-- The 128-bit word of the fields; only the low half is code for a 64-bit instruction. -/
def Raw.word (r : Raw) : BitVec 128 :=
  r.ext ++ r.mod ++ r.ordq ++ r.sc ++ r.cp ++ r.ty ++ BitVec.ofBool r.kn ++ r.k ++ r.c ++ r.b ++ r.a ++ r.d ++ r.fn ++ r.op
    ++ r.len.code

/-- The fields of a word whose length code is not 0b11. -/
def Raw.ofWord (w : BitVec 128) : Raw :=
  let l : Len := if w.extractLsb' 0 2 == 0 then .l64 else if w.extractLsb' 0 2 == 1 then .l96 else .l128
  { len := l
    op := w.extractLsb' 2 8
    fn := w.extractLsb' 10 4
    d := w.extractLsb' 14 8
    a := w.extractLsb' 22 8
    b := w.extractLsb' 30 8
    c := w.extractLsb' 38 8
    k := w.extractLsb' 46 3
    kn := w.getLsbD 49
    ty := w.extractLsb' 50 4
    cp := w.extractLsb' 54 2
    sc := w.extractLsb' 56 3
    ordq := w.extractLsb' 59 2
    mod := w.extractLsb' 61 3
    ext := if l == .l64 then 0 else w.extractLsb' 64 64 }

/-! ### Codes of the typed fields -/

/-- TY of a scalar type (09 Table 9.4). -/
def STy.code : STy → BitVec 4
  | .i32 => 0
  | .n32 => 1
  | .i64 => 2
  | .n64 => 3

def STy.ofCode (c : BitVec 4) : Option STy :=
  match c.toNat with
  | 0 => some .i32
  | 1 => some .n32
  | 2 => some .i64
  | 3 => some .n64
  | _ => none

/-- TY (09 Table 9.4). -/
def ETy.code : ETy → BitVec 4
  | .i32 => 0
  | .n32 => 1
  | .i64 => 2
  | .n64 => 3
  | .i16x2 => 4
  | .n16x2 => 5
  | .i8x4 => 6
  | .n8x4 => 7
  | .f32 => 8
  | .f64 => 9
  | .f16x2 => 10
  | .bf16x2 => 11
  | .b32 => 12
  | .f16 => 13
  | .bf16 => 14

def ETy.ofCode (c : BitVec 4) : Option ETy :=
  match c.toNat with
  | 0 => some .i32
  | 1 => some .n32
  | 2 => some .i64
  | 3 => some .n64
  | 4 => some .i16x2
  | 5 => some .n16x2
  | 6 => some .i8x4
  | 7 => some .n8x4
  | 8 => some .f32
  | 9 => some .f64
  | 10 => some .f16x2
  | 11 => some .bf16x2
  | 12 => some .b32
  | 13 => some .f16
  | 14 => some .bf16
  | _ => none

/-- FN of SCMP and VCMP (10 R263). -/
def Cmp.code : Cmp → BitVec 4
  | .eq => 0
  | .ne => 1
  | .lt => 2
  | .le => 3
  | .gt => 4
  | .ge => 5

def Cmp.ofCode (c : BitVec 4) : Option Cmp :=
  match c.toNat with
  | 0 => some .eq
  | 1 => some .ne
  | 2 => some .lt
  | 3 => some .le
  | 4 => some .gt
  | 5 => some .ge
  | _ => none

/-- FN of WAITC (12 R321). -/
def Cmp.waitCode : Cmp → BitVec 4
  | .ne => 0
  | .eq => 1
  | .lt => 2
  | .le => 3
  | .gt => 4
  | .ge => 5

def Cmp.ofWaitCode (c : BitVec 4) : Option Cmp :=
  match c.toNat with
  | 0 => some .ne
  | 1 => some .eq
  | 2 => some .lt
  | 3 => some .le
  | 4 => some .gt
  | 5 => some .ge
  | _ => none

/-- FN of VFCMP (11 R287). -/
def FCmp.code : FCmp → BitVec 4
  | .eq => 0
  | .ne => 1
  | .lt => 2
  | .le => 3
  | .gt => 4
  | .ge => 5
  | .uo => 6
  | .or => 7

def FCmp.ofCode (c : BitVec 4) : Option FCmp :=
  match c.toNat with
  | 0 => some .eq
  | 1 => some .ne
  | 2 => some .lt
  | 3 => some .le
  | 4 => some .gt
  | 5 => some .ge
  | 6 => some .uo
  | 7 => some .or
  | _ => none

/-- SC as a rounding mode (08 Table 8.3). -/
def Rm.code : Rm → BitVec 3
  | .rne => 0
  | .rtz => 1
  | .rdn => 2
  | .rup => 3
  | .rna => 4
  | .dyn => 5

def Rm.ofCode (c : BitVec 3) : Option Rm :=
  match c.toNat with
  | 0 => some .rne
  | 1 => some .rtz
  | 2 => some .rdn
  | 3 => some .rup
  | 4 => some .rna
  | 5 => some .dyn
  | _ => none

/-- CP (09 R221). -/
def Policy.code : Policy → BitVec 2
  | .ca => 0
  | .sl => 1
  | .st => 2

def Policy.ofCode (c : BitVec 2) : Option Policy :=
  match c.toNat with
  | 0 => some .ca
  | 1 => some .sl
  | 2 => some .st
  | _ => none

/-- SC as a scope (03 Table 3.1). -/
def Scope.code : Scope → BitVec 3
  | .grp => 0
  | .core => 1
  | .die => 2
  | .pkg => 3
  | .dom => 4
  | .sys => 5

def Scope.ofCode (c : BitVec 3) : Option Scope :=
  match c.toNat with
  | 0 => some .grp
  | 1 => some .core
  | 2 => some .die
  | 3 => some .pkg
  | 4 => some .dom
  | 5 => some .sys
  | _ => none

/-- ORDQ (09 Table 9.2). -/
def Ord.code : Ord → BitVec 2
  | .plain => 0
  | .acq => 1
  | .rel => 2
  | .ar => 3

def Ord.ofCode (c : BitVec 2) : Option Ord :=
  match c.toNat with
  | 0 => some .plain
  | 1 => some .acq
  | 2 => some .rel
  | 3 => some .ar
  | _ => none

/-- FN of CGET (10 R268). -/
def CField.code : CField → BitVec 4
  | .cursor => 0
  | .base => 1
  | .top => 2
  | .len => 3
  | .perm => 4
  | .tag => 5
  | .e => 6
  | .lo => 7
  | .hi => 8

def CField.ofCode (c : BitVec 4) : Option CField :=
  match c.toNat with
  | 0 => some .cursor
  | 1 => some .base
  | 2 => some .top
  | 3 => some .len
  | 4 => some .perm
  | 5 => some .tag
  | 6 => some .e
  | 7 => some .lo
  | 8 => some .hi
  | _ => none

/-- FN of KSHF (10 Table 10.4). -/
def KShift.code : KShift → BitVec 4
  | .l => 0
  | .r => 1
  | .rot => 2

def KShift.ofCode (c : BitVec 4) : Option KShift :=
  match c.toNat with
  | 0 => some .l
  | 1 => some .r
  | 2 => some .rot
  | _ => none

/-- FN of VRED and VSCAN (11 Table 11.6). -/
def Red.code : Red → BitVec 4
  | .add => 0
  | .min => 1
  | .max => 2
  | .and => 3
  | .or => 4
  | .xor => 5
  | .fadd => 6
  | .fmin => 7
  | .fmax => 8

def Red.ofCode (c : BitVec 4) : Option Red :=
  match c.toNat with
  | 0 => some .add
  | 1 => some .min
  | 2 => some .max
  | 3 => some .and
  | 4 => some .or
  | 5 => some .xor
  | 6 => some .fadd
  | 7 => some .fmin
  | 8 => some .fmax
  | _ => none

/-- FN of a load or store (12 Table 12.3). -/
def Size.code : Size → BitVec 4
  | .full => 0
  | .byte => 1
  | .half => 2
  | .word => 3

def Size.ofCode (c : BitVec 4) : Option Size :=
  match c.toNat with
  | 0 => some .full
  | 1 => some .byte
  | 2 => some .half
  | 3 => some .word
  | _ => none

/-- FN of a read-modify-write (12 Table 12.5). -/
def Rmw.code : Rmw → BitVec 4
  | .add => 0
  | .smin => 1
  | .smax => 2
  | .umin => 3
  | .umax => 4
  | .and => 5
  | .or => 6
  | .xor => 7
  | .swap => 8
  | .fadd => 9
  | .pmax => 10
  | .pmaxs => 11
  | .sup => 12

def Rmw.ofCode (c : BitVec 4) : Option Rmw :=
  match c.toNat with
  | 0 => some .add
  | 1 => some .smin
  | 2 => some .smax
  | 3 => some .umin
  | 4 => some .umax
  | 5 => some .and
  | 6 => some .or
  | 7 => some .xor
  | 8 => some .swap
  | 9 => some .fadd
  | 10 => some .pmax
  | 11 => some .pmaxs
  | 12 => some .sup
  | _ => none

/-- FN of L2PF (12 R312). -/
def L2Op.code : L2Op → BitVec 4
  | .fill => 0
  | .retain => 1
  | .release => 2

def L2Op.ofCode (c : BitVec 4) : Option L2Op :=
  match c.toNat with
  | 0 => some .fill
  | 1 => some .retain
  | 2 => some .release
  | _ => none

/-- Numbers of the special registers (13 Table 13.4). -/
def Sr.code : Sr → BitVec 8
  | .laneid => 0
  | .grpid => 1
  | .core => 2
  | .die => 3
  | .pkg => 4
  | .cycle => 5
  | .fut => 6
  | .cause => 7
  | .faddr => 8
  | .epc => 9
  | .emask => 10
  | .fpcsr => 11
  | .f4x => 12

def Sr.ofCode (c : BitVec 8) : Option Sr :=
  match c.toNat with
  | 0 => some .laneid
  | 1 => some .grpid
  | 2 => some .core
  | 3 => some .die
  | 4 => some .pkg
  | 5 => some .cycle
  | 6 => some .fut
  | 7 => some .cause
  | 8 => some .faddr
  | 9 => some .epc
  | 10 => some .emask
  | 11 => some .fpcsr
  | 12 => some .f4x
  | _ => none

/-- FN of CFLUSH (13 R343). -/
def FlushScope.code : FlushScope → BitVec 4
  | .core => 0
  | .die => 1
  | .pkg => 2

def FlushScope.ofCode (c : BitVec 4) : Option FlushScope :=
  match c.toNat with
  | 0 => some .core
  | 1 => some .die
  | 2 => some .pkg
  | _ => none

/-- CP as a result group: 0 or .sat (08 Table 8.3). -/
def satCode (s : Bool) : BitVec 2 := if s then 1 else 0

def ofSat (c : BitVec 2) : Option Bool :=
  match c.toNat with
  | 0 => some false
  | 1 => some true
  | _ => none

/-- CP of an engine command: 0 or .st (14 R363). -/
def stCode (s : Bool) : BitVec 2 := if s then 2 else 0

def ofSt (c : BitVec 2) : Option Bool :=
  match c.toNat with
  | 0 => some false
  | 2 => some true
  | _ => none

/-- A one-bit FN or MOD choice. -/
def bit4 (s : Bool) : BitVec 4 := if s then 1 else 0

def ofBit4 (c : BitVec 4) : Option Bool :=
  match c.toNat with
  | 0 => some false
  | 1 => some true
  | _ => none

/-! ### Encoding helpers -/

def s8 (r : SReg) : BitVec 8 := r.zeroExtend 8
def c8 (r : CReg) : BitVec 8 := r.zeroExtend 8
def k8 (r : KReg) : BitVec 8 := r.zeroExtend 8
def toS (r : BitVec 8) : SReg := r.extractLsb' 0 6
def toC (r : BitVec 8) : CReg := r.extractLsb' 0 4
def toK (r : BitVec 8) : KReg := r.extractLsb' 0 3

def Raw.pred (r : Raw) (p : Pred) : Raw := { r with k := p.k, kn := p.kn }

def Raw.getPred (r : Raw) : Pred := ⟨r.k, r.kn⟩

/-- The 96-bit form with IMM32. -/
def Raw.imm32 (r : Raw) (v : W32) : Raw := { r with len := .l96, ext := v.zeroExtend 64 }

def Raw.getImm32 (r : Raw) : W32 := r.ext.extractLsb' 0 32

/-- Register or immediate form of a scalar instruction whose second operand is B (10 R260). -/
def Raw.ssrc (r : Raw) : SSrc → Raw
  | .reg y => { r with b := s8 y }
  | .imm v => { r with c := v, mod := 1 }

def Raw.getSsrc (r : Raw) : SSrc := if r.mod == 1 then .imm r.c else .reg (toS r.b)

/-- The operand forms of a last source B (11 Table 11.1). -/
def Raw.vsrc (r : Raw) : VSrc → Raw
  | .reg y => { r with b := y }
  | .imm v => { r with c := v, mod := 1 }
  | .sc y => { r with b := s8 y, mod := 2 }

def Raw.getVsrc (r : Raw) : VSrc :=
  if r.mod == 1 then .imm r.c else if r.mod == 2 then .sc (toS r.b) else .reg r.b

/-- The operand forms of VMOV's source A. -/
def Raw.vsrcA (r : Raw) : VSrc → Raw
  | .reg y => { r with a := y }
  | .imm v => { r with c := v, mod := 1 }
  | .sc y => { r with a := s8 y, mod := 2 }

def Raw.getVsrcA (r : Raw) : VSrc :=
  if r.mod == 1 then .imm r.c else if r.mod == 2 then .sc (toS r.a) else .reg r.a

def Raw.rnd (r : Raw) (x : Rnd) : Raw := { r with sc := x.rm.code, cp := satCode x.sat }

def Raw.getRnd (r : Raw) : Option Rnd := do
  let m ← Rm.ofCode r.sc
  let s ← ofSat r.cp
  return ⟨m, s⟩

def Raw.memq (r : Raw) (q : MemQ) : Raw := { r with ordq := q.ord.code, sc := q.sc.code, cp := q.cp.code }

def Raw.getMemq (r : Raw) : Option MemQ := do
  let o ← Ord.ofCode r.ordq
  let s ← Scope.ofCode r.sc
  let p ← Policy.ofCode r.cp
  return ⟨o, s, p⟩

/-- The address modes (12 Table 12.2). -/
def Raw.amode (r : Raw) : AMode → Raw
  | .c a => { r with a := c8 a }
  | .cs a b => { r with a := c8 a, b := s8 b, mod := 1 }
  | .cv a b => { r with a := c8 a, b := b, mod := 2 }
  | .cp a b => { r with a := c8 a, b := b, mod := 3 }
  | .scr => { r with mod := 4 }
  | .scrs b => { r with b := s8 b, mod := 5 }
  | .scrv b => { r with b := b, mod := 6 }

def Raw.getAmode (r : Raw) : Option AMode :=
  match r.mod.toNat with
  | 0 => some (.c (toC r.a))
  | 1 => some (.cs (toC r.a) (toS r.b))
  | 2 => some (.cv (toC r.a) r.b)
  | 3 => some (.cp (toC r.a) r.b)
  | 4 => some .scr
  | 5 => some (.scrs (toS r.b))
  | 6 => some (.scrv r.b)
  | _ => none

/-- The offset of a load or store (12 Table 12.1). -/
def Raw.off (r : Raw) : Off → Raw
  | .short v => { r with c := v }
  | .long v => r.imm32 v

def Raw.getOff (r : Raw) : Off := if r.len == .l96 then .long r.getImm32 else .short r.c

/-- The offset of an atomic (12 R314). -/
def Raw.aoff (r : Raw) : Option W32 → Raw
  | none => r
  | some v => r.imm32 v

def Raw.getAoff (r : Raw) : Option W32 := if r.len == .l96 then some r.getImm32 else none

/-- A[3:0] names the capability and A[7:4] the engine context (12 Table 12.1). -/
def ctxA (ctx : BitVec 4) (a : CReg) : BitVec 8 := ctx ++ a

def toCtx (a : BitVec 8) : BitVec 4 := a.extractLsb' 4 4

/-! ### The encoding of every instruction (09 Table 9.7 and the tables of chapters 10 to 14) -/

/-- The fields of an instruction; `none` for what has no such word: the clause header and the part's own events. -/
def Instr.toRaw : Instr → Option Raw
  | .nop => some ({ op := 0x00 : Raw })
  | .br off => some (({ op := 0x01 : Raw }).imm32 off)
  | .brc (.any p) off => some ((({ op := 0x02 : Raw }).pred p).imm32 off)
  | .brc (.all p) off => some ((({ op := 0x02, fn := 1 : Raw }).pred p).imm32 off)
  | .brc (.nz a) off => some (({ op := 0x02, fn := 2, a := s8 a : Raw }).imm32 off)
  | .brc (.z a) off => some (({ op := 0x02, fn := 3, a := s8 a : Raw }).imm32 off)
  | .brd p t rc => some (({ op := 0x03, len := .l128, ext := rc ++ t : Raw }).pred p)
  | .reconv => some ({ op := 0x04 : Raw })
  | .call d off => some (({ op := 0x05, d := s8 d : Raw }).imm32 off)
  | .ret a => some ({ op := 0x06, a := s8 a : Raw })
  | .jmpi a => some ({ op := 0x07, a := s8 a : Raw })
  | .loop a off => some (({ op := 0x08, a := s8 a : Raw }).imm32 off)
  | .yield => some ({ op := 0x09 : Raw })
  | .sadd ty d a y => some (({ op := 0x10, ty := ty.code, d := s8 d, a := s8 a : Raw }).ssrc y)
  | .ssub ty d a y => some (({ op := 0x11, ty := ty.code, d := s8 d, a := s8 a : Raw }).ssrc y)
  | .smul ty d a y => some (({ op := 0x12, ty := ty.code, d := s8 d, a := s8 a : Raw }).ssrc y)
  | .smulh ty d a y => some (({ op := 0x13, ty := ty.code, d := s8 d, a := s8 a : Raw }).ssrc y)
  | .sdiv ty d a y => some (({ op := 0x14, ty := ty.code, d := s8 d, a := s8 a : Raw }).ssrc y)
  | .srem ty d a y => some (({ op := 0x15, ty := ty.code, d := s8 d, a := s8 a : Raw }).ssrc y)
  | .sand ty d a y => some (({ op := 0x16, ty := ty.code, d := s8 d, a := s8 a : Raw }).ssrc y)
  | .sor ty d a y => some (({ op := 0x17, ty := ty.code, d := s8 d, a := s8 a : Raw }).ssrc y)
  | .sxor ty d a y => some (({ op := 0x18, ty := ty.code, d := s8 d, a := s8 a : Raw }).ssrc y)
  | .sshl ty d a y => some (({ op := 0x19, ty := ty.code, d := s8 d, a := s8 a : Raw }).ssrc y)
  | .sshr ty d a y => some (({ op := 0x1A, ty := ty.code, d := s8 d, a := s8 a : Raw }).ssrc y)
  | .ssra ty d a y => some (({ op := 0x1B, ty := ty.code, d := s8 d, a := s8 a : Raw }).ssrc y)
  | .smin ty d a y => some (({ op := 0x1C, ty := ty.code, d := s8 d, a := s8 a : Raw }).ssrc y)
  | .smax ty d a y => some (({ op := 0x1D, ty := ty.code, d := s8 d, a := s8 a : Raw }).ssrc y)
  | .scmp c ty d a y => some (({ op := 0x1E, fn := c.code, ty := ty.code, d := s8 d, a := s8 a : Raw }).ssrc y)
  | .ssel ty d a b c => some ({ op := 0x1F, ty := ty.code, d := s8 d, a := s8 a, b := s8 b, c := s8 c : Raw })
  | .smov ty d (.reg a) => some ({ op := 0x20, ty := ty.code, d := s8 d, a := s8 a : Raw })
  | .smov ty d (.imm v) => some ({ op := 0x20, ty := ty.code, d := s8 d, c := v, mod := 1 : Raw })
  | .sli ty d imm => some ({ op := 0x21, len := .l128, ty := ty.code, d := s8 d, ext := imm : Raw })
  | .saddi ty d a imm => some (({ op := 0x22, ty := ty.code, d := s8 d, a := s8 a : Raw }).imm32 imm)
  | .sbfe ty d a pos len => some ({ op := 0x23, ty := ty.code, d := s8 d, a := s8 a, b := pos, c := len : Raw })
  | .sbfi ty d a pos len => some ({ op := 0x24, ty := ty.code, d := s8 d, a := s8 a, b := pos, c := len : Raw })
  | .spopc ty d a => some ({ op := 0x25, ty := ty.code, d := s8 d, a := s8 a : Raw })
  | .sclz ty d a => some ({ op := 0x26, ty := ty.code, d := s8 d, a := s8 a : Raw })
  | .cbnd ex d a b => some ({ op := 0x30, fn := bit4 ex, d := c8 d, a := c8 a, b := s8 b : Raw })
  | .cinc d a b => some ({ op := 0x31, d := c8 d, a := c8 a, b := s8 b : Raw })
  | .cinci d a imm => some (({ op := 0x32, d := c8 d, a := c8 a : Raw }).imm32 imm)
  | .cperm d a b => some ({ op := 0x33, d := c8 d, a := c8 a, b := s8 b : Raw })
  | .cget f d a => some ({ op := 0x34, fn := f.code, d := s8 d, a := c8 a : Raw })
  | .ctest d a b m => some ({ op := 0x35, d := s8 d, a := c8 a, b := s8 b, c := m.zeroExtend 8 : Raw })
  | .csub d a b => some ({ op := 0x36, d := s8 d, a := c8 a, b := c8 b : Raw })
  | .kbool d a b tt => some ({ op := 0x38, d := k8 d, a := k8 a, b := k8 b, c := tt.zeroExtend 8 : Raw })
  | .kget d a => some ({ op := 0x39, d := s8 d, a := k8 a : Raw })
  | .kset d a => some ({ op := 0x3A, d := k8 d, a := s8 a : Raw })
  | .kcnt d a => some ({ op := 0x3B, d := s8 d, a := k8 a : Raw })
  | .kfind hi d a => some ({ op := 0x3C, fn := bit4 hi, d := s8 d, a := k8 a : Raw })
  | .kshf f d a n => some ({ op := 0x3D, fn := f.code, d := k8 d, a := k8 a, c := n.zeroExtend 8 : Raw })
  | .kquad all d a => some ({ op := 0x3E, fn := bit4 all, d := k8 d, a := k8 a : Raw })
  | .vadd p ty sat d a y => some ((({ op := 0x40, ty := ty.code, cp := satCode sat, d := d, a := a : Raw }).pred p).vsrc y)
  | .vsub p ty sat d a y => some ((({ op := 0x41, ty := ty.code, cp := satCode sat, d := d, a := a : Raw }).pred p).vsrc y)
  | .vmul p ty sat d a y => some ((({ op := 0x42, ty := ty.code, cp := satCode sat, d := d, a := a : Raw }).pred p).vsrc y)
  | .vmulh p ty d a y => some ((({ op := 0x43, ty := ty.code, d := d, a := a : Raw }).pred p).vsrc y)
  | .vmad p ty sat d a y c => some ((({ op := 0x44, ty := ty.code, cp := satCode sat, d := d, a := a, c := c : Raw }).pred p).vsrc y)
  | .vand p ty d a y => some ((({ op := 0x45, ty := ty.code, d := d, a := a : Raw }).pred p).vsrc y)
  | .vor p ty d a y => some ((({ op := 0x46, ty := ty.code, d := d, a := a : Raw }).pred p).vsrc y)
  | .vxor p ty d a y => some ((({ op := 0x47, ty := ty.code, d := d, a := a : Raw }).pred p).vsrc y)
  | .vnot p ty d a => some ((({ op := 0x48, ty := ty.code, d := d, a := a : Raw }).pred p))
  | .vshl p ty d a y => some ((({ op := 0x49, ty := ty.code, d := d, a := a : Raw }).pred p).vsrc y)
  | .vshr p ty d a y => some ((({ op := 0x4A, ty := ty.code, d := d, a := a : Raw }).pred p).vsrc y)
  | .vsra p ty d a y => some ((({ op := 0x4B, ty := ty.code, d := d, a := a : Raw }).pred p).vsrc y)
  | .vmin p ty d a y => some ((({ op := 0x4C, ty := ty.code, d := d, a := a : Raw }).pred p).vsrc y)
  | .vmax p ty d a y => some ((({ op := 0x4D, ty := ty.code, d := d, a := a : Raw }).pred p).vsrc y)
  | .vabs p ty sat d a => some ((({ op := 0x4E, ty := ty.code, cp := satCode sat, d := d, a := a : Raw }).pred p))
  | .vcmp p c ty d a y => some ((({ op := 0x4F, fn := c.code, ty := ty.code, d := k8 d, a := a : Raw }).pred p).vsrc y)
  | .vsel p ty d a y c => some ((({ op := 0x50, ty := ty.code, d := d, a := a, c := k8 c : Raw }).pred p).vsrc y)
  | .vmov p ty d y => some ((({ op := 0x51, ty := ty.code, d := d : Raw }).pred p).vsrcA y)
  | .vli p ty d imm => some ((({ op := 0x52, ty := ty.code, d := d : Raw }).pred p).imm32 imm)
  | .vpopc p ty d a => some ((({ op := 0x53, ty := ty.code, d := d, a := a : Raw }).pred p))
  | .vclz p ty d a => some ((({ op := 0x54, ty := ty.code, d := d, a := a : Raw }).pred p))
  | .vbrev p ty d a => some ((({ op := 0x55, ty := ty.code, d := d, a := a : Raw }).pred p))
  | .vbfe p ty d a pos len => some ((({ op := 0x56, ty := ty.code, d := d, a := a, b := pos, c := len : Raw }).pred p))
  | .vbfi p ty d a pos len => some ((({ op := 0x57, ty := ty.code, d := d, a := a, b := pos, c := len : Raw }).pred p))
  | .vdp4 p su ty sat d a y c => some ((({ op := 0x58, fn := bit4 su, ty := ty.code, cp := satCode sat, d := d, a := a, c := c : Raw }).pred p).vsrc y)
  | .vfadd p ty x d a y => some ((({ op := 0x60, ty := ty.code, d := d, a := a : Raw }).pred p).rnd x |>.vsrc y)
  | .vfsub p ty x d a y => some ((({ op := 0x61, ty := ty.code, d := d, a := a : Raw }).pred p).rnd x |>.vsrc y)
  | .vfmul p ty x d a y => some ((({ op := 0x62, ty := ty.code, d := d, a := a : Raw }).pred p).rnd x |>.vsrc y)
  | .vfdiv p ty x d a y => some ((({ op := 0x6A, ty := ty.code, d := d, a := a : Raw }).pred p).rnd x |>.vsrc y)
  | .vfscale p ty x d a y => some ((({ op := 0x75, ty := ty.code, d := d, a := a : Raw }).pred p).rnd x |>.vsrc y)
  | .vfma p ty x d a y c => some ((({ op := 0x63, ty := ty.code, d := d, a := a, c := c : Raw }).pred p).rnd x |>.vsrc y)
  | .vfdot2 p ty x d a y c => some ((({ op := 0x76, ty := ty.code, d := d, a := a, c := c : Raw }).pred p).rnd x |>.vsrc y)
  | .vfmin p ty d a y => some ((({ op := 0x64, ty := ty.code, d := d, a := a : Raw }).pred p).vsrc y)
  | .vfmax p ty d a y => some ((({ op := 0x65, ty := ty.code, d := d, a := a : Raw }).pred p).vsrc y)
  | .vfcmp p c ty d a y => some ((({ op := 0x66, fn := c.code, ty := ty.code, d := k8 d, a := a : Raw }).pred p).vsrc y)
  | .vfrcp p ty x d a => some ((({ op := 0x67, ty := ty.code, d := d, a := a : Raw }).pred p).rnd x)
  | .vfrsq p ty x d a => some ((({ op := 0x68, ty := ty.code, d := d, a := a : Raw }).pred p).rnd x)
  | .vfsqrt p ty x d a => some ((({ op := 0x69, ty := ty.code, d := d, a := a : Raw }).pred p).rnd x)
  | .vfexp2 p ty x d a => some ((({ op := 0x6B, ty := ty.code, d := d, a := a : Raw }).pred p).rnd x)
  | .vflog2 p ty x d a => some ((({ op := 0x6C, ty := ty.code, d := d, a := a : Raw }).pred p).rnd x)
  | .vfsin p ty x d a => some ((({ op := 0x6D, ty := ty.code, d := d, a := a : Raw }).pred p).rnd x)
  | .vfcos p ty x d a => some ((({ op := 0x6E, ty := ty.code, d := d, a := a : Raw }).pred p).rnd x)
  | .vftanh p ty x d a => some ((({ op := 0x6F, ty := ty.code, d := d, a := a : Raw }).pred p).rnd x)
  | .vfcvt p dst src part x d a => some ((({ op := 0x70, fn := part.zeroExtend 4, b := src, c := dst, d := d, a := a : Raw }).pred p).rnd x)
  | .vftoi p u ty rm d a => some ((({ op := 0x71, fn := bit4 u, ty := ty.code, sc := rm.code, d := d, a := a : Raw }).pred p))
  | .vitof p bf ty x d a => some ((({ op := 0x72, fn := bit4 bf, ty := ty.code, d := d, a := a : Raw }).pred p).rnd x)
  | .vfrnd p ty rm d a => some ((({ op := 0x73, ty := ty.code, sc := rm.code, d := d, a := a : Raw }).pred p))
  | .vfclass p ty d a => some ((({ op := 0x74, ty := ty.code, d := d, a := a : Raw }).pred p))
  | .vshuf p ty d a b => some ((({ op := 0x80, ty := ty.code, d := d, a := a, b := b : Raw }).pred p))
  | .vrot p q ty d a n => some ((({ op := 0x81, fn := bit4 q, ty := ty.code, d := d, a := a, c := n.zeroExtend 8 : Raw }).pred p))
  | .vbcast (.lane p d n) ty a => some (({ op := 0x82, ty := ty.code, d := d, a := a, c := n.zeroExtend 8 : Raw }).pred p)
  | .vbcast (.first p d) ty a => some (({ op := 0x82, fn := 1, ty := ty.code, d := d, a := a : Raw }).pred p)
  | .vbcast (.ts d n) ty a => some ({ op := 0x82, fn := 2, ty := ty.code, d := s8 d, a := a, c := n.zeroExtend 8 : Raw })
  | .vred p op ty d a => some ((({ op := 0x83, fn := op.code, ty := ty.code, d := s8 d, a := a : Raw }).pred p))
  | .vscan p op ex ty d a => some ((({ op := 0x84, fn := op.code, ty := ty.code, d := d, a := a, mod := if ex then 1 else 0 : Raw }).pred p))
  | .vvote p (.mk d) ty a => some (({ op := 0x85, fn := 0, ty := ty.code, d := k8 d, a := a : Raw }).pred p)
  | .vvote p (.cnt d) ty a => some (({ op := 0x85, fn := 1, ty := ty.code, d := s8 d, a := a : Raw }).pred p)
  | .vvote p (.lo d) ty a => some (({ op := 0x85, fn := 2, ty := ty.code, d := s8 d, a := a : Raw }).pred p)
  | .vvote p (.hi d) ty a => some (({ op := 0x85, fn := 3, ty := ty.code, d := s8 d, a := a : Raw }).pred p)
  | .vvote p (.eq d) ty a => some (({ op := 0x85, fn := 4, ty := ty.code, d := s8 d, a := a : Raw }).pred p)
  | .vcompact p ty d a => some ((({ op := 0x86, ty := ty.code, d := d, a := a : Raw }).pred p))
  | .vmatch p ty d a => some ((({ op := 0x87, ty := ty.code, d := d, a := a : Raw }).pred p))
  | .elect p (.k d) => some (({ op := 0x88, d := k8 d : Raw }).pred p)
  | .elect p (.s d) => some (({ op := 0x88, fn := 1, d := s8 d : Raw }).pred p)
  | .ld sz ty q d m off => some (((({ op := 0x90, fn := sz.code, ty := ty.code, d := s8 d : Raw }).memq q).amode m).off off)
  | .st sz ty q d m off => some (((({ op := 0x91, fn := sz.code, ty := ty.code, d := s8 d : Raw }).memq q).amode m).off off)
  | .vld p sz ty q d m off => some ((((({ op := 0x92, fn := sz.code, ty := ty.code, d := d : Raw }).pred p).memq q).amode m).off off)
  | .vst p sz ty q d m off => some ((((({ op := 0x93, fn := sz.code, ty := ty.code, d := d : Raw }).pred p).memq q).amode m).off off)
  | .vldc p sz ty q d m off => some ((((({ op := 0x94, fn := sz.code, ty := ty.code, d := d : Raw }).pred p).memq q).amode m).off off)
  | .vstc p sz ty q d m off => some ((((({ op := 0x95, fn := sz.code, ty := ty.code, d := d : Raw }).pred p).memq q).amode m).off off)
  | .cld q d m off => some (((({ op := 0x96, d := c8 d : Raw }).memq q).amode m).off off)
  | .cst q d m off => some (((({ op := 0x97, d := c8 d : Raw }).memq q).amode m).off off)
  | .vlds p sz ty d m off => some (((({ op := 0x98, fn := sz.code, ty := ty.code, d := d : Raw }).pred p).amode m).off off)
  | .vsts p sz ty d m off => some (((({ op := 0x99, fn := sz.code, ty := ty.code, d := d : Raw }).pred p).amode m).off off)
  | .pref cp m off => some ((({ op := 0x9A, cp := cp.code : Raw }).amode m).off off)
  | .l2pf op tok ctx a b => some ({ op := 0x9B, fn := op.code, d := s8 tok, a := ctxA ctx a, b := s8 b : Raw })
  | .amo op ty q d m off c => some (((({ op := 0xA0, fn := op.code, ty := ty.code, d := s8 d, c := s8 c : Raw }).memq q).amode m).aoff off)
  | .bop op ty q d m off c => some (((({ op := 0xA4, fn := op.code, ty := ty.code, d := s8 d, c := s8 c : Raw }).memq q).amode m).aoff off)
  | .acas ty q d m off c => some (((({ op := 0xA1, ty := ty.code, d := s8 d, c := s8 c : Raw }).memq q).amode m).aoff off)
  | .bcas ty q d m off c => some (((({ op := 0xA5, ty := ty.code, d := s8 d, c := s8 c : Raw }).memq q).amode m).aoff off)
  | .vamo p op ty q d m off c => some ((((({ op := 0xA2, fn := op.code, ty := ty.code, d := d, c := c : Raw }).pred p).memq q).amode m).aoff off)
  | .vbop p op ty q d m off c => some ((((({ op := 0xA6, fn := op.code, ty := ty.code, d := d, c := c : Raw }).pred p).memq q).amode m).aoff off)
  | .vacas p ty q d m off c => some ((((({ op := 0xA3, ty := ty.code, d := d, c := c : Raw }).pred p).memq q).amode m).aoff off)
  | .bupd op ty tok ctx a b c => some ({ op := 0xA7, fn := op.code, ty := ty.code, d := s8 tok, a := ctxA ctx a, b := s8 b, c := s8 c : Raw })
  | .acinit d a b c => some ({ op := 0xA8, d := s8 d, a := c8 a, b := s8 b, c := s8 c : Raw })
  | .adec nw d a b => some ({ op := 0xA9, fn := bit4 nw, d := s8 d, a := c8 a, b := s8 b : Raw })
  | .ainc d a b => some ({ op := 0xAA, d := s8 d, a := c8 a, b := s8 b : Raw })
  | .areadx d a => some ({ op := 0xAB, d := s8 d, a := c8 a : Raw })
  | .areada d a => some ({ op := 0xAC, d := s8 d, a := c8 a : Raw })
  | .acret d a => some ({ op := 0xAD, d := s8 d, a := c8 a : Raw })
  | .fence u ord sc => some ({ op := 0xB0, fn := bit4 u, ordq := ord.code, sc := sc.code : Raw })
  | .waitc c ty ord sc d m off x => some ((({ op := 0xB1, fn := c.waitCode, ty := ty.code, ordq := ord.code, sc := sc.code, d := s8 d, c := s8 x : Raw }).amode m).aoff off)
  | .poll ty ord sc d m off => some ((({ op := 0xB2, ty := ty.code, ordq := ord.code, sc := sc.code, d := s8 d : Raw }).amode m).off off)
  | .bari d a b => some ({ op := 0xB3, d := s8 d, a := c8 a, b := s8 b : Raw })
  | .bara sc d a => some ({ op := 0xB4, sc := sc.code, d := s8 d, a := c8 a : Raw })
  | .barw sc d a b => some ({ op := 0xB5, sc := sc.code, d := s8 d, a := c8 a, b := s8 b : Raw })
  | .baraw sc d a => some ({ op := 0xB6, sc := sc.code, d := s8 d, a := c8 a : Raw })
  | .spawn m off => some (({ op := 0xC0, c := off : Raw }).amode m)
  | .spawnl m off => some (({ op := 0xC1, c := off : Raw }).amode m)
  | .fnew d a => some ({ op := 0xC2, d := s8 d, a := c8 a : Raw })
  | .ffill (.value b) d a => some ({ op := 0xC3, d := s8 d, a := c8 a, b := s8 b : Raw })
  | .ffill .cancel d a => some ({ op := 0xC3, fn := 1, d := s8 d, a := c8 a : Raw })
  | .join t d a => some ({ op := 0xC4, fn := bit4 t, d := s8 d, a := c8 a : Raw })
  | .joint d a => some ({ op := 0xC5, d := s8 d, a := c8 a : Raw })
  | .exit none => some ({ op := 0xC6 : Raw })
  | .exit (some a) => some ({ op := 0xC6, fn := 1, a := s8 a : Raw })
  | .regrp (.range b c) d a => some ({ op := 0xC7, d := s8 d, a := c8 a, b := b, c := c : Raw })
  | .regrp .flush d a => some ({ op := 0xC7, fn := 1, d := s8 d, a := c8 a : Raw })
  | .qpop nb d a b => some ({ op := 0xC8, fn := bit4 nb, d := s8 d, a := c8 a, b := s8 b : Raw })
  | .qapp (.app b) d a => some ({ op := 0xC9, d := s8 d, a := c8 a, b := s8 b : Raw })
  | .qapp .close d a => some ({ op := 0xC9, fn := 1, d := s8 d, a := c8 a : Raw })
  | .lhint => some ({ op := 0xCA : Raw })
  | .waitpred d => some ({ op := 0xCB, d := s8 d : Raw })
  | .plane b p ty x d a n sg => some ((({ op := 0xD0, fn := bit4 b, ty := ty.code, d := s8 d, a := a, b := n.zeroExtend 8, c := sg : Raw }).pred p).rnd x)
  | .mfmt n a => some ({ op := 0xD1, d := n.zeroExtend 8, a := s8 a : Raw })
  | .mma p d a n => some (({ op := 0xD2, d := d, a := a, c := n.zeroExtend 8 : Raw }).pred p)
  | .mzero p d => some (({ op := 0xD3, d := d : Raw }).pred p)
  | .cpy ev tok ctx a b c => some ({ op := 0xE0, cp := stCode ev, d := s8 tok, ty := ctx, a := c8 a, b := c8 b, c := s8 c : Raw })
  | .cpyt w ev tok ctx a b c => some ({ op := 0xE1, fn := bit4 w, cp := stCode ev, d := s8 tok, ty := ctx, a := s8 a, b := s8 b, c := s8 c : Raw })
  | .stage ev tok ctx a b c => some ({ op := 0xE2, cp := stCode ev, d := s8 tok, ty := ctx, a := s8 a, b := s8 b, c := s8 c : Raw })
  | .drain add i32 ev tok ctx a b c => some ({ op := 0xE3, fn := bit4 add, mod := if i32 then 1 else 0, cp := stCode ev, d := s8 tok, ty := ctx, a := a, b := s8 b, c := s8 c : Raw })
  | .twait ctx (.back c) => some ({ op := 0xE4, ty := ctx, c := c : Raw })
  | .twait ctx (.reg a imm) => some (({ op := 0xE4, ty := ctx, a := s8 a : Raw }).imm32 imm)
  | .tread clr d ctx => some ({ op := 0xE5, fn := bit4 clr, d := s8 d, ty := ctx : Raw })
  | .dpost tok ctx a b c => some ({ op := 0xE6, d := s8 tok, ty := ctx, a := c8 a, b := c8 b, c := c8 c : Raw })
  | .xsend tok ctx a b c => some ({ op := 0xE7, d := s8 tok, ty := ctx, a := c8 a, b := c8 b, c := c8 c : Raw })
  | .xwait unbind d a => some ({ op := 0xE8, fn := bit4 unbind, d := s8 d, a := c8 a : Raw })
  | .xstat d a b => some ({ op := 0xE9, d := s8 d, a := c8 a, b := s8 b : Raw })
  | .rdsr (.s d) x => some ({ op := 0xF0, fn := 0, d := s8 d, c := x.code : Raw })
  | .rdsr (.v d) x => some ({ op := 0xF0, fn := 1, d := d, c := x.code : Raw })
  | .rdsr (.c d) x => some ({ op := 0xF0, fn := 2, d := c8 d, c := x.code : Raw })
  | .wrsr x a => some ({ op := 0xF1, a := s8 a, c := x.code : Raw })
  | .trap imm => some ({ op := 0xF2, c := imm : Raw })
  | .phint d a b c smask scrx tobl => some ({ op := 0xF3, len := .l128, d := d, a := a, b := b, c := c, ext := (0 : BitVec 15) ++ BitVec.ofBool tobl ++ scrx ++ smask : Raw })
  | .brk imm => some ({ op := 0xF4, c := imm : Raw })
  | .invv pkg a b => some ({ op := 0xF5, fn := bit4 pkg, a := c8 a, b := s8 b : Raw })
  | .cflush f a b => some ({ op := 0xF6, fn := f.code, a := c8 a, b := s8 b : Raw })
  | .udf => some ({ op := 0xFF : Raw })
  | _ => none

/-- The instruction that the fields name, reading only the fields that its definition uses. -/
def Raw.toInstr (r : Raw) : Option Instr :=
  match r.op.toNat with
  | 0x00 => some .nop
  | 0x01 => some (.br r.getImm32)
  | 0x02 => match r.fn.toNat with
    | 0 => some (.brc (.any r.getPred) r.getImm32)
    | 1 => some (.brc (.all r.getPred) r.getImm32)
    | 2 => some (.brc (.nz (toS r.a)) r.getImm32)
    | 3 => some (.brc (.z (toS r.a)) r.getImm32)
    | _ => none
  | 0x03 => some (.brd r.getPred (r.ext.extractLsb' 0 32) (r.ext.extractLsb' 32 32))
  | 0x04 => some .reconv
  | 0x05 => some (.call (toS r.d) r.getImm32)
  | 0x06 => some (.ret (toS r.a))
  | 0x07 => some (.jmpi (toS r.a))
  | 0x08 => some (.loop (toS r.a) r.getImm32)
  | 0x09 => some .yield
  | 0x10 => do
    let t ← STy.ofCode r.ty
    return .sadd t (toS r.d) (toS r.a) r.getSsrc
  | 0x11 => do
    let t ← STy.ofCode r.ty
    return .ssub t (toS r.d) (toS r.a) r.getSsrc
  | 0x12 => do
    let t ← STy.ofCode r.ty
    return .smul t (toS r.d) (toS r.a) r.getSsrc
  | 0x13 => do
    let t ← STy.ofCode r.ty
    return .smulh t (toS r.d) (toS r.a) r.getSsrc
  | 0x14 => do
    let t ← STy.ofCode r.ty
    return .sdiv t (toS r.d) (toS r.a) r.getSsrc
  | 0x15 => do
    let t ← STy.ofCode r.ty
    return .srem t (toS r.d) (toS r.a) r.getSsrc
  | 0x16 => do
    let t ← STy.ofCode r.ty
    return .sand t (toS r.d) (toS r.a) r.getSsrc
  | 0x17 => do
    let t ← STy.ofCode r.ty
    return .sor t (toS r.d) (toS r.a) r.getSsrc
  | 0x18 => do
    let t ← STy.ofCode r.ty
    return .sxor t (toS r.d) (toS r.a) r.getSsrc
  | 0x19 => do
    let t ← STy.ofCode r.ty
    return .sshl t (toS r.d) (toS r.a) r.getSsrc
  | 0x1A => do
    let t ← STy.ofCode r.ty
    return .sshr t (toS r.d) (toS r.a) r.getSsrc
  | 0x1B => do
    let t ← STy.ofCode r.ty
    return .ssra t (toS r.d) (toS r.a) r.getSsrc
  | 0x1C => do
    let t ← STy.ofCode r.ty
    return .smin t (toS r.d) (toS r.a) r.getSsrc
  | 0x1D => do
    let t ← STy.ofCode r.ty
    return .smax t (toS r.d) (toS r.a) r.getSsrc
  | 0x1E => do
    let c ← Cmp.ofCode r.fn
    let t ← STy.ofCode r.ty
    return .scmp c t (toS r.d) (toS r.a) r.getSsrc
  | 0x1F => do
    let t ← STy.ofCode r.ty
    return .ssel t (toS r.d) (toS r.a) (toS r.b) (toS r.c)
  | 0x20 => do
    let t ← STy.ofCode r.ty
    return .smov t (toS r.d) (if r.mod == 1 then .imm r.c else .reg (toS r.a))
  | 0x21 => do
    let t ← STy.ofCode r.ty
    return .sli t (toS r.d) r.ext
  | 0x22 => do
    let t ← STy.ofCode r.ty
    return .saddi t (toS r.d) (toS r.a) r.getImm32
  | 0x23 => do
    let t ← STy.ofCode r.ty
    return .sbfe t (toS r.d) (toS r.a) r.b r.c
  | 0x24 => do
    let t ← STy.ofCode r.ty
    return .sbfi t (toS r.d) (toS r.a) r.b r.c
  | 0x25 => do
    let t ← STy.ofCode r.ty
    return .spopc t (toS r.d) (toS r.a)
  | 0x26 => do
    let t ← STy.ofCode r.ty
    return .sclz t (toS r.d) (toS r.a)
  | 0x30 => do
    let x ← ofBit4 r.fn
    return .cbnd x (toC r.d) (toC r.a) (toS r.b)
  | 0x31 => some (.cinc (toC r.d) (toC r.a) (toS r.b))
  | 0x32 => some (.cinci (toC r.d) (toC r.a) r.getImm32)
  | 0x33 => some (.cperm (toC r.d) (toC r.a) (toS r.b))
  | 0x34 => do
    let f ← CField.ofCode r.fn
    return .cget f (toS r.d) (toC r.a)
  | 0x35 => some (.ctest (toS r.d) (toC r.a) (toS r.b) (r.c.extractLsb' 0 7))
  | 0x36 => some (.csub (toS r.d) (toC r.a) (toC r.b))
  | 0x38 => some (.kbool (toK r.d) (toK r.a) (toK r.b) (r.c.extractLsb' 0 4))
  | 0x39 => some (.kget (toS r.d) (toK r.a))
  | 0x3A => some (.kset (toK r.d) (toS r.a))
  | 0x3B => some (.kcnt (toS r.d) (toK r.a))
  | 0x3C => do
    let h ← ofBit4 r.fn
    return .kfind h (toS r.d) (toK r.a)
  | 0x3D => do
    let f ← KShift.ofCode r.fn
    return .kshf f (toK r.d) (toK r.a) (r.c.extractLsb' 0 5)
  | 0x3E => do
    let x ← ofBit4 r.fn
    return .kquad x (toK r.d) (toK r.a)
  | 0x40 => do
    let t ← ETy.ofCode r.ty
    let s ← ofSat r.cp
    return .vadd r.getPred t s r.d r.a r.getVsrc
  | 0x41 => do
    let t ← ETy.ofCode r.ty
    let s ← ofSat r.cp
    return .vsub r.getPred t s r.d r.a r.getVsrc
  | 0x42 => do
    let t ← ETy.ofCode r.ty
    let s ← ofSat r.cp
    return .vmul r.getPred t s r.d r.a r.getVsrc
  | 0x43 => do
    let t ← ETy.ofCode r.ty
    return .vmulh r.getPred t r.d r.a r.getVsrc
  | 0x44 => do
    let t ← ETy.ofCode r.ty
    let s ← ofSat r.cp
    return .vmad r.getPred t s r.d r.a r.getVsrc r.c
  | 0x45 => do
    let t ← ETy.ofCode r.ty
    return .vand r.getPred t r.d r.a r.getVsrc
  | 0x46 => do
    let t ← ETy.ofCode r.ty
    return .vor r.getPred t r.d r.a r.getVsrc
  | 0x47 => do
    let t ← ETy.ofCode r.ty
    return .vxor r.getPred t r.d r.a r.getVsrc
  | 0x48 => do
    let t ← ETy.ofCode r.ty
    return .vnot r.getPred t r.d r.a
  | 0x49 => do
    let t ← ETy.ofCode r.ty
    return .vshl r.getPred t r.d r.a r.getVsrc
  | 0x4A => do
    let t ← ETy.ofCode r.ty
    return .vshr r.getPred t r.d r.a r.getVsrc
  | 0x4B => do
    let t ← ETy.ofCode r.ty
    return .vsra r.getPred t r.d r.a r.getVsrc
  | 0x4C => do
    let t ← ETy.ofCode r.ty
    return .vmin r.getPred t r.d r.a r.getVsrc
  | 0x4D => do
    let t ← ETy.ofCode r.ty
    return .vmax r.getPred t r.d r.a r.getVsrc
  | 0x4E => do
    let t ← ETy.ofCode r.ty
    let s ← ofSat r.cp
    return .vabs r.getPred t s r.d r.a
  | 0x4F => do
    let c ← Cmp.ofCode r.fn
    let t ← ETy.ofCode r.ty
    return .vcmp r.getPred c t (toK r.d) r.a r.getVsrc
  | 0x50 => do
    let t ← ETy.ofCode r.ty
    return .vsel r.getPred t r.d r.a r.getVsrc (toK r.c)
  | 0x51 => do
    let t ← ETy.ofCode r.ty
    return .vmov r.getPred t r.d r.getVsrcA
  | 0x52 => do
    let t ← ETy.ofCode r.ty
    return .vli r.getPred t r.d r.getImm32
  | 0x53 => do
    let t ← ETy.ofCode r.ty
    return .vpopc r.getPred t r.d r.a
  | 0x54 => do
    let t ← ETy.ofCode r.ty
    return .vclz r.getPred t r.d r.a
  | 0x55 => do
    let t ← ETy.ofCode r.ty
    return .vbrev r.getPred t r.d r.a
  | 0x56 => do
    let t ← ETy.ofCode r.ty
    return .vbfe r.getPred t r.d r.a r.b r.c
  | 0x57 => do
    let t ← ETy.ofCode r.ty
    return .vbfi r.getPred t r.d r.a r.b r.c
  | 0x58 => do
    let u ← ofBit4 r.fn
    let t ← ETy.ofCode r.ty
    let s ← ofSat r.cp
    return .vdp4 r.getPred u t s r.d r.a r.getVsrc r.c
  | 0x60 => do
    let t ← ETy.ofCode r.ty
    let x ← r.getRnd
    return .vfadd r.getPred t x r.d r.a r.getVsrc
  | 0x61 => do
    let t ← ETy.ofCode r.ty
    let x ← r.getRnd
    return .vfsub r.getPred t x r.d r.a r.getVsrc
  | 0x62 => do
    let t ← ETy.ofCode r.ty
    let x ← r.getRnd
    return .vfmul r.getPred t x r.d r.a r.getVsrc
  | 0x63 => do
    let t ← ETy.ofCode r.ty
    let x ← r.getRnd
    return .vfma r.getPred t x r.d r.a r.getVsrc r.c
  | 0x64 => do
    let t ← ETy.ofCode r.ty
    return .vfmin r.getPred t r.d r.a r.getVsrc
  | 0x65 => do
    let t ← ETy.ofCode r.ty
    return .vfmax r.getPred t r.d r.a r.getVsrc
  | 0x66 => do
    let c ← FCmp.ofCode r.fn
    let t ← ETy.ofCode r.ty
    return .vfcmp r.getPred c t (toK r.d) r.a r.getVsrc
  | 0x67 => do
    let t ← ETy.ofCode r.ty
    let x ← r.getRnd
    return .vfrcp r.getPred t x r.d r.a
  | 0x68 => do
    let t ← ETy.ofCode r.ty
    let x ← r.getRnd
    return .vfrsq r.getPred t x r.d r.a
  | 0x69 => do
    let t ← ETy.ofCode r.ty
    let x ← r.getRnd
    return .vfsqrt r.getPred t x r.d r.a
  | 0x6A => do
    let t ← ETy.ofCode r.ty
    let x ← r.getRnd
    return .vfdiv r.getPred t x r.d r.a r.getVsrc
  | 0x6B => do
    let t ← ETy.ofCode r.ty
    let x ← r.getRnd
    return .vfexp2 r.getPred t x r.d r.a
  | 0x6C => do
    let t ← ETy.ofCode r.ty
    let x ← r.getRnd
    return .vflog2 r.getPred t x r.d r.a
  | 0x6D => do
    let t ← ETy.ofCode r.ty
    let x ← r.getRnd
    return .vfsin r.getPred t x r.d r.a
  | 0x6E => do
    let t ← ETy.ofCode r.ty
    let x ← r.getRnd
    return .vfcos r.getPred t x r.d r.a
  | 0x6F => do
    let t ← ETy.ofCode r.ty
    let x ← r.getRnd
    return .vftanh r.getPred t x r.d r.a
  | 0x70 => do
    let x ← r.getRnd
    return .vfcvt r.getPred r.c r.b (r.fn.extractLsb' 0 3) x r.d r.a
  | 0x71 => do
    let u ← ofBit4 r.fn
    let t ← ETy.ofCode r.ty
    let m ← Rm.ofCode r.sc
    return .vftoi r.getPred u t m r.d r.a
  | 0x72 => do
    let u ← ofBit4 r.fn
    let t ← ETy.ofCode r.ty
    let x ← r.getRnd
    return .vitof r.getPred u t x r.d r.a
  | 0x73 => do
    let t ← ETy.ofCode r.ty
    let m ← Rm.ofCode r.sc
    return .vfrnd r.getPred t m r.d r.a
  | 0x74 => do
    let t ← ETy.ofCode r.ty
    return .vfclass r.getPred t r.d r.a
  | 0x75 => do
    let t ← ETy.ofCode r.ty
    let x ← r.getRnd
    return .vfscale r.getPred t x r.d r.a r.getVsrc
  | 0x76 => do
    let t ← ETy.ofCode r.ty
    let x ← r.getRnd
    return .vfdot2 r.getPred t x r.d r.a r.getVsrc r.c
  | 0x80 => do
    let t ← ETy.ofCode r.ty
    return .vshuf r.getPred t r.d r.a r.b
  | 0x81 => do
    let q ← ofBit4 r.fn
    let t ← ETy.ofCode r.ty
    return .vrot r.getPred q t r.d r.a (r.c.extractLsb' 0 5)
  | 0x82 => do
    let t ← ETy.ofCode r.ty
    match r.fn.toNat with
    | 0 => return .vbcast (.lane r.getPred r.d (r.c.extractLsb' 0 5)) t r.a
    | 1 => return .vbcast (.first r.getPred r.d) t r.a
    | 2 => return .vbcast (.ts (toS r.d) (r.c.extractLsb' 0 5)) t r.a
    | _ => none
  | 0x83 => do
    let o ← Red.ofCode r.fn
    let t ← ETy.ofCode r.ty
    return .vred r.getPred o t (toS r.d) r.a
  | 0x84 => do
    let o ← Red.ofCode r.fn
    let t ← ETy.ofCode r.ty
    return .vscan r.getPred o (r.mod == 1) t r.d r.a
  | 0x85 => do
    let t ← ETy.ofCode r.ty
    match r.fn.toNat with
    | 0 => return .vvote r.getPred (.mk (toK r.d)) t r.a
    | 1 => return .vvote r.getPred (.cnt (toS r.d)) t r.a
    | 2 => return .vvote r.getPred (.lo (toS r.d)) t r.a
    | 3 => return .vvote r.getPred (.hi (toS r.d)) t r.a
    | 4 => return .vvote r.getPred (.eq (toS r.d)) t r.a
    | _ => none
  | 0x86 => do
    let t ← ETy.ofCode r.ty
    return .vcompact r.getPred t r.d r.a
  | 0x87 => do
    let t ← ETy.ofCode r.ty
    return .vmatch r.getPred t r.d r.a
  | 0x88 => match r.fn.toNat with
    | 0 => some (.elect r.getPred (.k (toK r.d)))
    | 1 => some (.elect r.getPred (.s (toS r.d)))
    | _ => none
  | 0x90 => do
    let z ← Size.ofCode r.fn
    let t ← STy.ofCode r.ty
    let q ← r.getMemq
    let m ← r.getAmode
    return .ld z t q (toS r.d) m r.getOff
  | 0x91 => do
    let z ← Size.ofCode r.fn
    let t ← STy.ofCode r.ty
    let q ← r.getMemq
    let m ← r.getAmode
    return .st z t q (toS r.d) m r.getOff
  | 0x92 => do
    let z ← Size.ofCode r.fn
    let t ← ETy.ofCode r.ty
    let q ← r.getMemq
    let m ← r.getAmode
    return .vld r.getPred z t q r.d m r.getOff
  | 0x93 => do
    let z ← Size.ofCode r.fn
    let t ← ETy.ofCode r.ty
    let q ← r.getMemq
    let m ← r.getAmode
    return .vst r.getPred z t q r.d m r.getOff
  | 0x94 => do
    let z ← Size.ofCode r.fn
    let t ← ETy.ofCode r.ty
    let q ← r.getMemq
    let m ← r.getAmode
    return .vldc r.getPred z t q r.d m r.getOff
  | 0x95 => do
    let z ← Size.ofCode r.fn
    let t ← ETy.ofCode r.ty
    let q ← r.getMemq
    let m ← r.getAmode
    return .vstc r.getPred z t q r.d m r.getOff
  | 0x96 => do
    let q ← r.getMemq
    let m ← r.getAmode
    return .cld q (toC r.d) m r.getOff
  | 0x97 => do
    let q ← r.getMemq
    let m ← r.getAmode
    return .cst q (toC r.d) m r.getOff
  | 0x98 => do
    let z ← Size.ofCode r.fn
    let t ← ETy.ofCode r.ty
    let m ← r.getAmode
    return .vlds r.getPred z t r.d m r.getOff
  | 0x99 => do
    let z ← Size.ofCode r.fn
    let t ← ETy.ofCode r.ty
    let m ← r.getAmode
    return .vsts r.getPred z t r.d m r.getOff
  | 0x9A => do
    let c ← Policy.ofCode r.cp
    let m ← r.getAmode
    return .pref c m r.getOff
  | 0x9B => do
    let o ← L2Op.ofCode r.fn
    return .l2pf o (toS r.d) (toCtx r.a) (toC r.a) (toS r.b)
  | 0xA0 => do
    let o ← Rmw.ofCode r.fn
    let t ← ETy.ofCode r.ty
    let q ← r.getMemq
    let m ← r.getAmode
    return .amo o t q (toS r.d) m r.getAoff (toS r.c)
  | 0xA1 => do
    let t ← ETy.ofCode r.ty
    let q ← r.getMemq
    let m ← r.getAmode
    return .acas t q (toS r.d) m r.getAoff (toS r.c)
  | 0xA2 => do
    let o ← Rmw.ofCode r.fn
    let t ← ETy.ofCode r.ty
    let q ← r.getMemq
    let m ← r.getAmode
    return .vamo r.getPred o t q r.d m r.getAoff r.c
  | 0xA3 => do
    let t ← ETy.ofCode r.ty
    let q ← r.getMemq
    let m ← r.getAmode
    return .vacas r.getPred t q r.d m r.getAoff r.c
  | 0xA4 => do
    let o ← Rmw.ofCode r.fn
    let t ← ETy.ofCode r.ty
    let q ← r.getMemq
    let m ← r.getAmode
    return .bop o t q (toS r.d) m r.getAoff (toS r.c)
  | 0xA5 => do
    let t ← ETy.ofCode r.ty
    let q ← r.getMemq
    let m ← r.getAmode
    return .bcas t q (toS r.d) m r.getAoff (toS r.c)
  | 0xA6 => do
    let o ← Rmw.ofCode r.fn
    let t ← ETy.ofCode r.ty
    let q ← r.getMemq
    let m ← r.getAmode
    return .vbop r.getPred o t q r.d m r.getAoff r.c
  | 0xA7 => do
    let o ← Rmw.ofCode r.fn
    let t ← ETy.ofCode r.ty
    return .bupd o t (toS r.d) (toCtx r.a) (toC r.a) (toS r.b) (toS r.c)
  | 0xA8 => some (.acinit (toS r.d) (toC r.a) (toS r.b) (toS r.c))
  | 0xA9 => do
    let n ← ofBit4 r.fn
    return .adec n (toS r.d) (toC r.a) (toS r.b)
  | 0xAA => some (.ainc (toS r.d) (toC r.a) (toS r.b))
  | 0xAB => some (.areadx (toS r.d) (toC r.a))
  | 0xAC => some (.areada (toS r.d) (toC r.a))
  | 0xAD => some (.acret (toS r.d) (toC r.a))
  | 0xB0 => do
    let u ← ofBit4 r.fn
    let o ← Ord.ofCode r.ordq
    let s ← Scope.ofCode r.sc
    return .fence u o s
  | 0xB1 => do
    let c ← Cmp.ofWaitCode r.fn
    let t ← STy.ofCode r.ty
    let o ← Ord.ofCode r.ordq
    let s ← Scope.ofCode r.sc
    let m ← r.getAmode
    return .waitc c t o s (toS r.d) m r.getAoff (toS r.c)
  | 0xB2 => do
    let t ← STy.ofCode r.ty
    let o ← Ord.ofCode r.ordq
    let s ← Scope.ofCode r.sc
    let m ← r.getAmode
    return .poll t o s (toS r.d) m r.getOff
  | 0xB3 => some (.bari (toS r.d) (toC r.a) (toS r.b))
  | 0xB4 => do
    let s ← Scope.ofCode r.sc
    return .bara s (toS r.d) (toC r.a)
  | 0xB5 => do
    let s ← Scope.ofCode r.sc
    return .barw s (toS r.d) (toC r.a) (toS r.b)
  | 0xB6 => do
    let s ← Scope.ofCode r.sc
    return .baraw s (toS r.d) (toC r.a)
  | 0xC0 => do
    let m ← r.getAmode
    return .spawn m r.c
  | 0xC1 => do
    let m ← r.getAmode
    return .spawnl m r.c
  | 0xC2 => some (.fnew (toS r.d) (toC r.a))
  | 0xC3 => match r.fn.toNat with
    | 0 => some (.ffill (.value (toS r.b)) (toS r.d) (toC r.a))
    | 1 => some (.ffill .cancel (toS r.d) (toC r.a))
    | _ => none
  | 0xC4 => do
    let t ← ofBit4 r.fn
    return .join t (toS r.d) (toC r.a)
  | 0xC5 => some (.joint (toS r.d) (toC r.a))
  | 0xC6 => match r.fn.toNat with
    | 0 => some (.exit none)
    | 1 => some (.exit (some (toS r.a)))
    | _ => none
  | 0xC7 => match r.fn.toNat with
    | 0 => some (.regrp (.range r.b r.c) (toS r.d) (toC r.a))
    | 1 => some (.regrp .flush (toS r.d) (toC r.a))
    | _ => none
  | 0xC8 => do
    let n ← ofBit4 r.fn
    return .qpop n (toS r.d) (toC r.a) (toS r.b)
  | 0xC9 => match r.fn.toNat with
    | 0 => some (.qapp (.app (toS r.b)) (toS r.d) (toC r.a))
    | 1 => some (.qapp .close (toS r.d) (toC r.a))
    | _ => none
  | 0xCA => some .lhint
  | 0xCB => some (.waitpred (toS r.d))
  | 0xD0 => do
    let b ← ofBit4 r.fn
    let t ← ETy.ofCode r.ty
    let x ← r.getRnd
    return .plane b r.getPred t x (toS r.d) r.a (r.b.extractLsb' 0 2) r.c
  | 0xD1 => some (.mfmt (r.d.extractLsb' 0 2) (toS r.a))
  | 0xD2 => some (.mma r.getPred r.d r.a (r.c.extractLsb' 0 2))
  | 0xD3 => some (.mzero r.getPred r.d)
  | 0xE0 => do
    let s ← ofSt r.cp
    return .cpy s (toS r.d) r.ty (toC r.a) (toC r.b) (toS r.c)
  | 0xE1 => do
    let w ← ofBit4 r.fn
    let s ← ofSt r.cp
    return .cpyt w s (toS r.d) r.ty (toS r.a) (toS r.b) (toS r.c)
  | 0xE2 => do
    let s ← ofSt r.cp
    return .stage s (toS r.d) r.ty (toS r.a) (toS r.b) (toS r.c)
  | 0xE3 => do
    let w ← ofBit4 r.fn
    let s ← ofSt r.cp
    return .drain w (r.mod == 1) s (toS r.d) r.ty r.a (toS r.b) (toS r.c)
  | 0xE4 => if r.len == .l96 then some (.twait r.ty (.reg (toS r.a) r.getImm32)) else some (.twait r.ty (.back r.c))
  | 0xE5 => do
    let c ← ofBit4 r.fn
    return .tread c (toS r.d) r.ty
  | 0xE6 => some (.dpost (toS r.d) r.ty (toC r.a) (toC r.b) (toC r.c))
  | 0xE7 => some (.xsend (toS r.d) r.ty (toC r.a) (toC r.b) (toC r.c))
  | 0xE8 => do
    let u ← ofBit4 r.fn
    return .xwait u (toS r.d) (toC r.a)
  | 0xE9 => some (.xstat (toS r.d) (toC r.a) (toS r.b))
  | 0xF0 => do
    let x ← Sr.ofCode r.c
    match r.fn.toNat with
    | 0 => return .rdsr (.s (toS r.d)) x
    | 1 => return .rdsr (.v r.d) x
    | 2 => return .rdsr (.c (toC r.d)) x
    | _ => none
  | 0xF1 => do
    let x ← Sr.ofCode r.c
    return .wrsr x (toS r.a)
  | 0xF2 => some (.trap r.c)
  | 0xF3 => some (.phint r.d r.a r.b r.c (r.ext.extractLsb' 0 32) (r.ext.extractLsb' 32 16) (r.ext.getLsbD 48))
  | 0xF4 => some (.brk r.c)
  | 0xF5 => do
    let p ← ofBit4 r.fn
    return .invv p (toC r.a) (toS r.b)
  | 0xF6 => do
    let f ← FlushScope.ofCode r.fn
    return .cflush f (toC r.a) (toS r.b)
  | 0xFF => some .udf
  | _ => none

/-- The number of FN values that an opcode assigns, from 0 upward; 0 for an unassigned opcode and for 0xFF (09 R228, R230). -/
def fnCount (op : BitVec 8) : Nat :=
  match op.toNat with
  | 0xA4 | 0xA6 => 13
  | 0xA7 => 11
  | 0xA0 | 0xA2 => 10
  | 0x34 | 0x83 | 0x84 => 9
  | 0x66 | 0x70 => 8
  | 0x1E | 0x4F | 0xB1 => 6
  | 0x85 => 5
  | 0x02 | 0x90 | 0x91 | 0x92 | 0x93 | 0x94 | 0x95 | 0x98 | 0x99 => 4
  | 0x3D | 0x82 | 0x9B | 0xF0 | 0xF6 => 3
  | 0x30 | 0x3C | 0x3E | 0x58 | 0x71 | 0x72 | 0x81 | 0x88 | 0xA9 | 0xB0 | 0xC3 | 0xC4 | 0xC6 | 0xC7 | 0xC8 | 0xC9 | 0xD0 | 0xE1 | 0xE3 | 0xE5 | 0xE8 | 0xF5 => 2
  | 0xFF => 0
  | n =>
    if n ≤ 0x09 || (0x10 ≤ n && n ≤ 0x26) || (0x30 ≤ n && n ≤ 0x36) || (0x38 ≤ n && n ≤ 0x3E) || (0x40 ≤ n && n ≤ 0x58)
      || (0x60 ≤ n && n ≤ 0x76) || (0x80 ≤ n && n ≤ 0x88) || (0x90 ≤ n && n ≤ 0x9B) || (0xA0 ≤ n && n ≤ 0xAD)
      || (0xB0 ≤ n && n ≤ 0xB6) || (0xC0 ≤ n && n ≤ 0xCB) || (0xD0 ≤ n && n ≤ 0xD3) || (0xE0 ≤ n && n ≤ 0xE9)
      || (0xF0 ≤ n && n ≤ 0xF6) then 1 else 0

/-- The lengths that an opcode permits (09 Table 9.8). -/
def lensOf (op : BitVec 8) : List Len :=
  match op.toNat with
  | 0x01 | 0x02 | 0x05 | 0x08 | 0x22 | 0x32 | 0x52 => [.l96]
  | 0x03 | 0x21 | 0xF3 => [.l128]
  | 0x90 | 0x91 | 0x92 | 0x93 | 0x94 | 0x95 | 0x96 | 0x97 | 0x98 | 0x99 | 0x9A | 0xA0 | 0xA1 | 0xA2 | 0xA3 | 0xA4 | 0xA5
  | 0xA6 | 0xB1 | 0xB2 | 0xE4 => [.l64, .l96]
  | _ => [.l64]

/-! ### Decoding -/

/-- The instruction whose encoding is exactly these fields, if it is well formed. -/
def Raw.instr (r : Raw) : Option Instr :=
  match r.toInstr with
  | some i => if i.toRaw = some r ∧ i.wf = true then some i else none
  | none => none

/-- The instruction that the base word names under some permitted length and some extension: what the field check of 09 R231
judges in a word whose length code is not permitted. An extension of 0, or 24 for LOOP, breaks no field. Assumption 5. -/
def Raw.baseInstr (r : Raw) : Option Instr :=
  (lensOf r.op).findSome? fun l =>
    [(0 : BitVec 64), 24].findSome? fun e => ({ r with len := l, ext := if l == Len.l64 then 0 else e }).instr

/-- Whether the base word has no bad field, whatever its length code. -/
def Raw.baseOk (r : Raw) : Bool := r.baseInstr.isSome

/-- What a word decodes to: an instruction with the bytes it occupies, or the causes that 09 R231 finds in the word
itself. -/
inductive Decoded where
  | ok (i : Instr) (bytes : Nat)
  | bad (opcode field length : Bool)
  deriving DecidableEq, Repr

/-- The clause header of a word whose length code is 0b11 (09 Table 9.5). -/
def decodeHeader (w : BitVec 64) : Decoded :=
  let i := Instr.clauseHeader (w.extractLsb' 2 12) (w.extractLsb' 14 4) (w.extractLsb' 18 4) (w.extractLsb' 22 6) (w.getLsbD 28)
  if w.extractLsb' 29 35 == 0 && i.wf then .ok i 8 else .bad false true false

/-- Decoding of the 16 bytes at a program counter, low word first; a 64-bit word uses the low half alone. Total. -/
def decode (w : BitVec 128) : Decoded :=
  if w.extractLsb' 0 2 == 3 then decodeHeader (w.extractLsb' 0 64)
  else
    let r := Raw.ofWord w
    if fnCount r.op ≤ r.fn.toNat then
      match r.instr with
      | some .udf => .ok .udf 8
      | _ => .bad true false false
    else if (lensOf r.op).contains r.len then
      match r.instr with
      | some i => .ok i r.len.bytes
      | none => .bad false true false
    else .bad false (!r.baseOk) true

/-- A clause header's word. -/
def headerWord (wait : BitVec 12) (seta setb : BitVec 4) (cnt : BitVec 6) (yield : Bool) : BitVec 64 :=
  (0 : BitVec 35) ++ BitVec.ofBool yield ++ cnt ++ setb ++ seta ++ wait ++ (3 : BitVec 2)

/-- The words of an instruction or clause header, as one number with the first byte lowest; `none` for an event. -/
def encode (i : Instr) : Option (BitVec 128) :=
  match i with
  | .clauseHeader wait seta setb cnt yield => some ((headerWord wait seta setb cnt yield).zeroExtend 128)
  | i => i.toRaw.map Raw.word

/-- The number that little-endian bytes make (00 R3). -/
def leNat : List Byte → Nat
  | [] => 0
  | b :: bs => b.toNat + 256 * leNat bs

/-- The `n` low bytes of a number, lowest first (00 R3). -/
def leBytes : Nat → Nat → List Byte
  | 0, _ => []
  | n + 1, v => BitVec.ofNat 8 v :: leBytes n (v / 256)

/-- Decoding of the first bytes of any byte list, absent bytes counting as 0. -/
def decodeBytes (bs : List Byte) : Decoded := decode (BitVec.ofNat 128 (leNat (bs.take 16)))

/-- The instruction that the decoder reads from an instruction whose bits are `w`, numbered from the first byte up. -/
def decodeTableWord (nbits w : Nat) : Option Instr :=
  match decodeBytes (leBytes 16 (w % 2 ^ nbits)) with
  | .ok i _ => some i
  | .bad _ _ _ => none

end Sys2Proof
end

