-- ==== Sys2Proof/Machine/Fetch.lean ====
section
/-! DEFINITION. Instruction fetch and the checks made before issue: clause state, causes of decoding, register budgets,
pending tokens (05 R133; 07 R172; 09 R215-R231; 13 R343). -/

namespace Sys2Proof.Machine

/-! ### Registers that an instruction names -/

/-- A vector operand of a type: a register, or the pair that a 64-bit element takes (11 R273). -/
def vPair (t : ETy) (r : VReg) : List Nat := if t.pair then [r.toNat, r.toNat + 1] else [r.toNat]

def vSrcV (t : ETy) : VSrc → List Nat
  | .reg r => vPair t r
  | .imm _ => []
  | .sc _ => []

def vSrcS : VSrc → List Nat
  | .reg _ => []
  | .imm _ => []
  | .sc r => [r.toNat]

def sSrcS : SSrc → List Nat
  | .reg r => [r.toNat]
  | .imm _ => []

def amodeS : AMode → List Nat
  | .cs _ b => [b.toNat]
  | .scrs b => [b.toNat]
  | .c _ => []
  | .cv _ _ => []
  | .cp _ _ => []
  | .scr => []
  | .scrv _ => []

def amodeV : AMode → List Nat
  | .cv _ b => [b.toNat]
  | .cp _ b => [b.toNat, b.toNat + 1]
  | .scrv b => [b.toNat]
  | .c _ => []
  | .cs _ _ => []
  | .scr => []
  | .scrs _ => []

/-- A token field: 0 names none (05 R132). -/
def tokenS (r : SReg) : List Nat := if r = 0 then [] else [r.toNat]

/-- `n` registers from `r` on. -/
def runS (r : SReg) (n : Nat) : List Nat := (List.range n).map fun i => r.toNat + i
def runV (r : VReg) (n : Nat) : List Nat := (List.range n).map fun i => r.toNat + i

/-- Every scalar register number that an instruction reads or writes. -/
def sUses : Instr → List Nat
  | .brc (.nz a) _ => [a.toNat]
  | .brc (.z a) _ => [a.toNat]
  | .call d _ => [d.toNat]
  | .ret a => [a.toNat]
  | .jmpi a => [a.toNat]
  | .loop a _ => [a.toNat]
  | .sadd _ d a y | .ssub _ d a y | .smul _ d a y | .smulh _ d a y | .sdiv _ d a y | .srem _ d a y
  | .sand _ d a y | .sor _ d a y | .sxor _ d a y | .sshl _ d a y | .sshr _ d a y | .ssra _ d a y
  | .smin _ d a y | .smax _ d a y | .scmp _ _ d a y => d.toNat :: a.toNat :: sSrcS y
  | .ssel _ d a b c => [d.toNat, a.toNat, b.toNat, c.toNat]
  | .smov _ d y => d.toNat :: sSrcS y
  | .sli _ d _ => [d.toNat]
  | .saddi _ d a _ => [d.toNat, a.toNat]
  | .sbfe _ d a _ _ => [d.toNat, a.toNat]
  | .sbfi _ d a _ _ => [d.toNat, a.toNat]
  | .spopc _ d a => [d.toNat, a.toNat]
  | .sclz _ d a => [d.toNat, a.toNat]
  | .cbnd _ _ _ b => [b.toNat]
  | .cinc _ _ b => [b.toNat]
  | .cperm _ _ b => [b.toNat]
  | .cget _ d _ => [d.toNat]
  | .ctest d _ b _ => [d.toNat, b.toNat]
  | .csub d _ _ => [d.toNat]
  | .kget d _ => [d.toNat]
  | .kset _ a => [a.toNat]
  | .kcnt d _ => [d.toNat]
  | .kfind _ d _ => [d.toNat]
  | .vadd _ _ _ _ _ y | .vsub _ _ _ _ _ y | .vmul _ _ _ _ _ y => vSrcS y
  | .vmulh _ _ _ _ y | .vand _ _ _ _ y | .vor _ _ _ _ y | .vxor _ _ _ _ y | .vshl _ _ _ _ y | .vshr _ _ _ _ y
  | .vsra _ _ _ _ y | .vmin _ _ _ _ y | .vmax _ _ _ _ y => vSrcS y
  | .vmad _ _ _ _ _ y _ => vSrcS y
  | .vcmp _ _ _ _ _ y => vSrcS y
  | .vsel _ _ _ _ y _ => vSrcS y
  | .vmov _ _ _ y => vSrcS y
  | .vdp4 _ _ _ _ _ _ y _ => vSrcS y
  | .vfadd _ _ _ _ _ y | .vfsub _ _ _ _ _ y | .vfmul _ _ _ _ _ y => vSrcS y
  | .vfma _ _ _ _ _ y _ => vSrcS y
  | .vfmin _ _ _ _ y | .vfmax _ _ _ _ y => vSrcS y
  | .vfcmp _ _ _ _ _ y => vSrcS y
  | .vfdiv _ _ _ _ _ y => vSrcS y
  | .vfscale _ _ _ _ _ y => vSrcS y
  | .vfdot2 _ _ _ _ _ y _ => vSrcS y
  | .vbcast (.ts d _) _ _ => [d.toNat]
  | .vred _ _ _ d _ => [d.toNat]
  | .vvote _ (.cnt d) _ _ => [d.toNat]
  | .vvote _ (.lo d) _ _ => [d.toNat]
  | .vvote _ (.hi d) _ _ => [d.toNat]
  | .vvote _ (.eq d) _ _ => [d.toNat]
  | .elect _ (.s d) => [d.toNat]
  | .ld _ _ _ d m _ => d.toNat :: amodeS m
  | .st _ _ _ d m _ => d.toNat :: amodeS m
  | .vld _ _ _ _ _ m _ | .vst _ _ _ _ _ m _ | .vldc _ _ _ _ _ m _ | .vstc _ _ _ _ _ m _ => amodeS m
  | .cld _ _ m _ => amodeS m
  | .cst _ _ m _ => amodeS m
  | .vlds _ _ _ _ m _ => amodeS m
  | .vsts _ _ _ _ m _ => amodeS m
  | .pref _ m _ => amodeS m
  | .l2pf _ t _ _ b => b.toNat :: tokenS t
  | .amo _ _ _ d m _ c => d.toNat :: c.toNat :: amodeS m
  | .acas _ _ d m _ c => d.toNat :: c.toNat :: amodeS m
  | .vamo _ _ _ _ _ m _ _ => amodeS m
  | .vacas _ _ _ _ m _ _ => amodeS m
  | .bop _ _ _ d m _ c => d.toNat :: c.toNat :: amodeS m
  | .bcas _ _ d m _ c => d.toNat :: c.toNat :: amodeS m
  | .vbop _ _ _ _ _ m _ _ => amodeS m
  | .bupd _ _ t _ _ b c => b.toNat :: c.toNat :: tokenS t
  | .acinit d _ b c => [d.toNat, b.toNat, c.toNat]
  | .adec _ d _ b => [d.toNat, b.toNat]
  | .ainc d _ b => [d.toNat, b.toNat]
  | .areadx d _ => runS d 2
  | .areada d _ => runS d 2
  | .acret d _ => [d.toNat]
  | .waitc _ _ _ _ d m _ x => d.toNat :: x.toNat :: amodeS m
  | .poll _ _ _ d m _ => d.toNat :: amodeS m
  | .bari d _ b => [d.toNat, b.toNat]
  | .bara _ d _ => [d.toNat]
  | .barw _ d _ b => [d.toNat, b.toNat]
  | .baraw _ d _ => [d.toNat]
  | .spawn m _ => amodeS m
  | .spawnl m _ => amodeS m
  | .fnew d _ => [d.toNat]
  | .ffill (.value b) d _ => d.toNat :: runS b 2
  | .ffill .cancel d _ => [d.toNat]
  | .join _ d _ => runS d 3
  | .joint d _ => runS d 3
  | .exit (some a) => runS a 2
  | .regrp _ d _ => [d.toNat]
  | .qpop _ d _ b => [d.toNat, b.toNat]
  | .qapp (.app b) d _ => [d.toNat, b.toNat]
  | .qapp .close d _ => [d.toNat]
  | .waitpred d => [d.toNat]
  | .plane _ _ _ _ d _ _ _ => [d.toNat]
  | .mfmt _ a => runS a 4
  | .cpy _ t _ _ _ c => c.toNat :: tokenS t
  | .cpyt _ _ t _ a b c => a.toNat :: b.toNat :: c.toNat :: tokenS t
  | .stage _ t _ a b c => a.toNat :: b.toNat :: c.toNat :: tokenS t
  | .drain _ _ _ t _ _ b c => b.toNat :: c.toNat :: tokenS t
  | .twait _ (.reg a _) => [a.toNat]
  | .tread _ d _ => runS d 5
  | .dpost t _ _ _ _ => tokenS t
  | .xsend t _ _ _ _ => tokenS t
  | .xwait _ d _ => [d.toNat]
  | .xstat d _ b => b.toNat :: runS d 2
  | .rdsr (.s d) _ => [d.toNat]
  | .wrsr _ a => [a.toNat]
  | .invv _ _ b => [b.toNat]
  | .cflush _ _ b => [b.toNat]
  | _ => []

/-- Every vector register number that an instruction reads or writes. -/
def vUses : Instr → List Nat
  | .vadd _ t _ d a y | .vsub _ t _ d a y | .vmul _ t _ d a y => vPair t d ++ vPair t a ++ vSrcV t y
  | .vmulh _ t d a y | .vand _ t d a y | .vor _ t d a y | .vxor _ t d a y | .vshl _ t d a y | .vshr _ t d a y
  | .vsra _ t d a y | .vmin _ t d a y | .vmax _ t d a y => vPair t d ++ vPair t a ++ vSrcV t y
  | .vmad _ t _ d a y c => vPair t d ++ vPair t a ++ vSrcV t y ++ vPair t c
  | .vnot _ t d a | .vpopc _ t d a | .vclz _ t d a | .vbrev _ t d a => vPair t d ++ vPair t a
  | .vabs _ t _ d a => vPair t d ++ vPair t a
  | .vcmp _ _ t _ a y => vPair t a ++ vSrcV t y
  | .vsel _ t d a y _ => vPair t d ++ vPair t a ++ vSrcV t y
  | .vmov _ t d y => vPair t d ++ vSrcV t y
  | .vli _ t d _ => vPair t d
  | .vbfe _ t d a _ _ => vPair t d ++ vPair t a
  | .vbfi _ t d a _ _ => vPair t d ++ vPair t a
  | .vdp4 _ _ _ _ d a y c => [d.toNat, a.toNat, c.toNat] ++ vSrcV .i32 y
  | .vfadd _ t _ d a y | .vfsub _ t _ d a y | .vfmul _ t _ d a y => vPair t d ++ vPair t a ++ vSrcV t y
  | .vfma _ t _ d a y c => vPair t d ++ vPair t a ++ vSrcV t y ++ vPair t c
  | .vfmin _ t d a y | .vfmax _ t d a y => vPair t d ++ vPair t a ++ vSrcV t y
  | .vfcmp _ _ t _ a y => vPair t a ++ vSrcV t y
  | .vfrcp _ t _ d a | .vfrsq _ t _ d a | .vfsqrt _ t _ d a | .vfexp2 _ t _ d a | .vflog2 _ t _ d a
  | .vfsin _ t _ d a | .vfcos _ t _ d a | .vftanh _ t _ d a => vPair t d ++ vPair t a
  | .vfdiv _ t _ d a y => vPair t d ++ vPair t a ++ vSrcV t y
  | .vfcvt _ ds ss _ _ d a =>
    (if cvtBits ds = 64 then vPair .f64 d else [d.toNat]) ++ (if cvtBits ss = 64 then vPair .f64 a else [a.toNat])
  | .vftoi _ _ t _ d a => vPair t d ++ vPair t a
  | .vitof _ _ t _ d a => vPair t d ++ vPair t a
  | .vfrnd _ t _ d a => vPair t d ++ vPair t a
  | .vfclass _ t d a => d.toNat :: vPair t a
  | .vfscale _ t _ d a y => vPair t d ++ vPair t a ++ vSrcV .i32 y
  | .vfdot2 _ _ _ d a y c => [d.toNat, a.toNat, c.toNat] ++ vSrcV .i32 y
  | .vshuf _ t d a b => b.toNat :: vPair t d ++ vPair t a
  | .vrot _ _ t d a _ => vPair t d ++ vPair t a
  | .vbcast (.lane _ d _) t a => vPair t d ++ vPair t a
  | .vbcast (.first _ d) t a => vPair t d ++ vPair t a
  | .vbcast (.ts _ _) t a => vPair t a
  | .vred _ _ t _ a => vPair t a
  | .vscan _ _ _ t d a => vPair t d ++ vPair t a
  | .vvote _ _ t a => vPair t a
  | .vcompact _ t d a => vPair t d ++ vPair t a
  | .vmatch _ t d a => d.toNat :: vPair t a
  | .vld _ _ t _ d m _ | .vst _ _ t _ d m _ | .vldc _ _ t _ d m _ | .vstc _ _ t _ d m _ => vPair t d ++ amodeV m
  | .vlds _ _ t d m _ => vPair t d ++ amodeV m
  | .vsts _ _ t d m _ => vPair t d ++ amodeV m
  | .vamo _ _ t _ d m _ c => vPair t d ++ vPair t c ++ amodeV m
  | .vacas _ t _ d m _ c => vPair t d ++ vPair t c ++ amodeV m
  | .vbop _ _ t _ d m _ c => vPair t d ++ vPair t c ++ amodeV m
  | .regrp (.range b c) _ _ => [b.toNat, c.toNat]
  | .plane _ _ _ _ _ a _ _ => [a.toNat]
  | .mma _ d a _ => a.toNat :: runV d 8
  | .mzero _ d => runV d 8
  | .drain _ _ _ _ _ a _ _ => runV a 8
  | .phint d a b c _ _ _ => [d.toNat, a.toNat, b.toNat, c.toNat]
  | .rdsr (.v d) _ => [d.toNat]
  | _ => []

/-- Every register lies within the group's budgets (07 R172). -/
def inBudget (v s : Nat) (i : Instr) : Bool := (vUses i).all (· < v) && (sUses i).all (· < s)

/-- Whether the scoreboard holds the instruction for a pending token (05 R133, 14 R368). -/
def tokenStall (g : Group) (i : Instr) : Bool :=
  match i with
  | .twait _ _ => false
  | .tread _ _ _ => false
  | _ => g.tokens.any fun t => (sUses i).contains t.reg.toNat

/-- The capability register of a memory operand. -/
def amodeC : AMode → List Nat
  | .c a => [a.toNat]
  | .cs a _ => [a.toNat]
  | .cv a _ => [a.toNat]
  | .cp a _ => [a.toNat]
  | .scr => []
  | .scrs _ => []
  | .scrv _ => []

/-- The sources of a memory operand: scalar, vector and capability register numbers. -/
def amodeSrc (m : AMode) (s v c : List Nat) : List Nat × List Nat × List Nat := (s ++ amodeS m, v ++ amodeV m, c ++ amodeC m)

/-- The registers that a counted instruction reads: scalar, vector and capability numbers (09 R226). -/
def countSrc : Instr → List Nat × List Nat × List Nat
  | .ld _ _ _ _ m _ => amodeSrc m [] [] []
  | .st _ _ _ d m _ => amodeSrc m [d.toNat] [] []
  | .vld _ _ _ _ _ m _ | .vldc _ _ _ _ _ m _ => amodeSrc m [] [] []
  | .vst _ _ t _ d m _ | .vstc _ _ t _ d m _ => amodeSrc m [] (vPair t d) []
  | .cld _ _ m _ => amodeSrc m [] [] []
  | .cst _ d m _ => amodeSrc m [] [] [d.toNat]
  | .vlds _ _ _ _ m _ => amodeSrc m [] [] []
  | .vsts _ _ t d m _ => amodeSrc m [] (vPair t d) []
  | .pref _ m _ => amodeSrc m [] [] []
  | .poll _ _ _ _ m _ => amodeSrc m [] [] []
  | .amo _ _ _ _ m _ c => amodeSrc m [c.toNat] [] []
  | .acas _ _ d m _ c => amodeSrc m [c.toNat, d.toNat] [] []
  | .vamo _ _ t _ _ m _ c => amodeSrc m [] (vPair t c) []
  | .vacas _ t _ d m _ c => amodeSrc m [] (vPair t c ++ vPair t d) []
  | .bop _ _ _ _ m _ c => amodeSrc m [c.toNat] [] []
  | .bcas _ _ d m _ c => amodeSrc m [c.toNat, d.toNat] [] []
  | .vbop _ _ t _ _ m _ c => amodeSrc m [] (vPair t c) []
  | .acinit _ a b c => ([b.toNat, c.toNat], [], [a.toNat])
  | .adec _ _ a b => ([b.toNat], [], [a.toNat])
  | .ainc _ a b => ([b.toNat], [], [a.toNat])
  | .areadx _ a => ([], [], [a.toNat])
  | .areada _ a => ([], [], [a.toNat])
  | .acret _ a => ([], [], [a.toNat])
  | .plane _ _ _ _ d a _ _ => ([d.toNat], [a.toNat], [])
  | .mfmt _ a => (runS a 4, [], [])
  | .mma _ d a _ => ([], a.toNat :: runV d 8, [])
  | .vfrcp _ t _ _ a | .vfrsq _ t _ _ a | .vfsqrt _ t _ _ a | .vfexp2 _ t _ _ a | .vflog2 _ t _ _ a
  | .vfsin _ t _ _ a | .vfcos _ t _ _ a | .vftanh _ t _ _ a => ([], vPair t a, [])
  | .vfdiv _ t _ _ a y => (vSrcS y, vPair t a ++ vSrcV t y, [])
  | _ => ([], [], [])

/-- Whether a counted instruction must wait: its flag is full (09 R225), or a register that it reads depends on an earlier
operation of its path whose accesses have not returned (09 R226; assumption 17). -/
def State.countStall (s : State) (i : Instr) : Bool :=
  match countedClass i with
  | none => false
  | some cls =>
    let full := match s.p.flagOf cls with
      | some f => decide (255 ≤ s.flagCount s.cur.gid s.cur.b f) && (s.parkedOp s.cur.gid s.cur.b).isNone
      | none => false
    let src := countSrc i
    full || s.ops.any fun o => o.2.gid == s.cur.gid && o.2.charged s.cur.b && !o.2.parked &&
      (o.2.fin.regs.1.any src.1.contains || o.2.fin.regs.2.1.any src.2.1.contains || o.2.fin.regs.2.2.any src.2.2.contains)

/-- The earlier operations of the issuing path that will write, with values already known, a register that an instruction
reads. -/
def State.feeders (s : State) (i : Instr) : List (Nat × OpRec) :=
  if (countedClass i).isNone then []
  else s.ops.filter fun o => o.2.gid == s.cur.gid && o.2.charged s.cur.b && !o.2.parked && o.2.writes.any (·.within (countSrc i))

/-- The registers that a counted instruction reads, as earlier operations of its path will leave them: it takes their results
without stalling (09 R226). -/
def State.forward (s : State) (i : Instr) : State :=
  s.modG fun g => (s.feeders i).foldl (fun g o => (o.2.writes.filter (·.within (countSrc i))).foldl Group.put g) g

/-- After the issue of such an instruction its group's registers stand as they did; the operation completes after those whose
results it took. -/
def State.unforward (t s : State) (i : Instr) : State :=
  let u := t.modGrp s.cur.gid fun g => { g with sregs := s.g.sregs, vregs := s.g.vregs, cregs := s.g.cregs }
  let new (id : Nat) (o : OpRec) : Bool := o.gid == s.cur.gid && (decide (s.fresh ≤ id) || s.parkedOp s.cur.gid s.cur.b == some id)
  { u with ops := u.ops.map fun (o : Nat × OpRec) => if new o.1 o.2 then (o.1, { o.2 with after := (s.feeders i).map (·.1) }) else o }

/-- Runs a meaning on an instruction whose sources come from earlier operations; any other runs as it stands. -/
def State.withSources (s : State) (i : Instr) (f : State → Host.Outcome State Fault Refusal) : Host.Outcome State Fault Refusal :=
  if (s.feeders i).isEmpty then f s
  else match f (s.forward i) with
    | .next t => .next (t.unforward s i)
    | .fault e => .fault e
    | .refused r => .refused r

/-! ### Fetch (09 R216, R231; 13 R343) -/

/-- What a fetch of bytes gives. -/
inductive Fetched where
  | ok (bs : List Byte)
  /-- a lease or a dirty guest line stands before the read; what ends it is on its way -/
  | wait
  | fault (f : TFault)
  /-- a failure of the CODE capability, or an uncorrectable error -/
  | bad
  deriving DecidableEq, Repr

/-- The fetch of a 32-byte block through the core's instruction cache; a miss reads at the serving slice as a .sl load
does. -/
def State.fetchBlock (s : State) (core asid va : Nat) : State × Fetched :=
  let base := va / 32 * 32
  match (s.core core).icache.find? fun e => e.1 == asid && e.2.1 == base with
  | some e => (s, .ok (bytesOf 32 e.2.2.toNat))
  | none =>
    match s.translate (dieOf core) asid base .fetch with
    | (s1, .error f) => (s1, .fault f)
    | (s1, .ok t) =>
      if s1.poisoned t.pa 32 then (s1, .bad)
      else
        let (s2, free) := if t.page.mt = 0 then s1.homeReady (dieOf core) t.pa 32 else (s1, true)
        if !free then (s2, .wait)
        else
          let bs := s2.read t.pa 32
          let s3 := if t.page.mt = 0 then s2.accountAt (homeDie t.pa) t.pa 32 .sl else s2
          (s3.modCore core fun c => { c with icache := c.icache ++ [(asid, base, BitVec.ofNat 256 (natOf bs))] }, .ok bs)

/-- The fetch of `n` bytes, which lie in one block, through the CODE capability (01 R14, 09 R216). -/
def State.fetchAt (s : State) (core asid : Nat) (code : Cap) (va n : Nat) : State × Fetched :=
  if (code.check .fetch va n).isSome then (s, .bad)
  else
    match s.fetchBlock core asid va with
    | (s', .ok bs) => (s', .ok ((bs.drop (va % 32)).take n))
    | r => r

/-- The extension of an instruction whose word has been fetched, from the same block: the fetch is checked once (09 R216). -/
def State.extensionAt (s : State) (core asid va : Nat) : Nat :=
  match (s.fetchBlock core asid va).2 with
  | .ok bs => natOf ((bs.drop (va % 32 + 8)).take 8)
  | .wait => 0
  | .fault _ => 0
  | .bad => 0

/-! ### From program counter to issue (09 R231) -/

/-- What the path's next word comes to. -/
inductive Ready where
  | issue (i : Instr) (bytes : Nat)
  | wait
  | fetch (f : Fetched) (va : Nat)
  | trap (code : Nat)
  deriving DecidableEq, Repr

/-- The causes of 09 R231 for a decoded word, lowest first. -/
def decodeCause (pc : VA) (left : Nat) (v sb : Nat) (header long : Bool) (d : Decoded) : Option Nat :=
  let (op, fld, len) := match d with
    | .ok i _ => (false, !inBudget v sb i, false)
    | .bad o f l => (o, f, l)
  let udf := match d with | .ok .udf _ => true | _ => false
  if long && bitsAt pc.toNat 0 5 == 0x18 then some Code.fetchAlign
  else if op then some Code.illegalOpcode
  else if fld then some Code.illegalField
  else if len || (header && decide (0 < left)) then some Code.illegalLength
  else if !header && left == 0 && !udf then some Code.clauseOverrun
  else none

/-- The field check of a word whose length code is not permitted takes in the register budgets (09 R218, R231). -/
def inBudgets (v sb : Nat) (w : BitVec 128) : Decoded → Decoded
  | .bad o f true => .bad o (f || (match (Raw.ofWord w).baseInstr with | some i => !inBudget v sb i | none => false)) true
  | .bad o f false => .bad o f false
  | .ok i n => .ok i n

/-- Fetches and decodes the issuing path's next word (09 R231). -/
def State.nextInstr (s : State) : State × Ready :=
  let g := s.g
  let p := s.p
  let pc := p.pc.toNat
  if pc % 8 ≠ 0 then (s, .trap Code.fetchAlign)
  else
    match s.launchOf g with
    | none => (s, .fetch .bad pc)
    | some l =>
      match s.fetchAt g.core g.asid l.code pc 8 with
      | (t, .ok lo) =>
        let w0 := natOf lo
        let long := w0 % 4 == 1 || w0 % 4 == 2
        let w := BitVec.ofNat 128 (w0 + if long then t.extensionAt g.core g.asid pc * 2 ^ 64 else 0)
        let d := inBudgets g.v g.s w (decode w)
        match decodeCause p.pc p.left g.v g.s (w0 % 4 == 3) long d with
        | some c => (t, .trap c)
        | none =>
          match d with
          | .ok i n => if tokenStall g i || t.countStall i then (t, .wait) else (t, .issue i n)
          | .bad _ _ _ => (t, .trap Code.illegalField)
      | (t, f) => (t, .fetch f pc)

/-- A fetch that failed (16 Table 16.1, FETCH_FAULT; R395). -/
def State.fetchFailed (s : State) (f : Fetched) (va : Nat) : State :=
  match f with
  | .fault t =>
    if t.code = Code.ordReserved then s.trap Code.fetchFault (BitVec.ofNat 64 va) s.act
    else s.pageFault Code.fetchFault t.kind 3 va s.act
  | .bad => s.trap Code.fetchFault (BitVec.ofNat 64 va) s.act
  | .wait => s
  | .ok _ => s

end Sys2Proof.Machine
end

