-- ==== Sys2Proof/Machine/Control.lean ====
section
/-! DEFINITION. The control instructions and the clause header (07 R175-R178, 09 R222-R225, 10 R248-R258). -/

namespace Sys2Proof.Machine

/-! ### The reconvergence stacks (07 R178) -/

/-- Both stacks' entries. -/
def Group.stackTotal (g : Group) : Nat := g.pa.stack.length + g.pb.stack.length

def Group.onChip (g : Group) : List StackEntry := (g.pa.stack ++ g.pb.stack).filter (·.onChip)

/-- The oldest of some entries. -/
def oldestSeq (l : List StackEntry) : Option Nat := (l.map (·.seq)).min?

/-- Moves the entry of an age to the spill area. -/
def spillSeq (n : Nat) (l : List StackEntry) : List StackEntry := l.map fun e => if e.seq = n then { e with onChip := false } else e

/-- The 32 bytes of an entry of a path (07 Table 7.1), as the spill area and a save record hold them. -/
def StackEntry.image (e : StackEntry) (b : Bool) : BitVec 256 :=
  BitVec.ofNat 256 (e.rpc.toNat / 8 + e.pc.toNat / 8 * 2 ^ 64 + e.mask.toNat * 2 ^ 160 + (if e.deferred then 0 else 2 ^ 192) +
    if b then 2 ^ 193 else 0)

/-- A push by path `b`: with all 32 on-chip entries in use, the oldest moves to the spill area. -/
def Group.push (g : Group) (b : Bool) (seq : Nat) (mask : Mask) (pc rpc : VA) : Group :=
  let g := if g.onChip.length < 32 then g
    else match oldestSeq g.onChip with
      | some n => { g with pa := { g.pa with stack := spillSeq n g.pa.stack }, pb := { g.pb with stack := spillSeq n g.pb.stack } }
      | none => g
  g.setPath b { g.path b with stack := ⟨true, mask, pc, rpc, seq, true⟩ :: (g.path b).stack }

/-- A stack after a pop: when no entry of the path is left on chip, the newest spilled one returns. -/
def refillTop : List StackEntry → List StackEntry
  | [] => []
  | e :: r => if (e :: r).any (·.onChip) then e :: r else { e with onChip := true } :: r

/-! ### Transfers -/

/-- A signed offset added to an address, modulo 2^57 (10 R248). -/
def branchTo (pc : VA) (off : W32) : VA := pc + (off.signExtend 57)

def execNop (s : State) : Host.Outcome State Fault Refusal := .next (s.retire 8)

def execBr (off : W32) (s : State) : Host.Outcome State Fault Refusal := .next (s.modP fun p => p.jump (branchTo p.pc off))

/-- Whether a BRC is taken (10 R251). -/
def State.brTaken (s : State) : BrCond → Bool
  | .any q => s.p.mask &&& s.predBits q != 0
  | .all q => s.p.mask &&& s.predBits q == s.p.mask
  | .nz a => s.rs a != 0
  | .z a => s.rs a == 0

def execBrc (c : BrCond) (off : W32) (s : State) : Host.Outcome State Fault Refusal :=
  .next (if s.brTaken c then s.modP fun p => p.jump (branchTo p.pc off) else s.retire 16)

/-- The new path that a BRD creates in the free slot (07 R175, R176; 10 R256): its mask, its target, the shared
reconvergence address, and the charge of every operation of the issuing path. -/
def State.forkPath (s : State) (tm : Mask) (t rc : VA) : State :=
  let p := s.p
  let s1 := s.modG fun g => g.setPath (!s.cur.b)
    { live := true, mask := tm, pc := t, rpc := rc, partner := true, loops := breakLoops p.pc t p.loops }
  let s2 := { s1 with ops := s1.ops.map fun (o : Nat × OpRec) =>
    if o.2.gid = s.cur.gid ∧ (if s.cur.b then o.2.chB else o.2.chA) then (o.1, { o.2 with chA := true, chB := true }) else o }
  (s2.modP fun p => { p with mask := p.mask &&& ~~~tm, rpc := rc, partner := true }).retire 16

/-- The failure of the spill that a push asks for: with all 32 on-chip entries in use, the oldest goes to memory (07 R178). That the
access of a pop never fails is the model's choice (assumption 131). -/
def State.spillFault (s : State) : Option W64 := if s.g.onChip.length < 32 then none else Config.spillFails s.fresh

/-- Pushes the deferred side on the issuing path's stack and falls through (07 R175). -/
def State.deferSide (s : State) (tm : Mask) (t rc : VA) : State :=
  (({ s with fresh := s.fresh + 1 }.modG fun g => g.push s.cur.b s.fresh tm t rc).modP fun p =>
    { p with mask := p.mask &&& ~~~tm }).retire 16

def execBrd (q : Pred) (t rc : W32) (s : State) : Host.Outcome State Fault Refusal :=
  let p := s.p
  let tm := p.mask &&& s.predBits q
  let tt := branchTo p.pc t
  let r := branchTo p.pc rc
  .next (
    if tm = p.mask then s.modP fun p => p.jump tt
    else if tm = 0 then s.retire 16
    else if !s.q.live then s.forkPath tm tt r
    else if s.g.stackTotal ≥ 2080 then s.trapAll Code.spill 0
    else match s.spillFault with
      | some a => s.bump.trapAll Code.spill a
      | none => s.deferSide tm tt r)

/-- Held ARITH causes of two paths that merge: their flags are ORed (11 R291). -/
def joinHeld : Option Cause → Option Cause → Option Cause
  | none, y => y
  | x, none => x
  | some x, some y => some ⟨x.code, x.faddr ||| y.faddr⟩

/-- The merge of the two paths at RECONV into slot A (07 R176, R177; 10 R256, R258). -/
def State.mergePaths (s : State) : State :=
  let left := s.p.left
  let pc := s.p.pc
  let s1 := s.modG fun g =>
    let a := g.pa
    { g with
      pa := { a with
        live := true, mask := g.pa.mask ||| g.pb.mask, stack := g.pb.stack ++ g.pa.stack, partner := false, rpc := 0
        wait := .none, pc := pc, left := left, held := joinHeld g.pa.held g.pb.held, seta := (g.path s.cur.b).seta, setb := (g.path s.cur.b).setb }
      pb := {} }
  let s2 := { s1 with ops := s1.ops.map fun (o : Nat × OpRec) =>
    if o.2.gid = s.cur.gid then (o.1, { o.2 with chA := o.2.chA || o.2.chB, chB := false, b := false }) else o }
  { s2 with cur := ⟨s.cur.gid, false⟩ }.retire 8

/-- `reconv(P, X)` of 07 R177, with X the issuing path's program counter. -/
def State.reconvAt : Nat → State → State
  | 0, s => s
  | fuel + 1, s =>
    let p := s.p
    match p.stack with
    | e :: r =>
      if e.rpc = p.pc then
        if e.deferred then
          -- run the deferred side
          s.modP fun p => { p.jump e.pc with stack := { e with deferred := false, mask := p.mask, pc := 0 } :: r, mask := e.mask }
        else State.reconvAt fuel (s.modP fun p => { p with mask := p.mask ||| e.mask, stack := refillTop r })
      else if p.partner && p.rpc == p.pc then
        if s.q.live && s.q.wait == .reconv && s.q.pc == p.pc then s.mergePaths else s.park .reconv
      else s.retire 8
    | [] =>
      if p.partner && p.rpc == p.pc then
        if s.q.live && s.q.wait == .reconv && s.q.pc == p.pc then s.mergePaths else s.park .reconv
      else s.retire 8

def execReconv (s : State) : Host.Outcome State Fault Refusal := .next (s.reconvAt (s.p.stack.length + 1))

def execCall (d : SReg) (off : W32) (s : State) : Host.Outcome State Fault Refusal :=
  .next ((s.ws d ((s.p.pc + 16).zeroExtend 64)).modP fun p => p.goto (branchTo p.pc off))

/-- RET and JMPI, which have one effect (10 R254), and the handler return (16 R393). -/
def State.goReg (s : State) (a : SReg) : State :=
  let v := s.rs a
  if v.extractLsb' 57 7 ≠ 0 then s.trapAll Code.fetchFault v
  else
    match s.p.frame with
    | some f => if v = s.g.epc then s.handlerReturn f else s.modP fun p => p.goto (v.truncate 57)
    | none => s.modP fun p => p.goto (v.truncate 57)

def execRet (a : SReg) (s : State) : Host.Outcome State Fault Refusal := .next (s.goReg a)

def execJmpi (a : SReg) (s : State) : Host.Outcome State Fault Refusal := .next (s.goReg a)

/-- LOOP with a count of 0 skips the body: the length of the last instruction comes from its word (10 R257). -/
def State.skipLoop (s : State) (fin : VA) : State :=
  let g := s.g
  match s.launchOf g with
  | none => s.fetchFailed .bad fin.toNat
  | some l =>
    match s.fetchAt g.core g.asid l.code fin.toNat 8 with
    | (t, .ok bs) =>
      let len := natOf bs % 4
      t.modP fun p =>
        let r := endLoops p.pc p.loops
        { p.used with pc := r.2.getD (fin + (if len = 1 ∨ len = 2 then 16 else 8)), left := 0, loops := r.1 }
    | (t, f) => t.fetchFailed f fin.toNat

def execLoop (a : SReg) (off : W32) (s : State) : Host.Outcome State Fault Refusal :=
  let p := s.p
  let n := s.rs a
  let fin := branchTo p.pc off
  .next (
    if p.loops.length ≥ 4 then s.trapAll Code.spill 0
    else if n = 0 then s.skipLoop fin
    else s.modP fun p => { p.used with pc := p.pc + 16, left := 0, loops := ⟨p.pc + 16, fin, n⟩ :: p.loops })

def execYield (s : State) : Host.Outcome State Fault Refusal := .next (s.retire 8)

/-! ### The clause header (09 R222-R225) -/

/-- Every flag that WAIT names is clear (09 R225). -/
def State.flagsClear (s : State) (wait : BitVec 12) : Bool :=
  (List.range 12).all fun i => !wait.getLsbD i || s.flagCount s.cur.gid s.cur.b i == 0

/-- An accepted header: left := COUNT, SETA and SETB recorded, the path at the first instruction (09 R223). -/
def Path.header (p : Path) (seta setb : BitVec 4) (cnt : BitVec 6) : Path :=
  { p with left := cnt.toNat + 1, seta := seta, setb := setb, pc := p.pc + 8, replay := none, promoted := none, steps := p.steps.map fun _ => 0 }

def execClauseHeader (wait : BitVec 12) (seta setb : BitVec 4) (cnt : BitVec 6) (_yield : Bool) (s : State) :
    Host.Outcome State Fault Refusal :=
  .next (if s.flagsClear wait then s.modP fun p => p.header seta setb cnt else s)

end Sys2Proof.Machine
end

