-- ==== Sys2Proof/Machine/Scalar.lean ====
section
/-! DEFINITION. The scalar instructions (10 R259-R263). Operands are the low w bits of their sources as numbers; a
result is a number whose low w bits are extended into the 64-bit register. -/

namespace Sys2Proof.Machine

/-- The low w bits of a scalar register (10 R259). -/
def State.sval (s : State) (ty : STy) (r : SReg) : Nat := (s.rs r).toNat % 2 ^ styWidth ty

/-- The second operand: a register, or C extended as its type says (10 R260). -/
def State.ssrc (s : State) (ty : STy) : SSrc → Nat
  | .reg r => s.sval ty r
  | .imm v => (if stySigned ty then v.signExtend 64 else v.zeroExtend 64).toNat % 2 ^ styWidth ty

/-- A w-bit number as a signed integer. -/
def signedOf (w x : Nat) : Int := if x % 2 ^ w < 2 ^ (w - 1) then (x % 2 ^ w : Nat) else (x % 2 ^ w : Nat) - (2 ^ w : Nat)

/-- An integer's low w bits. -/
def wrapTo (w : Nat) (x : Int) : Nat := (x % ((2 ^ w : Nat) : Int)).toNat

/-- The value of an operand as its type reads it. -/
def valueOf (ty : STy) (x : Nat) : Int := if stySigned ty then signedOf (styWidth ty) x else x

/-- Writes a w-bit result and moves on. -/
def State.putS (s : State) (ty : STy) (d : SReg) (v : Nat) (bytes : Nat) : State := (s.ws d (extendS ty v)).retire bytes

/-- A two-operand instruction whose result is a function of the type and the two w-bit operands. -/
def State.scalar2 (s : State) (f : STy → Nat → Nat → Nat) (ty : STy) (d a : SReg) (y : SSrc) : State :=
  s.putS ty d (f ty (s.sval ty a) (s.ssrc ty y)) 8

/-! ### Results (10 Table 10.2, R261, R262) -/

def sAdd (ty : STy) (x y : Nat) : Nat := (x + y) % 2 ^ styWidth ty
def sSub (ty : STy) (x y : Nat) : Nat := (x + 2 ^ styWidth ty - y) % 2 ^ styWidth ty
def sMul (ty : STy) (x y : Nat) : Nat := x * y % 2 ^ styWidth ty
def sMulh (ty : STy) (x y : Nat) : Nat := wrapTo (styWidth ty) (valueOf ty x * valueOf ty y / ((2 ^ styWidth ty : Nat) : Int))
/-- Truncation toward zero; division by zero gives all ones (10 R261). -/
def sDiv (ty : STy) (x y : Nat) : Nat :=
  if y = 0 then 2 ^ styWidth ty - 1 else wrapTo (styWidth ty) ((valueOf ty x).tdiv (valueOf ty y))
/-- The remainder has the sign of x; by zero it is x (10 R261). -/
def sRem (ty : STy) (x y : Nat) : Nat :=
  if y = 0 then x else wrapTo (styWidth ty) ((valueOf ty x).tmod (valueOf ty y))
def sAnd (_ : STy) (x y : Nat) : Nat := x &&& y
def sOr (_ : STy) (x y : Nat) : Nat := x ||| y
def sXor (_ : STy) (x y : Nat) : Nat := x ^^^ y
def sShl (ty : STy) (x y : Nat) : Nat := x * 2 ^ (y % styWidth ty) % 2 ^ styWidth ty
def sShr (ty : STy) (x y : Nat) : Nat := x / 2 ^ (y % styWidth ty)
def sSra (ty : STy) (x y : Nat) : Nat :=
  wrapTo (styWidth ty) (signedOf (styWidth ty) x / ((2 ^ (y % styWidth ty) : Nat) : Int))
def sMin (ty : STy) (x y : Nat) : Nat := if valueOf ty x ≤ valueOf ty y then x else y
def sMax (ty : STy) (x y : Nat) : Nat := if valueOf ty x ≤ valueOf ty y then y else x

/-- The number of 1 bits among the low w. -/
def popBits (w x : Nat) : Nat := ((List.range w).filter x.testBit).length

/-- Leading zeros of x in w bits (10 Table 10.2). -/
def leadZeros (w x : Nat) : Nat := if x % 2 ^ w = 0 then w else w - 1 - Nat.log2 (x % 2 ^ w)

/-- A bit field extracted and extended within w bits (10 R262). -/
def extractField (signed : Bool) (w x pos len : Nat) : Nat :=
  if signed then wrapTo w (signedOf len (x / 2 ^ pos)) else bitsAt x pos len

/-! ### The instructions -/

def execSadd (ty : STy) (d a : SReg) (y : SSrc) (s : State) : Host.Outcome State Fault Refusal := .next (s.scalar2 sAdd ty d a y)
def execSsub (ty : STy) (d a : SReg) (y : SSrc) (s : State) : Host.Outcome State Fault Refusal := .next (s.scalar2 sSub ty d a y)
def execSmul (ty : STy) (d a : SReg) (y : SSrc) (s : State) : Host.Outcome State Fault Refusal := .next (s.scalar2 sMul ty d a y)
def execSmulh (ty : STy) (d a : SReg) (y : SSrc) (s : State) : Host.Outcome State Fault Refusal := .next (s.scalar2 sMulh ty d a y)
def execSdiv (ty : STy) (d a : SReg) (y : SSrc) (s : State) : Host.Outcome State Fault Refusal := .next (s.scalar2 sDiv ty d a y)
def execSrem (ty : STy) (d a : SReg) (y : SSrc) (s : State) : Host.Outcome State Fault Refusal := .next (s.scalar2 sRem ty d a y)
def execSand (ty : STy) (d a : SReg) (y : SSrc) (s : State) : Host.Outcome State Fault Refusal := .next (s.scalar2 sAnd ty d a y)
def execSor (ty : STy) (d a : SReg) (y : SSrc) (s : State) : Host.Outcome State Fault Refusal := .next (s.scalar2 sOr ty d a y)
def execSxor (ty : STy) (d a : SReg) (y : SSrc) (s : State) : Host.Outcome State Fault Refusal := .next (s.scalar2 sXor ty d a y)
def execSshl (ty : STy) (d a : SReg) (y : SSrc) (s : State) : Host.Outcome State Fault Refusal := .next (s.scalar2 sShl ty d a y)
def execSshr (ty : STy) (d a : SReg) (y : SSrc) (s : State) : Host.Outcome State Fault Refusal := .next (s.scalar2 sShr ty d a y)
def execSsra (ty : STy) (d a : SReg) (y : SSrc) (s : State) : Host.Outcome State Fault Refusal := .next (s.scalar2 sSra ty d a y)
def execSmin (ty : STy) (d a : SReg) (y : SSrc) (s : State) : Host.Outcome State Fault Refusal := .next (s.scalar2 sMin ty d a y)
def execSmax (ty : STy) (d a : SReg) (y : SSrc) (s : State) : Host.Outcome State Fault Refusal := .next (s.scalar2 sMax ty d a y)

/-- A comparison writes 1 or 0 unchanged (10 R259, R263). -/
def execScmp (c : Cmp) (ty : STy) (d a : SReg) (y : SSrc) (s : State) : Host.Outcome State Fault Refusal :=
  .next ((s.ws d (if cmpHolds (stySigned ty) c (styWidth ty) (s.sval ty a) (s.ssrc ty y) then 1 else 0)).retire 8)

def execSsel (_ : STy) (d a b c : SReg) (s : State) : Host.Outcome State Fault Refusal :=
  .next ((s.ws d (if s.rs c ≠ 0 then s.rs a else s.rs b)).retire 8)

def execSmov (ty : STy) (d : SReg) (y : SSrc) (s : State) : Host.Outcome State Fault Refusal :=
  .next (s.putS ty d (s.ssrc ty y) 8)

def execSli (_ : STy) (d : SReg) (imm : W64) (s : State) : Host.Outcome State Fault Refusal := .next ((s.ws d imm).retire 16)

/-- IMM32 is extended as C would be (10 Table 10.2). -/
def execSaddi (ty : STy) (d a : SReg) (imm : W32) (s : State) : Host.Outcome State Fault Refusal :=
  .next (s.putS ty d (sAdd ty (s.sval ty a)
    ((if stySigned ty then imm.signExtend 64 else imm.zeroExtend 64).toNat % 2 ^ styWidth ty)) 16)

def execSbfe (ty : STy) (d a : SReg) (pos len : Byte) (s : State) : Host.Outcome State Fault Refusal :=
  .next (s.putS ty d (extractField (stySigned ty) (styWidth ty) (s.sval ty a) pos.toNat len.toNat) 8)

def execSbfi (ty : STy) (d a : SReg) (pos len : Byte) (s : State) : Host.Outcome State Fault Refusal :=
  .next (s.putS ty d (setBits (s.sval ty d) pos.toNat len.toNat (s.sval ty a)) 8)

def execSpopc (ty : STy) (d a : SReg) (s : State) : Host.Outcome State Fault Refusal :=
  .next ((s.ws d (BitVec.ofNat 64 (popBits (styWidth ty) (s.sval ty a)))).retire 8)

def execSclz (ty : STy) (d a : SReg) (s : State) : Host.Outcome State Fault Refusal :=
  .next ((s.ws d (BitVec.ofNat 64 (leadZeros (styWidth ty) (s.sval ty a)))).retire 8)

end Sys2Proof.Machine
end

