-- ==== Sys2Proof/Machine/Capability.lean ====
section
/-! DEFINITION. The capability instructions (10 R264-R270). -/

namespace Sys2Proof.Machine

/-- CBND on a capability: the narrowed capability, or the cause (10 R265). -/
def narrow (ex : Bool) (c : Cap) (len : Nat) : Except Nat Cap :=
  let b := c.cursor
  if !c.tag then .error Code.capTag
  else if b + len > 2 ^ 57 then .error Code.capBounds
  else
    let (e, bm, tm) := encodeBounds b len
    let nb := b / 2 ^ e * 2 ^ e
    let nt := ceilDiv (b + len) (2 ^ e) * 2 ^ e
    if (nb : Int) < c.bounds.base ∨ (nt : Int) > c.bounds.top then .error Code.capBounds
    else if ex ∧ (nb ≠ b ∨ nt ≠ b + len) then .error Code.capBounds
    else .ok (Cap.make tm bm e c.perms b true)

/-- sr.faddr of a CBND trap is the cursor: it makes no access (assumption 16). -/
def execCbnd (ex : Bool) (d a : CReg) (b : SReg) (s : State) : Host.Outcome State Fault Refusal :=
  .next (match narrow ex (s.rc a) (s.rs b).toNat with
    | .ok c => (s.wc d c).retire 8
    | .error code => s.trapAll code (BitVec.ofNat 64 (s.rc a).cursor))

def execCinc (d a : CReg) (b : SReg) (s : State) : Host.Outcome State Fault Refusal :=
  .next ((s.wc d ((s.rc a).move (((s.rc a).cursor : Int) + (s.rs b).toInt))).retire 8)

def execCinci (d a : CReg) (imm : W32) (s : State) : Host.Outcome State Fault Refusal :=
  .next ((s.wc d ((s.rc a).move (((s.rc a).cursor : Int) + imm.toInt))).retire 16)

/-- Permission bits ANDed with a mask, everything else copied (10 R267). -/
def Cap.restrict (c : Cap) (m : BitVec 7) : Cap :=
  ⟨c.bits &&& ((BitVec.allOnes 64 ++ m) ++ BitVec.allOnes 57), c.tag⟩

def execCperm (d a : CReg) (b : SReg) (s : State) : Host.Outcome State Fault Refusal :=
  .next ((s.wc d (Cap.restrict (s.rc a) ((s.rs b).extractLsb' 0 7))).retire 8)

/-- What CGET reads (10 R268). -/
def capField (f : CField) (c : Cap) : W64 :=
  let big := decide (33 < c.e)
  match f with
  | .cursor => BitVec.ofNat 64 c.cursor
  | .base => if big then 0 else BitVec.ofInt 64 c.bounds.base
  | .top => if big then 0 else BitVec.ofInt 64 c.bounds.top
  | .len => if big then 0 else BitVec.ofNat 64 (c.bounds.top - c.bounds.base).toNat
  | .perm => BitVec.ofNat 64 c.perms
  | .tag => if c.tag then 1 else 0
  | .e => BitVec.ofNat 64 c.e
  | .lo => c.bits.extractLsb' 0 64
  | .hi => c.bits.extractLsb' 64 64

def execCget (f : CField) (d : SReg) (a : CReg) (s : State) : Host.Outcome State Fault Refusal :=
  .next ((s.ws d (capField f (s.rc a))).retire 8)

/-- CTEST's three conditions (10 R269). -/
def capTest (c : Cap) (len : Nat) (m : BitVec 7) : Bool :=
  c.tag && c.covers c.cursor len && BitVec.ofNat 7 c.perms &&& m == m

def execCtest (d : SReg) (a : CReg) (b : SReg) (m : BitVec 7) (s : State) : Host.Outcome State Fault Refusal :=
  .next ((s.ws d (if capTest (s.rc a) (s.rs b).toNat m then 1 else 0)).retire 8)

def execCsub (d : SReg) (a b : CReg) (s : State) : Host.Outcome State Fault Refusal :=
  .next ((s.ws d (BitVec.ofInt 64 (((s.rc a).cursor : Int) - (s.rc b).cursor))).retire 8)

end Sys2Proof.Machine
end

