-- ==== Sys2Proof/Machine/VectorFloat.lean ====
section
/-! DEFINITION. The vector float instructions (11 Table 11.3). Rows marked B are counted: their result is computed from
the sources read at issue and written at completion (11 R291). -/

namespace Sys2Proof.Machine

/-- The format of a float element type. -/
def fmtOf : ETy → Fmt
  | .f64 => fp64
  | .f16x2 | .f16 => fp16
  | .bf16x2 | .bf16 => bf16
  | .f32 | .i32 | .n32 | .i64 | .n64 | .i16x2 | .n16x2 | .i8x4 | .n8x4 | .b32 => fp32

/-- The format of a VFCVT code (05 Table 5.5). -/
def fmtOfCode (c : Byte) : Fmt :=
  match c.toNat with
  | 1 => fp64
  | 2 => fp32
  | 3 => fp16
  | 4 => bf16
  | 0x10 => .f4
  | n => .p8 (n % 8) (n / 8 % 2 == 0) (n / 16 % 2 == 0)

/-- The rounding of an exact result, with the flags that led to it (11 R284). -/
def roundOut (f : Fmt) (rm : Rm) (sat : Bool) (v : Val × Nat) : Nat × Nat :=
  let r := cvt f rm sat v.1
  (r.1, r.2 ||| v.2)

/-- A lane from element results, and its flags ORed (08 R202). -/
def packFlags (ty : ETy) (f : Nat → Nat × Nat) : Nat × Nat :=
  (packElems ty fun i => (f i).1, (List.range (elemCount ty)).foldl (fun a i => a ||| (f i).2) 0)

/-- The flags of the selected lanes (11 R272). -/
def laneFlags (m : Mask) (f : Nat → Nat × Nat) : Nat := (lanesOf m).foldl (fun a l => a ||| (f l).2) 0

/-- An interlocked float instruction: results, then flags, then an enabled ARITH (08 R208). -/
def State.floatwise (s : State) (p : Pred) (pair : Bool) (d : VReg) (f : Nat → Nat × Nat) : State :=
  let m := s.sel p
  (s.putV pair d m fun l => (f l).1).retireFlags (laneFlags m f) 8

/-- A class B float instruction (09 Table 9.6); with no lane selected it completes at issue (09 R219). -/
def State.floatLater (s : State) (p : Pred) (pair : Bool) (d : VReg) (f : Nat → Nat × Nat) : State :=
  let m := s.sel p
  if m = 0 then s.retire 8 else s.countNow true (vecWrites pair d m fun l => (f l).1) (laneFlags m f) 8

/-! ### Results of one lane -/

/-- A function of one element. -/
def Group.fun1 (g : Group) (f : Val → Val × Nat) (ty : ETy) (r : Rnd) (a : VReg) (l : Nat) : Nat × Nat :=
  packFlags ty fun i =>
    roundOut (fmtOf ty) (g.roundMode r.rm) r.sat (f (decodeBase (fmtOf ty) (elemAt ty (g.laneOf ty.pair a l) i)))

/-- A function of two elements. -/
def Group.fun2 (g : Group) (f : Rm → Val → Val → Val × Nat) (ty : ETy) (r : Rnd) (a : VReg) (y : VSrc) (l : Nat) :
    Nat × Nat :=
  packFlags ty fun i =>
    roundOut (fmtOf ty) (g.roundMode r.rm) r.sat
      (f (g.roundMode r.rm) (decodeBase (fmtOf ty) (elemAt ty (g.laneOf ty.pair a l) i))
        (decodeBase (fmtOf ty) (elemAt ty (g.srcLane ty y l) i)))

/-- x × y + z (11 R285). -/
def Group.fun3 (g : Group) (ty : ETy) (r : Rnd) (a : VReg) (y : VSrc) (c : VReg) (l : Nat) : Nat × Nat :=
  packFlags ty fun i =>
    let v (x : Nat) : Val := decodeBase (fmtOf ty) (elemAt ty x i)
    roundOut (fmtOf ty) (g.roundMode r.rm) r.sat
      (fusedVals (g.roundMode r.rm) [(v (g.laneOf ty.pair a l), v (g.srcLane ty y l))] (v (g.laneOf ty.pair c l)))

/-- Minimum or maximum, by code (11 R286). -/
def Group.pick2 (g : Group) (mx : Bool) (ty : ETy) (a : VReg) (y : VSrc) (l : Nat) : Nat × Nat :=
  packFlags ty fun i => fminmax (fmtOf ty) mx (elemAt ty (g.laneOf ty.pair a l) i) (elemAt ty (g.srcLane ty y l) i)

/-- A comparison of one lane (11 R287). -/
def Group.cmp2 (g : Group) (c : FCmp) (ty : ETy) (a : VReg) (y : VSrc) (l : Nat) : Bool × Nat :=
  fcmp c (decodeBase (fmtOf ty) (elemAt ty (g.laneOf ty.pair a l) 0)) (decodeBase (fmtOf ty) (elemAt ty (g.srcLane ty y l) 0))

/-- x × 2^n (11 R289): zeros and infinities unchanged. -/
def scaleF (f : Fmt) (rm : Rm) (sat : Bool) (c : Nat) (n : Int) : Nat × Nat :=
  match decodeBase f c with
  | .nan sig => cvt f rm sat (.nan sig)
  | .inf _ => (c, 0)
  | .fin s m e st => if m = 0 then (c, 0) else cvt f rm sat (.fin s m (e + n) st)

/-- The type of VFSCALE's exponent: signed 32-bit for f32 and f64, signed 16-bit elements for the others (11 R289). -/
def scaleTy : ETy → ETy
  | .f16x2 | .bf16x2 | .f16 | .bf16 => .i16x2
  | .f32 | .f64 | .i32 | .n32 | .i64 | .n64 | .n16x2 | .i16x2 | .i8x4 | .n8x4 | .b32 => .i32

def Group.scale2 (g : Group) (ty : ETy) (r : Rnd) (a : VReg) (y : VSrc) (l : Nat) : Nat × Nat :=
  packFlags ty fun i =>
    let w := (scaleTy ty).elemBits
    let n := elemAt (scaleTy ty) (g.srcLane .i32 y l) i
    scaleF (fmtOf ty) (g.roundMode r.rm) r.sat (elemAt ty (g.laneOf ty.pair a l) i)
      (if n < 2 ^ (w - 1) then (n : Int) else (n : Int) - ((2 ^ w : Nat) : Int))

/-- a0 b0 + a1 b1 + z into FP32 (11 R290). -/
def Group.dot2 (g : Group) (ty : ETy) (r : Rnd) (a : VReg) (y : VSrc) (c : VReg) (l : Nat) : Nat × Nat :=
  let v (x i : Nat) : Val := decodeBase (fmtOf ty) (elemAt ty x i)
  let x := g.laneOf false a l
  let z := g.srcLane ty y l
  roundOut fp32 (g.roundMode r.rm) r.sat
    (fusedVals (g.roundMode r.rm) [(v x 0, v z 0), (v x 1, v z 1)] (decodeBase fp32 (g.laneOf false c l)))

/-- Rounding to an integral value (11 R296). -/
def rndF (f : Fmt) (rm : Rm) (c : Nat) : Nat × Nat :=
  match decodeBase f c with
  | .nan sig => cvt f rm false (.nan sig)
  | .inf _ => (c, 0)
  | .fin s m e st => ((cvt f rm false (.fin s (roundInt rm s m e st).1 0 false)).1, 0)

/-- VFCVT of one lane (11 R292); `old` is the destination's lane. -/
def cvtLane (dst src : Byte) (part : Nat) (rm : Rm) (sat : Bool) (x : Nat) (old v : Nat) : Nat × Nat :=
  let ws := cvtBits src
  let wd := cvtBits dst
  let m := cvtElems ws wd
  let o := m * min ws wd * part
  (List.range m).foldl (fun (t : Nat × Nat) i =>
    let c := if wd ≤ ws then bitsAt v (ws * i) ws else bitsAt v (o + ws * i) ws
    let r := cvt (fmtOfCode dst) rm sat (decodeF (fmtOfCode src) x c)
    (setBits t.1 (if wd ≤ ws then o + wd * i else wd * i) wd r.1, t.2 ||| r.2))
    (if wd < 32 ∧ wd < ws then old else 0, 0)

def Group.cvt1 (g : Group) (dst src : Byte) (part : BitVec 3) (r : Rnd) (d a : VReg) (l : Nat) : Nat × Nat :=
  cvtLane dst src part.toNat (g.roundMode r.rm) r.sat (bitsAt g.f4x.toNat 0 16) (g.laneOf (cvtBits dst == 64) d l)
    (g.laneOf (cvtBits src == 64) a l)

/-- VITOF's destination type: f32, f64, f16x2 or bf16x2 (11 R295). -/
def itofTy (bf : Bool) (ty : ETy) : ETy :=
  if bf then .bf16x2 else if ty = .i16x2 ∨ ty = .n16x2 then .f16x2 else if ty.pair then .f64 else .f32

def Group.itof1 (g : Group) (bf : Bool) (ty : ETy) (r : Rnd) (a : VReg) (l : Nat) : Nat × Nat :=
  packFlags (itofTy bf ty) fun i =>
    let x := elemAt ty (g.laneOf ty.pair a l) i
    let neg := etySigned ty && decide (2 ^ (ty.elemBits - 1) ≤ x)
    cvt (fmtOf (itofTy bf ty)) (g.roundMode r.rm) r.sat (.fin neg (if neg then 2 ^ ty.elemBits - x else x) 0 false)

/-! ### The instructions -/

def execVfadd (p : Pred) (ty : ETy) (r : Rnd) (d a : VReg) (y : VSrc) (s : State) : Host.Outcome State Fault Refusal :=
  .next (s.floatwise p ty.pair d (s.g.fun2 addF ty r a y))
def execVfsub (p : Pred) (ty : ETy) (r : Rnd) (d a : VReg) (y : VSrc) (s : State) : Host.Outcome State Fault Refusal :=
  .next (s.floatwise p ty.pair d (s.g.fun2 subF ty r a y))
def execVfmul (p : Pred) (ty : ETy) (r : Rnd) (d a : VReg) (y : VSrc) (s : State) : Host.Outcome State Fault Refusal :=
  .next (s.floatwise p ty.pair d (s.g.fun2 mulF ty r a y))
def execVfma (p : Pred) (ty : ETy) (r : Rnd) (d a : VReg) (y : VSrc) (c : VReg) (s : State) :
    Host.Outcome State Fault Refusal := .next (s.floatwise p ty.pair d (s.g.fun3 ty r a y c))
def execVfmin (p : Pred) (ty : ETy) (d a : VReg) (y : VSrc) (s : State) : Host.Outcome State Fault Refusal :=
  .next (s.floatwise p ty.pair d (s.g.pick2 false ty a y))
def execVfmax (p : Pred) (ty : ETy) (d a : VReg) (y : VSrc) (s : State) : Host.Outcome State Fault Refusal :=
  .next (s.floatwise p ty.pair d (s.g.pick2 true ty a y))

/-- k[D] is written as VCMP writes it (11 R287). -/
def execVfcmp (p : Pred) (c : FCmp) (ty : ETy) (d : KReg) (a : VReg) (y : VSrc) (s : State) :
    Host.Outcome State Fault Refusal :=
  let m := s.sel p
  .next ((s.putK d m fun l => (s.g.cmp2 c ty a y l).1).retireFlags
    ((lanesOf m).foldl (fun f l => f ||| (s.g.cmp2 c ty a y l).2) 0) 8)

def execVfrcp (p : Pred) (ty : ETy) (r : Rnd) (d a : VReg) (s : State) : Host.Outcome State Fault Refusal :=
  .next (s.floatLater p ty.pair d (s.g.fun1 rcpF ty r a))
def execVfrsq (p : Pred) (ty : ETy) (r : Rnd) (d a : VReg) (s : State) : Host.Outcome State Fault Refusal :=
  .next (s.floatLater p ty.pair d (s.g.fun1 rsqrtF ty r a))
def execVfsqrt (p : Pred) (ty : ETy) (r : Rnd) (d a : VReg) (s : State) : Host.Outcome State Fault Refusal :=
  .next (s.floatLater p ty.pair d (s.g.fun1 sqrtF ty r a))
def execVfdiv (p : Pred) (ty : ETy) (r : Rnd) (d a : VReg) (y : VSrc) (s : State) : Host.Outcome State Fault Refusal :=
  .next (s.floatLater p ty.pair d (s.g.fun2 divF ty r a y))
def execVfexp2 (p : Pred) (ty : ETy) (r : Rnd) (d a : VReg) (s : State) : Host.Outcome State Fault Refusal :=
  .next (s.floatLater p ty.pair d (s.g.fun1 exp2F ty r a))
def execVflog2 (p : Pred) (ty : ETy) (r : Rnd) (d a : VReg) (s : State) : Host.Outcome State Fault Refusal :=
  .next (s.floatLater p ty.pair d (s.g.fun1 log2F ty r a))
def execVfsin (p : Pred) (ty : ETy) (r : Rnd) (d a : VReg) (s : State) : Host.Outcome State Fault Refusal :=
  .next (s.floatLater p ty.pair d (s.g.fun1 sinF ty r a))
def execVfcos (p : Pred) (ty : ETy) (r : Rnd) (d a : VReg) (s : State) : Host.Outcome State Fault Refusal :=
  .next (s.floatLater p ty.pair d (s.g.fun1 cosF ty r a))
def execVftanh (p : Pred) (ty : ETy) (r : Rnd) (d a : VReg) (s : State) : Host.Outcome State Fault Refusal :=
  .next (s.floatLater p ty.pair d (s.g.fun1 tanhF ty r a))

def execVfcvt (p : Pred) (dst src : Byte) (part : BitVec 3) (r : Rnd) (d a : VReg) (s : State) :
    Host.Outcome State Fault Refusal :=
  .next (s.floatwise p (cvtBits dst == 64) d (s.g.cvt1 dst src part r d a))

/-- Conversion to an integer of the element's width (11 R294). -/
def execVftoi (p : Pred) (u : Bool) (ty : ETy) (rm : Rm) (d a : VReg) (s : State) : Host.Outcome State Fault Refusal :=
  .next (s.floatwise p ty.pair d fun l => packFlags ty fun i =>
    toInt ty.elemBits (!u) (s.g.roundMode rm) (decodeBase (fmtOf ty) (elemAt ty (s.g.laneOf ty.pair a l) i)))

def execVitof (p : Pred) (bf : Bool) (ty : ETy) (r : Rnd) (d a : VReg) (s : State) : Host.Outcome State Fault Refusal :=
  .next (s.floatwise p ty.pair d (s.g.itof1 bf ty r a))

def execVfrnd (p : Pred) (ty : ETy) (rm : Rm) (d a : VReg) (s : State) : Host.Outcome State Fault Refusal :=
  .next (s.floatwise p ty.pair d fun l => packFlags ty fun i =>
    rndF (fmtOf ty) (s.g.roundMode rm) (elemAt ty (s.g.laneOf ty.pair a l) i))

/-- The class mask goes to the single register v[D] under f64 (11 R288). -/
def execVfclass (p : Pred) (ty : ETy) (d a : VReg) (s : State) : Host.Outcome State Fault Refusal :=
  .next (s.floatwise p false d fun l => packFlags ty fun i =>
    (fclass (fmtOf ty) (elemAt ty (s.g.laneOf ty.pair a l) i), 0))

def execVfscale (p : Pred) (ty : ETy) (r : Rnd) (d a : VReg) (y : VSrc) (s : State) : Host.Outcome State Fault Refusal :=
  .next (s.floatwise p ty.pair d (s.g.scale2 ty r a y))

def execVfdot2 (p : Pred) (ty : ETy) (r : Rnd) (d a : VReg) (y : VSrc) (c : VReg) (s : State) :
    Host.Outcome State Fault Refusal := .next (s.floatwise p false d (s.g.dot2 ty r a y c))

end Sys2Proof.Machine
end

