-- ==== Sys2Proof/Machine/VectorInt.lean ====
section
/-! DEFINITION. The vector integer instructions (11 Table 11.2). Each acts on the elements of each selected lane. -/

namespace Sys2Proof.Machine

/-- An element as its type reads it. -/
def elemVal (ty : ETy) (x : Nat) : Int := if etySigned ty then signedOf ty.elemBits x else x

/-- An exact result wrapped, or clamped to the type's range (08 R197, 11 R277). -/
def fitElem (ty : ETy) (sat : Bool) (x : Int) : Nat :=
  let w := ty.elemBits
  let lo : Int := if etySigned ty then -((2 ^ (w - 1) : Nat) : Int) else 0
  let hi : Int := if etySigned ty then ((2 ^ (w - 1) : Nat) : Int) - 1 else ((2 ^ w : Nat) : Int) - 1
  wrapTo w (if sat then max lo (min hi x) else x)

/-! ### Element results -/

def eAdd (ty : ETy) (sat : Bool) (x y : Nat) : Nat := fitElem ty sat (elemVal ty x + elemVal ty y)
def eSub (ty : ETy) (sat : Bool) (x y : Nat) : Nat := fitElem ty sat (elemVal ty x - elemVal ty y)
def eMul (ty : ETy) (sat : Bool) (x y : Nat) : Nat := fitElem ty sat (elemVal ty x * elemVal ty y)
def eMulh (ty : ETy) (x y : Nat) : Nat :=
  wrapTo ty.elemBits (elemVal ty x * elemVal ty y / ((2 ^ ty.elemBits : Nat) : Int))
def eMad (ty : ETy) (sat : Bool) (x y z : Nat) : Nat := fitElem ty sat (elemVal ty x * elemVal ty y + elemVal ty z)
def eNot (ty : ETy) (x : Nat) : Nat := 2 ^ ty.elemBits - 1 - x
def eShl (ty : ETy) (x y : Nat) : Nat := x * 2 ^ (y % ty.elemBits) % 2 ^ ty.elemBits
def eShr (ty : ETy) (x y : Nat) : Nat := x / 2 ^ (y % ty.elemBits)
def eSra (ty : ETy) (x y : Nat) : Nat :=
  wrapTo ty.elemBits (signedOf ty.elemBits x / ((2 ^ (y % ty.elemBits) : Nat) : Int))
def eMin (ty : ETy) (x y : Nat) : Nat := if elemVal ty x ≤ elemVal ty y then x else y
def eMax (ty : ETy) (x y : Nat) : Nat := if elemVal ty x ≤ elemVal ty y then y else x
def eAbs (ty : ETy) (sat : Bool) (x : Nat) : Nat := fitElem ty sat ((elemVal ty x).natAbs : Int)

/-- Bit i of the result is bit w - 1 - i of x. -/
def eBrev (ty : ETy) (x : Nat) : Nat :=
  (List.range ty.elemBits).foldl (fun a i => a + (if x.testBit (ty.elemBits - 1 - i) then 2 ^ i else 0)) 0

/-- The dot product of four byte pairs and an accumulator (11 R282). -/
def dot4 (su : Bool) (ty : ETy) (sat : Bool) (x y z : Nat) : Nat :=
  let sx := ty == .i8x4
  let sy := ty == .i8x4 && !su
  let byte (s : Bool) (v k : Nat) : Int := if s then signedOf 8 (bitsAt v (8 * k) 8) else (bitsAt v (8 * k) 8 : Nat)
  let r : ETy := if sx then .i32 else .n32
  fitElem r sat ((List.range 4).foldl (fun a k => a + byte sx x k * byte sy y k) (elemVal r (z % 2 ^ 32)))

/-! ### The instructions -/

def execVadd (p : Pred) (ty : ETy) (sat : Bool) (d a : VReg) (y : VSrc) (s : State) : Host.Outcome State Fault Refusal :=
  .next (s.elem2 (eAdd ty sat) p ty d a y)
def execVsub (p : Pred) (ty : ETy) (sat : Bool) (d a : VReg) (y : VSrc) (s : State) : Host.Outcome State Fault Refusal :=
  .next (s.elem2 (eSub ty sat) p ty d a y)
def execVmul (p : Pred) (ty : ETy) (sat : Bool) (d a : VReg) (y : VSrc) (s : State) : Host.Outcome State Fault Refusal :=
  .next (s.elem2 (eMul ty sat) p ty d a y)
def execVmulh (p : Pred) (ty : ETy) (d a : VReg) (y : VSrc) (s : State) : Host.Outcome State Fault Refusal :=
  .next (s.elem2 (eMulh ty) p ty d a y)
def execVmad (p : Pred) (ty : ETy) (sat : Bool) (d a : VReg) (y : VSrc) (c : VReg) (s : State) :
    Host.Outcome State Fault Refusal := .next (s.elem3 (eMad ty sat) p ty d a y c)
def execVand (p : Pred) (ty : ETy) (d a : VReg) (y : VSrc) (s : State) : Host.Outcome State Fault Refusal :=
  .next (s.elem2 Nat.land p ty d a y)
def execVor (p : Pred) (ty : ETy) (d a : VReg) (y : VSrc) (s : State) : Host.Outcome State Fault Refusal :=
  .next (s.elem2 Nat.lor p ty d a y)
def execVxor (p : Pred) (ty : ETy) (d a : VReg) (y : VSrc) (s : State) : Host.Outcome State Fault Refusal :=
  .next (s.elem2 Nat.xor p ty d a y)
def execVnot (p : Pred) (ty : ETy) (d a : VReg) (s : State) : Host.Outcome State Fault Refusal :=
  .next (s.elem1 (eNot ty) p ty d a)
def execVshl (p : Pred) (ty : ETy) (d a : VReg) (y : VSrc) (s : State) : Host.Outcome State Fault Refusal :=
  .next (s.elem2 (eShl ty) p ty d a y)
def execVshr (p : Pred) (ty : ETy) (d a : VReg) (y : VSrc) (s : State) : Host.Outcome State Fault Refusal :=
  .next (s.elem2 (eShr ty) p ty d a y)
def execVsra (p : Pred) (ty : ETy) (d a : VReg) (y : VSrc) (s : State) : Host.Outcome State Fault Refusal :=
  .next (s.elem2 (eSra ty) p ty d a y)
def execVmin (p : Pred) (ty : ETy) (d a : VReg) (y : VSrc) (s : State) : Host.Outcome State Fault Refusal :=
  .next (s.elem2 (eMin ty) p ty d a y)
def execVmax (p : Pred) (ty : ETy) (d a : VReg) (y : VSrc) (s : State) : Host.Outcome State Fault Refusal :=
  .next (s.elem2 (eMax ty) p ty d a y)
def execVabs (p : Pred) (ty : ETy) (sat : Bool) (d a : VReg) (s : State) : Host.Outcome State Fault Refusal :=
  .next (s.elem1 (eAbs ty sat) p ty d a)

/-- VCMP writes 0 for every lane that it does not select (11 R278). -/
def execVcmp (p : Pred) (c : Cmp) (ty : ETy) (d : KReg) (a : VReg) (y : VSrc) (s : State) :
    Host.Outcome State Fault Refusal :=
  .next ((s.putK d (s.sel p) fun l =>
    cmpHolds (etySigned ty) c ty.elemBits (s.g.laneOf ty.pair a l) (s.g.srcLane ty y l)).retire 8)

def execVsel (p : Pred) (ty : ETy) (d a : VReg) (y : VSrc) (c : KReg) (s : State) : Host.Outcome State Fault Refusal :=
  .next (s.lanewise p ty d (fun l => if (s.rk c).getLsbD l then s.g.laneOf ty.pair a l else s.g.srcLane ty y l) 8)

def execVmov (p : Pred) (ty : ETy) (d : VReg) (y : VSrc) (s : State) : Host.Outcome State Fault Refusal :=
  .next (s.lanewise p ty d (fun l => s.g.srcLane ty y l) 8)

/-- IMM32, extended into the pair of a 64-bit type (11 R280). -/
def execVli (p : Pred) (ty : ETy) (d : VReg) (imm : W32) (s : State) : Host.Outcome State Fault Refusal :=
  .next (s.lanewise p ty d (fun _ => (if ty = .i64 then imm.signExtend 64 else imm.zeroExtend 64).toNat) 16)

def execVpopc (p : Pred) (ty : ETy) (d a : VReg) (s : State) : Host.Outcome State Fault Refusal :=
  .next (s.elem1 (popBits ty.elemBits) p ty d a)
def execVclz (p : Pred) (ty : ETy) (d a : VReg) (s : State) : Host.Outcome State Fault Refusal :=
  .next (s.elem1 (leadZeros ty.elemBits) p ty d a)
def execVbrev (p : Pred) (ty : ETy) (d a : VReg) (s : State) : Host.Outcome State Fault Refusal :=
  .next (s.elem1 (eBrev ty) p ty d a)

def execVbfe (p : Pred) (ty : ETy) (d a : VReg) (pos len : Byte) (s : State) : Host.Outcome State Fault Refusal :=
  .next (s.elem1 (fun x => extractField (etySigned ty) ty.elemBits x pos.toNat len.toNat) p ty d a)

/-- VBFI reads its destination as well (11 R281). -/
def execVbfi (p : Pred) (ty : ETy) (d a : VReg) (pos len : Byte) (s : State) : Host.Outcome State Fault Refusal :=
  .next (s.lanewise p ty d (fun l => setBits (s.g.laneOf ty.pair d l) pos.toNat len.toNat (s.g.laneOf ty.pair a l)) 8)

def execVdp4 (p : Pred) (su : Bool) (ty : ETy) (sat : Bool) (d a : VReg) (y : VSrc) (c : VReg) (s : State) :
    Host.Outcome State Fault Refusal :=
  .next (s.lanewise p ty d (fun l => dot4 su ty sat (s.g.laneOf false a l) (s.g.srcLane ty y l) (s.g.laneOf false c l)) 8)

end Sys2Proof.Machine
end

