-- ==== Sys2Proof/Machine/CrossLane.lean ====
section
/-! DEFINITION. The cross-lane instructions (11 R297-R302). Sources are read at issue, before any lane is written. -/

namespace Sys2Proof.Machine

/-- A lane's value in a scalar register: extended with the sign for TY 0, with zeros otherwise, and whole for 64 bits
(11 R297). -/
def crossScalar (ty : ETy) (v : Nat) : W64 := if ty = .i32 then sext64 32 v else BitVec.ofNat 64 v

/-! ### Reductions (11 R299) -/

/-- The type's minimum or maximum as a code. -/
def typeLow (ty : ETy) : Nat := if etySigned ty then 2 ^ (ty.elemBits - 1) else 0
def typeHigh (ty : ETy) : Nat := if etySigned ty then 2 ^ (ty.elemBits - 1) - 1 else 2 ^ ty.elemBits - 1

/-- The identity of a reduction (11 Table 11.6). -/
def redId (op : Red) (ty : ETy) : Nat :=
  match op with
  | .add => 0
  | .min => typeHigh ty
  | .max => typeLow ty
  | .and => 2 ^ ty.elemBits - 1
  | .or => 0
  | .xor => 0
  | .fadd => 0
  | .fmin => (fmtInf (fmtOf ty)).getD 0
  | .fmax => signCode (fmtOf ty) true ((fmtInf (fmtOf ty)).getD 0)

/-- An exact float sum rounded once, without flags. -/
def faddAll (f : Fmt) (l : List Nat) : Nat :=
  let vs := l.map (decodeBase f)
  (cvt f .rne false (if vs.any isNan then .nan false else (sumVals .rne vs).1)).1

/-- The least or greatest of codes; a NaN only where every one is (11 R286, R299). -/
def fpickAll (f : Fmt) (mx : Bool) : List Nat → Nat
  | [] => 0
  | x :: r => r.foldl (fun a b => (fminmax f mx a b).1) (if isNan (decodeBase f x) then (fmtNan f).getD 0 else x)

/-- A reduction of elements. -/
def reduce (op : Red) (ty : ETy) (l : List Nat) : Nat :=
  if l.isEmpty then redId op ty
  else match op with
    | .add => l.foldl (eAdd ty false) 0
    | .min => l.foldl (eMin ty) (typeHigh ty)
    | .max => l.foldl (eMax ty) (typeLow ty)
    | .and => l.foldl Nat.land (2 ^ ty.elemBits - 1)
    | .or => l.foldl Nat.lor 0
    | .xor => l.foldl Nat.xor 0
    | .fadd => faddAll (fmtOf ty) l
    | .fmin => fpickAll (fmtOf ty) false l
    | .fmax => fpickAll (fmtOf ty) true l

/-- A reduction of lanes, element position by element position. -/
def reduceLanes (op : Red) (ty : ETy) (l : List Nat) : Nat :=
  packElems ty fun i => reduce op ty (l.map fun x => elemAt ty x i)

/-! ### The instructions -/

/-- A permutation: each selected lane takes the source of lane `f l`. -/
def State.permute (s : State) (p : Pred) (ty : ETy) (d a : VReg) (f : Nat → Nat) : State :=
  s.lanewise p ty d (fun l => s.g.laneOf ty.pair a (f l)) 8

def execVshuf (p : Pred) (ty : ETy) (d a b : VReg) (s : State) : Host.Outcome State Fault Refusal :=
  .next (s.permute p ty d a fun l => ((s.rv b).at l).toNat % 32)

def execVrot (p : Pred) (q : Bool) (ty : ETy) (d a : VReg) (n : BitVec 5) (s : State) :
    Host.Outcome State Fault Refusal :=
  .next (s.permute p ty d a fun l => if q then 8 * (l / 8) + (l + n.toNat) % 8 else (l + n.toNat) % 32)

def execVbcast (f : Bcast) (ty : ETy) (a : VReg) (s : State) : Host.Outcome State Fault Refusal :=
  .next (match f with
    | .lane p d n => s.permute p ty d a fun _ => n.toNat
    | .first p d => s.permute p ty d a fun _ => (lanesOf (s.sel p)).headD 0
    | .ts d n => (s.ws d (crossScalar ty (s.g.laneOf ty.pair a n.toNat))).retire 8)

/-- Nothing is written when no lane is selected (09 R219). -/
def execVred (p : Pred) (op : Red) (ty : ETy) (d : SReg) (a : VReg) (s : State) : Host.Outcome State Fault Refusal :=
  let ls := lanesOf (s.sel p)
  .next ((if ls.isEmpty then s
    else s.ws d (crossScalar ty (reduceLanes op ty (ls.map fun l => s.g.laneOf ty.pair a l)))).retire 8)

def execVscan (p : Pred) (op : Red) (ex : Bool) (ty : ETy) (d a : VReg) (s : State) :
    Host.Outcome State Fault Refusal :=
  let ls := lanesOf (s.sel p)
  .next (s.lanewise p ty d (fun l =>
    reduceLanes op ty ((ls.filter fun j => if ex then decide (j < l) else decide (j ≤ l)).map fun j => s.g.laneOf ty.pair a j)) 8)

def execVvote (p : Pred) (f : Vote) (ty : ETy) (a : VReg) (s : State) : Host.Outcome State Fault Refusal :=
  let m := s.sel p
  let x (l : Nat) : Nat := s.g.laneOf ty.pair a l
  let ls := lanesOf m
  let hit := ls.filter fun l => x l != 0
  .next ((if m = 0 then s else match f with
    | .mk d => s.putK d m fun l => x l != 0
    | .cnt d => s.ws d (BitVec.ofNat 64 hit.length)
    | .lo d => s.ws d (BitVec.ofNat 64 (hit.headD 32))
    | .hi d => s.ws d (BitVec.ofNat 64 (hit.getLastD 32))
    | .eq d => s.ws d (if ls.all fun l => x l == x (ls.headD 0) then 1 else 0)).retire 8)

/-- The selected lanes' values, in order, into the active lanes, in order (11 R301). -/
def execVcompact (p : Pred) (ty : ETy) (d a : VReg) (s : State) : Host.Outcome State Fault Refusal :=
  let src := lanesOf (s.sel p)
  let dst := (lanesOf s.act).take src.length
  .next ((s.putV ty.pair d (maskOf dst.contains) fun l => s.g.laneOf ty.pair a (src.getD (dst.idxOf l) 0)).retire 8)

def execVmatch (p : Pred) (ty : ETy) (d a : VReg) (s : State) : Host.Outcome State Fault Refusal :=
  let m := s.sel p
  let x (l : Nat) : Nat := s.g.laneOf ty.pair a l
  .next ((s.putV false d m fun l => (maskOf fun j => m.getLsbD j && x j == x l).toNat).retire 8)

def execElect (p : Pred) (f : Elect) (s : State) : Host.Outcome State Fault Refusal :=
  .next ((match lanesOf (s.sel p) with
    | [] => s
    | l :: _ => match f with
      | .k d => s.wk d (laneBit l)
      | .s d => s.ws d (BitVec.ofNat 64 l)).retire 8)

end Sys2Proof.Machine
end

