-- ==== Sys2Proof/Machine/Issue.lean ====
section
/-! DEFINITION. Which path issues: readiness and the order of 15 R387. -/

namespace Sys2Proof.Machine

/-- A path may issue: live, not waiting, its group resident and not ending, its core running, the other path not in
handler mode, in a debugged group nothing in flight, and under a request to pre-empt not yet at its hint (15 R387;
16 R392, R398, R404). -/
def State.canIssue (s : State) (gid : Nat) (g : Group) (b : Bool) : Bool :=
  let p := g.path b
  p.live && p.wait == .none && g.resident && g.ending.isNone && !(s.core g.core).halted && !(s.core g.core).failed
    && (g.path (!b)).frame.isNone && !(g.preempt && (p.atHint || g.deadline)) && p.steps != some 0 && (!g.debug || !(s.ops.any fun o => o.2.gid == gid))

/-- Whether path `x` goes before path `y` (15 R387). -/
def goesBefore (x y : Nat × Group × Bool) : Bool :=
  let px := x.2.1.path x.2.2
  let py := y.2.1.path y.2.2
  if px.promoted ≠ py.promoted then
    match px.promoted, py.promoted with
    | some a, some c => decide (a < c)
    | some _, none => true
    | none, _ => false
  else if x.2.1.pri ≠ y.2.1.pri then decide (x.2.1.pri < y.2.1.pri)
  else if (px.pdelay = 0) ≠ (py.pdelay = 0) then px.pdelay == 0
  else if x.2.1.born ≠ y.2.1.born then decide (x.2.1.born < y.2.1.born)
  else !x.2.2 && y.2.2

def insertPath (x : Nat × Group × Bool) : List (Nat × Group × Bool) → List (Nat × Group × Bool)
  | [] => [x]
  | y :: r => if goesBefore y x then y :: insertPath x r else x :: y :: r

/-- The ready paths of the groups that satisfy a test, in the order of 15 R387. -/
def State.readyPaths (s : State) (ok : Group → Bool) : List (Nat × Bool) :=
  let all := (s.groups.filter fun e => ok e.2).flatMap fun e =>
    (if s.canIssue e.1 e.2 false then [(e.1, e.2, false)] else []) ++ (if s.canIssue e.1 e.2 true then [(e.1, e.2, true)] else [])
  (all.foldl (fun l x => insertPath x l) []).map fun x => (x.1, x.2.2)

/-- The ready paths of the port of a core that a slot issues on (15 R387). -/
def State.portPaths (s : State) (core slot : Nat) : List (Nat × Bool) :=
  s.readyPaths fun g => match g.place with | .res c n => c == core && n % 4 == slot % 4 | .saved _ _ => false

/-- A path did not move: the same word stands before it, and it waits for nothing (a stall). -/
def stalled (s t : State) (gid : Nat) (b : Bool) : Bool :=
  (Store.find t.groups gid).isSome && (t.grp gid).path b == (s.grp gid).path b

/-- The cycles of a step pass: hunger counts them on the cores that are short of work, and starts anew on the others (07 R188;
assumption 3). -/
def State.beat (s : State) : State :=
  let now := s.clock + Config.cycleGap s.time
  { s with clock := now, cores := s.cores.map fun (e : Nat × Core) => if s.hungry e.1 then e else (e.1, { e.2 with fed := now }) }

/-- The core's cycle count moves on by a cycle or more, and never goes back (13 R338; assumption 3). -/
def State.tick (s : State) (core : Nat) : State :=
  s.modCore core fun c => { c with cycle := BitVec.ofNat 64 (min (2 ^ 64 - 1) (c.cycle.toNat + 1 + Config.cycleGap s.time)) }

end Sys2Proof.Machine
end

