-- ==== Sys2Proof/Machine/Sync.lean ====
section
/-! DEFINITION. Fences, WAITC, POLL and barriers (12 R320-R325). -/

namespace Sys2Proof.Machine

/-! ### FENCE (12 R320) -/

/-- Whether the covered reads of the issuing path are performed, the read halves of read-modify-writes included; write halves
are not waited for. -/
def State.readsDone (s : State) (uo : Bool) : Bool :=
  !(s.ops.any fun o => o.2.gid == s.cur.gid && o.2.charged s.cur.b && o.2.reads && !o.2.parked && (uo || !o.2.uo) &&
    o.2.out != 0 && decide (o.2.got.length < o.2.spans.length))

def execFence (u : Bool) (ord : Ord) (sc : Scope) (s : State) : Host.Outcome State Fault Refusal :=
  let rel := ord != .acq
  let acq := ord != .rel
  let (t, ready) := if rel then s.releaseAt s.cur.gid s.cur.b sc u else (s, true)
  .next (
    if ready && (!acq || t.readsDone u) then (if acq then t.acquireFor t.cur.gid sc else t).retire 8
    else t)

/-! ### WAITC (12 R321, R322) -/

/-- The slice that monitors a word (12 R322). -/
def monSlice (pa : Nat) : Nat := if isCmem pa then bankOf pa % 16 else sliceOf pa

/-- WAITC at its word's home, as one step. -/
def State.waitAt (s : State) (c : Cmp) (ty : STy) (sc : Option Scope) (d : SReg) (x : SReg) (va bytes pa : Nat)
    (page : PageInfo) : State :=
  let w := styWidth ty
  let (s, free) := if page.mt = 0 then s.homeReady (dieOf s.c) pa (w / 8) else (s, true)
  if !free then s
  else
    let s := if page.mt = 0 then
        ((s.accountAt (homeDie pa) pa (w / 8) .sl).dropGuests (dieOf s.c) pa (w / 8)).observe s.cur.gid s.c pa (w / 8) false
      else s
    let v := s.readNat pa (w / 8)
    if cmpHolds (stySigned ty) c w v (s.rs x).toNat then
      let t := match sc with | some sc => s.acquireFor s.cur.gid sc | none => s
      (t.ws d (extendS ty v)).retire bytes
    else
      let h := homeDie pa
      let m : Monitor := ⟨monSlice pa, s.g.asid, va, pa, ty, c, s.rs x, s.cur.gid, s.cur.b⟩
      if page.mt ≤ 1 && decide (((s.die h).monitors.filter (·.slice == monSlice pa)).length < 1024) then
        (s.modDie h fun d => { d with monitors := d.monitors ++ [m] }).park .monitor
      else s.backOff va v

/-- The access of WAITC and POLL: an aligned word, LD, never an MMIO page (12 R321). -/
def wordOp (c : Cap) (va : Nat) (ty : STy) (mask : Mask) (ord : Ord) (sc : Scope) (act : Act) (fin : Fin) (waits : Bool) :
    MemOp :=
  { cap := c, acc := .load, align := true, extra := none, target := .word, lanes := [⟨0, va, styWidth ty / 8, act⟩]
    mask := mask, once := true, cp := .sl, ord := ord, sc := sc, fin := fin, waits := waits }

def execWaitc (c : Cmp) (ty : STy) (ord : Ord) (sc : Scope) (d : SReg) (m : AMode) (off : Option W32) (x : SReg)
    (s : State) : Host.Outcome State Fault Refusal :=
  let va := (s.g.addrOf m (optOff off) 0) % 2 ^ 64
  let acq := if ord = .acq then some sc else none
  .next (s.atObject (wordOp (s.g.capOf m) va ty s.act ord sc .poll .none false) fun t pa page =>
    t.waitAt c ty acq d x va (match off with | none => 8 | some _ => 16) pa page)

def execPoll (ty : STy) (ord : Ord) (sc : Scope) (d : SReg) (m : AMode) (off : Off) (s : State) :
    Host.Outcome State Fault Refusal :=
  let va := (s.g.addrOf m (offNat off) 0) % 2 ^ 64
  .next (s.issueMem (wordOp (s.g.capOf m) va ty s.act ord sc .poll (.poll ty d (BitVec.ofNat 64 va)) true) (offBytes off))

/-! ### Barriers (12 R324, R325) -/

/-- `wait(p)`: the phase has passed, or the path is chained on the object, or it backs off. -/
def State.barWait (s : State) (d : SReg) (sc : Scope) (va pa p : Nat) : State :=
  let b := s.bar pa
  let diff := (b.phase + 2 ^ 32 - p % 2 ^ 32) % 2 ^ 32
  if 1 ≤ diff ∧ diff < 2 ^ 31 then
    (((s.acquireFor s.cur.gid sc).modP fun q => { q with phase := none }).ws d (BitVec.ofNat 64 b.phase)).retire 8
  else
    let s := s.modP fun q => { q with phase := some (BitVec.ofNat 32 p) }
    if b.wcnt < 65535 then s.chainOn pa (pa + 14) (pa + 12) else s.backOff va (s.readNat pa 8)

def execBari (d : SReg) (a : CReg) (b : SReg) (s : State) : Host.Outcome State Fault Refusal :=
  .next (s.voids.atObject (objectOp (s.rc a) 16 s.act (.barrier false) .plain .grp) fun t pa _ =>
    let n := (t.rs b).toNat
    if n = 0 ∨ 2 ^ 32 ≤ n then (t.ws d 1).retire 8
    else (((t.homeWrite pa (bytesOf 4 0)).homeWrite (pa + 8) (bytesOf 4 n)).ws d 0).retire 8)

def execBara (sc : Scope) (d : SReg) (a : CReg) (s : State) : Host.Outcome State Fault Refusal :=
  .next (s.voids.atObject (objectOp (s.rc a) 16 s.act (.barrier true) .rel sc) fun t pa _ =>
    let (u, p) := t.arrive pa
    (u.ws d (BitVec.ofNat 64 p)).retire 8)

/-- A BARW that waited goes on with the phase that it first used. -/
def execBarw (sc : Scope) (d : SReg) (a : CReg) (b : SReg) (s : State) : Host.Outcome State Fault Refusal :=
  .next (s.atObject (objectOp (s.rc a) 16 s.act (.barrier false) .plain .grp) fun t pa _ =>
    t.barWait d sc (t.rc a).cursor pa (match t.p.phase with | some p => p.toNat | none => (t.rs b).toNat % 2 ^ 32))

/-- A BARAW arrives once, at its first execution. -/
def execBaraw (sc : Scope) (d : SReg) (a : CReg) (s : State) : Host.Outcome State Fault Refusal :=
  .next (
    match s.p.phase with
    | some p => s.atObject (objectOp (s.rc a) 16 s.act (.barrier false) .plain .grp) fun t pa _ =>
        t.barWait d sc (t.rc a).cursor pa p.toNat
    | none => s.voids.atObject (objectOp (s.rc a) 16 s.act (.barrier false) .rel sc) fun t pa _ =>
        let (u, p) := t.arrive pa
        u.barWait d sc (t.rc a).cursor pa p)

end Sys2Proof.Machine
end

