-- ==== Sys2Proof/Machine/Tasks.lean ====
section
/-! DEFINITION. The task instructions: spawning, futures, exit, regrouping, feed queues and successor kernels
(07 R180-R192, 13 R327-R336). -/

namespace Sys2Proof.Machine

/-! ### SPAWN (07 R181-R183, 13 R328) -/

/-- Whether a closure fails the checks of 07 R182 that need no translation; `n` is the entry table's length. A nonzero
reserved byte of a tile slot (07 Table 7.3) counts as one of Table 7.2: a DESIGN CHOICE, for R143 names no report of it at
staging (assumption 121). -/
def badClosure (c : Nat) (n : Nat) : Bool :=
  let t := bitsAt c 21 3
  bitsAt c 40 88 != 0 || bitsAt c 25 7 != 0 || decide (4 < t) || decide ((96 - 16 * t) / 8 < bitsAt c 32 8) ||
    decide (n ≤ bitsAt c 0 16) || (List.range t).any fun i => bitsAt c (8 * (32 + 16 * i + 12)) 32 != 0

/-- The future capability of a closure. -/
def closureFut (c : Nat) (tags : BitVec 8) : Cap := ⟨BitVec.ofNat 128 (bitsAt c 128 128), tags.getLsbD 1⟩

/-- FLAGS of a pushed closure: LOC for SPAWNL, EARLY for a task of an early one (07 R183). -/
def pushedFlags (c : Nat) (loc early : Bool) : Nat :=
  let c := if loc && !c.testBit 24 then c + 2 ^ 24 else c
  if early && !c.testBit 18 then c + 2 ^ 18 else c

/-- Pushes a closure at the hot end of the issuing core's deque, or raises SPILL_FAULT (07 R186). -/
def State.pushTask (s : State) (c : Nat) (tags : BitVec 8) : State :=
  let g := s.g
  let e : Entry :=
    { eid := s.fresh, launch := g.launch, closure := BitVec.ofNat 1024 c, ctags := tags
      st := if bitsAt c 21 3 = 0 then .ready else .pending, staging := false, tiles := [] }
  match (s.core s.c).pushHot e with
  | none => s.trapAll Code.spill 0
  | some k =>
    let t := { s.setCore s.c k with
      fresh := s.fresh + 1
      launches := match Store.find s.launches g.launch with
        | some l => Store.put s.launches g.launch { l with tasks := l.tasks + 1 }
        | none => s.launches }
    (t.retire 8).poke s.c

def State.spawn (s : State) (m : AMode) (off : Byte) (loc : Bool) : State :=
  let a := (s.g.addrOf m (off.signExtend 64).toNat 0) % 2 ^ 64
  let s := s.voids
  if s.g.scrSize < a + 128 then s.trapAll Code.scrBounds (BitVec.ofNat 64 a)
  else if a % 128 ≠ 0 then s.trapAll Code.align (BitVec.ofNat 64 a)
  else
    let c := natOf (s.scrRead s.cur.gid a 128)
    let tags := mask8 fun i => s.scrTag s.cur.gid (a + 16 * i)
    let fut := closureFut c tags
    let n := match s.launchOf s.g with | some l => l.entries.length | none => 0
    let (t, ready) := s.releaseAt s.cur.gid s.cur.b .core true
    if badClosure c n ∨ (fut.tag ∧ (fut.cursor % 32 ≠ 0 ∨ (fut.check .atomic fut.cursor 32).isSome)) then s.trapAll Code.engine 0
    else if !ready then t
    else if !fut.tag then t.pushTask (pushedFlags c loc s.g.early) tags
    else match t.translate (dieOf t.c) t.g.asid fut.cursor .atomic with
      | (u, .error f) => u.transFault f .atomic fut.cursor u.act
      | (u, .ok x) => if x.page.mt ≠ 1 then u.trapAll Code.engine 0 else u.pushTask (pushedFlags c loc s.g.early) tags

def execSpawn (m : AMode) (off : Byte) (s : State) : Host.Outcome State Fault Refusal := .next (s.spawn m off false)

def execSpawnl (m : AMode) (off : Byte) (s : State) : Host.Outcome State Fault Refusal := .next (s.spawn m off true)

/-! ### Futures (13 R329-R332) -/

/-- A future instruction at the cell of c[A] (13 R327). -/
def State.atFuture (s : State) (a : CReg) (act : State → Nat → State) : State :=
  s.atObject (objectOp (s.rc a) 32 s.act (.object false) .plain .grp) fun t pa _ => act t pa

def execFnew (d : SReg) (a : CReg) (s : State) : Host.Outcome State Fault Refusal :=
  .next (s.voids.atFuture a fun t pa =>
    let (u, gen) := t.newFut pa
    (u.ws d (BitVec.ofNat 64 gen)).retire 8)

/-- Only a fill that succeeds is a release (13 R330). -/
def execFfill (f : Fill) (d : SReg) (a : CReg) (s : State) : Host.Outcome State Fault Refusal :=
  .next (s.voids.atFuture a fun t pa =>
    if (t.fut pa).st ≠ futEmpty then (t.ws d 1).retire 8
    else
      let (u, ready) := t.releaseAt t.cur.gid t.cur.b .pkg true
      if !ready then u
      else
        let v := match f with
          | .value b => u.fillFut pa futFull ((u.rs b).toNat + (u.rs (b + 1)).toNat * 2 ^ 64)
          | .cancel => u.fillFut pa futCancelled 0
        (v.1.ws d 0).retire 8)

/-- The result of a JOIN or JOINT on a cell that is not EMPTY (13 Table 13.2); `tf` is JOIN.t's trap. -/
def State.joinDone (s : State) (d : SReg) (f : Fut) (tf : Bool) : State :=
  let s := s.acquireFor s.cur.gid .pkg
  let code := if f.st = futFull then 0 else if f.st = futFault then 1 else 2
  let lo := if f.st = futFull then bitsAt f.val 0 64 else if f.st = futFault then bitsAt f.val 0 57 else 0
  let hi := if f.st = futFull then bitsAt f.val 64 64 else if f.st = futFault then bitsAt f.val 64 8 else 0
  let t := (((s.ws d (BitVec.ofNat 64 (code + f.gen * 2 ^ 32))).ws (d + 1) (BitVec.ofNat 64 lo)).ws (d + 2)
    (BitVec.ofNat 64 hi)).retire 8
  if tf && code != 0 then t.trap Code.joinFault (BitVec.ofNat 64 (if code = 1 then lo else 0)) 0 else t

/-- A JOIN on an EMPTY cell is chained and parks, or backs off when the count is full. -/
def execJoin (tf : Bool) (d : SReg) (a : CReg) (s : State) : Host.Outcome State Fault Refusal :=
  .next (s.atFuture a fun t pa =>
    let f := t.fut pa
    if f.st ≠ futEmpty then t.joinDone d f tf
    else if f.wcnt < 65535 then t.chainOn pa (pa + 10) (pa + 8)
    else t.backOff (t.rc a).cursor (t.readNat pa 8))

def execJoint (d : SReg) (a : CReg) (s : State) : Host.Outcome State Fault Refusal :=
  .next (s.atFuture a fun t pa =>
    let f := t.fut pa
    if f.st ≠ futEmpty then t.joinDone d f false
    else (t.ws d (BitVec.ofNat 64 (3 + f.gen * 2 ^ 32))).retire 8)

def execExit (v : Option SReg) (s : State) : Host.Outcome State Fault Refusal :=
  .next (s.exitTask s.cur.gid (.value (match v with
    | none => 0
    | some a => BitVec.ofNat 128 ((s.rs a).toNat + (s.rs (a + 1)).toNat * 2 ^ 64))))

/-! ### REGRP (07 R191, 13 R333) -/

/-- A path that waits at its own RPC for its partner is retiring. -/
def Path.retiring (p : Path) : Bool := p.live && p.wait == .reconv

/-- A group counts as having one live path, with both stacks empty. -/
def Group.single (g : Group) (b : Bool) : Bool :=
  (!(g.path (!b)).live || (g.path (!b)).retiring) && g.pa.stack.isEmpty && g.pb.stack.isEmpty

/-- The group recorded in a regroup cell. -/
def State.recorded (s : State) (pa : Nat) : Option Nat :=
  Store.findKey? s.groups fun g => match g.regroup with | some r => r.pa == pa | none => false

/-- Two groups run the same entry of the same kernel. -/
def State.sameKernel (s : State) (g w : Group) : Bool :=
  g.entry == w.entry && match s.launchOf g, s.launchOf w with
    | some a, some b => a.code == b.code && a.entries == b.entries && a.brr == b.brr
    | _, _ => false

/-- A recorded group continues after its REGRP with a status. -/
def State.regrpResume (s : State) (gid : Nat) (r : Regroup) (status : W64) : State :=
  let s := s.modGrp gid fun g =>
    let g := (g.apply (g.path r.b).pc (.s r.d status)).setPath r.b ((g.path r.b).past 8)
    { g with regroup := none }
  s.ready gid r.b

/-- Releases the group recorded in a cell with ALONE and empties the cell. -/
def State.regrpRelease (s : State) (pa : Nat) : State :=
  let s := s.homeWrite pa (bytesOf 2 0)
  match s.recorded pa with
  | none => s
  | some w =>
    match (s.grp w).regroup with
    | some r => s.regrpResume w r 1
    | none => s

/-- Records the issuing group in a cell, and parks it. -/
def State.regrpRecord (s : State) (pa : Nat) (x y : VReg) (d : SReg) : State :=
  let g := s.g
  let s := s.homeWrite pa (bytesOf 2 1 ++ [0, BitVec.ofNat 8 (popMask s.p.mask)] ++ bytesOf 2 g.wid ++ bytesOf 2 g.entry)
  (s.modG fun g => { g with regroup := some ⟨pa, s.cur.b, x, y, d⟩ }).park (.regroup pa)

/-- The vector registers after a merge: the receiver's lanes first, then the donor's range, then zeros. -/
def mergeLane (rl dl : List Nat) (recv donor : Nat → W32) (l : Nat) : W32 :=
  match rl[l]? with
  | some i => recv i
  | none => match dl[l - rl.length]? with
    | some j => donor j
    | none => 0

/-- The receiver after a merge: lanes renumbered, the continuing path in slot A with no partner (07 R191). -/
def Group.merged (r : Group) (rb : Bool) (d : Group) (db : Bool) (x y : VReg) : Group :=
  let rl := lanesOf (r.path rb).mask
  let dl := lanesOf (d.path db).mask
  let n := rl.length + dl.length
  let vs := (List.range r.v).map fun k =>
    let reg := BitVec.ofNat 8 k
    let inRange := x.toNat ≤ k && k ≤ y.toNat
    (k, mkLanes fun l => mergeLane rl dl (r.vreg reg).at (fun j => if inRange then (d.vreg reg).at j else 0) l)
  let ks := (List.range 7).map fun i =>
    let k : KReg := BitVec.ofNat 3 (i + 1)
    (i + 1, maskOf fun l => match rl[l]? with | some j => (r.kreg k).getLsbD j | none => false)
  { r with
    vregs := vs, kregs := ks
    pa := { r.path rb with mask := maskOf fun l => decide (l < n), partner := false, rpc := 0 }
    pb := {} }

/-- The operations of a group that keeps one path. -/
def State.onePath (s : State) (gid : Nat) : State :=
  { s with ops := s.ops.map fun (o : Nat × OpRec) =>
    if o.2.gid = gid then (o.1, { o.2 with chA := true, chB := false, b := false }) else o }

/-- Merges `donor` into `recv`, whose path continues after its REGRP with MERGED. -/
def State.regrpMerge (s : State) (pa recv : Nat) (rb : Bool) (rd : SReg) (donor : Nat) (db : Bool) (x y : VReg) : State :=
  let s := s.homeWrite pa (bytesOf 2 0)
  let d := s.grp donor
  let rcount := popMask ((s.grp recv).path rb).mask
  let s := s.modGrp recv fun g =>
    let g := (g.merged rb d db x y).apply (g.path rb).pc (.s rd 0)
    { g with regroup := none, pa := { g.pa.past 8 with wait := .none } }
  let s := s.modGrp donor fun g => { g with regroup := none }
  (s.onePath recv).endTask donor (.value (BitVec.ofNat 128 (1 + rcount * 256)))

/-- Whether operations charged to the issuing path have yet to complete: REGRP reaches the cell only after them (07 R191). -/
def State.charging (s : State) : Bool := s.ops.any fun o => o.2.gid == s.cur.gid && o.2.charged s.cur.b && !o.2.parked

/-- A merge waits until the operations of both of the donor's paths have completed and its release has been performed: the
donor's task ends with it (07 R180, R191, 13 R332). -/
def State.regrpJoin (s : State) (pa recv : Nat) (rb : Bool) (rd : SReg) (donor : Nat) (db : Bool) (x y : VReg) : State :=
  let (t, ready) := s.endable donor
  if ready then t.regrpMerge pa recv rb rd donor db x y else t

/-- REGRP with a range at its cell, whose state is 0 or 1. Nonzero reserved bytes of the cell (07 Table 7.7: 15-8 and 2) are
ignored: a DESIGN CHOICE, for 07 states no report of them (assumption 133). -/
def State.regrpAt (s : State) (pa : Nat) (x y : VReg) (d : SReg) : State :=
  let g := s.g
  match if s.readNat pa 2 = 0 then none else s.recorded pa with
  | none => s.regrpRecord pa x y d
  | some w =>
    let wg := s.grp w
    match wg.regroup with
    | none => s.regrpRecord pa x y d
    | some r =>
      let a := popMask s.p.mask
      let n := popMask (wg.path r.b).mask
      if wg.resident && wg.core == g.core && s.sameKernel g wg && decide (a + n ≤ 32) && wg.single r.b then
        if a ≤ n then s.regrpJoin pa w r.b r.d s.cur.gid s.cur.b x y
        else s.regrpJoin pa s.cur.gid s.cur.b d w r.b r.x r.y
      else (s.regrpRelease pa).regrpRecord pa x y d

/-- A group with another live path, or with an entry on a stack, gets ALONE before the cell is touched; .flush acts for any
group (assumption 122). -/
def execRegrp (f : Regrp) (d : SReg) (a : CReg) (s : State) : Host.Outcome State Fault Refusal :=
  .next (s.voids.atObject (objectOp (s.rc a) 16 s.act (.object true) .plain .grp) fun t pa _ =>
    if f != .flush && !t.g.single t.cur.b then (t.ws d 1).retire 8
    else if t.charging then t
    else if 1 < t.readNat pa 2 then t.trapAll Code.align (BitVec.ofNat 64 (t.rc a).cursor)
    else match f with
      | .range b c => t.regrpAt pa b c d
      | .flush => ((t.regrpRelease pa).ws d 1).retire 8)

/-! ### Feed queues (13 R334, R335) -/

structure Feed where
  head   : Nat
  tail   : Nat
  capl   : Nat
  closed : Bool
  wcnt   : Nat
  valid  : Bool
  deriving DecidableEq, Repr

def State.feed (s : State) (pa : Nat) : Feed :=
  let n := s.readNat pa 64
  let capl := bitsAt n 128 8
  { head := bitsAt n 0 64, tail := bitsAt n 64 64, capl := capl, closed := n.testBit 136, wcnt := bitsAt n 144 16
    valid := pa % 256 == 0 && bitsAt n 176 336 == 0 && bitsAt n 137 7 == 0 && decide (2 ≤ capl) && decide (capl ≤ 11)
      && decide (bitsAt (localOf pa) 16 10 + 2 ^ capl / 4 ≤ 1023) }

/-- Where record `i` lies. -/
def feedRecord (pa capl i : Nat) : Nat :=
  let k := i % 2 ^ capl
  pa + (1 + k / 4) * 0x10000 + k % 4 * 64

/-- QPOP and QAPP: the scratch checks beside those of the capability, then the step at the bank. -/
def State.atFeed (s : State) (a : CReg) (scr : Option SReg) (act : State → Nat → Feed → State) : State :=
  let m := objectOp (s.rc a) 64 s.act (.object false) .plain .grp
  let scrBad := match scr with
    | none => none
    | some b =>
      let o := (s.rs b).toNat
      if s.g.scrSize < o + 64 then some (Code.scrBounds, o) else if o % 64 ≠ 0 then some (Code.align, o) else none
  let capBad := (m.laneCause ⟨0, (s.rc a).cursor, 64, .load⟩).map fun c => (c, (s.rc a).cursor)
  match scrBad, capBad with
  | some x, none => s.trapAll x.1 (BitVec.ofNat 64 x.2)
  | some x, some y =>
    let z := if y.1 < x.1 ∨ (y.1 = x.1 ∧ y.2 < x.2) then y else x
    s.trapAll z.1 (BitVec.ofNat 64 z.2)
  | none, _ => s.atObject m fun t pa _ =>
    let f := t.feed pa
    if !f.valid then t.trapAll Code.align (BitVec.ofNat 64 (t.rc a).cursor) else act t pa f

def execQapp (f : QApp) (d : SReg) (a : CReg) (s : State) : Host.Outcome State Fault Refusal :=
  .next (match f with
    | .close => s.voids.atFeed a none fun t pa _ =>
      (((t.homeWrite (pa + 17) [1]).gongChain pa (pa + 20) (pa + 18)).ws d 0).retire 8
    | .app b => s.voids.atFeed a (some b) fun t pa q =>
      if q.closed then (t.ws d 2).retire 8
      else if (q.tail + 2 ^ 64 - q.head) % 2 ^ 64 = 2 ^ q.capl then (t.ws d 1).retire 8
      else
        let (u, ready) := t.releaseAt t.cur.gid t.cur.b .pkg true
        if !ready then u
        else
          let bs := u.scrRead u.cur.gid (u.rs b).toNat 64
          let v := (u.homeWrite (feedRecord pa q.capl q.tail) bs).homeWrite (pa + 8) (bytesOf 8 (q.tail + 1))
          ((v.gongChain pa (pa + 20) (pa + 18)).ws d 0).retire 8)

def execQpop (nb : Bool) (d : SReg) (a : CReg) (b : SReg) (s : State) : Host.Outcome State Fault Refusal :=
  .next (s.voids.atFeed a (some b) fun t pa q =>
    if q.head ≠ q.tail then
      let bs := t.read (feedRecord pa q.capl q.head) 64
      let u := (t.scrStore (t.rs b).toNat bs).homeWrite pa (bytesOf 8 (q.head + 1))
      ((u.acquireFor u.cur.gid .pkg).ws d 0).retire 8
    else if q.closed then (t.ws d 2).retire 8
    else if nb then (t.ws d 1).retire 8
    else if q.wcnt < 65535 then t.chainOn pa (pa + 20) (pa + 18)
    else t.backOff (t.rc a).cursor (t.readNat pa 8))

/-! ### Successor kernels (07 R192, 13 R336) -/

def execLhint (s : State) : Host.Outcome State Fault Refusal :=
  .next ({ s with launches := match Store.find s.launches s.g.launch with
    | some l => Store.put s.launches s.g.launch { l with lhinted := true }
    | none => s.launches }.retire 8)

/-- WAITPRED: 0 at once in a kernel that did not start early; else it waits for the predecessor's last EXIT. -/
def execWaitpred (d : SReg) (s : State) : Host.Outcome State Fault Refusal :=
  .next (match s.launchOf s.g with
    | none => (s.ws d 0).retire 8
    | some l =>
      match if l.early then l.pred.bind (Store.find s.launches) else none with
      | none => ((s.modG fun g => { g with early := false }).ws d 0).retire 8
      | some p =>
        if p.done then
          (((s.acquireFor s.cur.gid .pkg).modG fun g => { g with early := false }).ws d (if p.aborted then 1 else 0)).retire 8
        else s.park .pred)

end Sys2Proof.Machine
end

