-- ==== Sys2Proof/Machine/System.lean ====
section
/-! DEFINITION. Special registers, software traps, save hints, shootdowns and instruction-cache flushes (01 R38, R39;
04 R127; 13 R337-R344). -/

namespace Sys2Proof.Machine

/-! ### Special registers (13 R337-R339) -/

/-- A special register of 64 bits or less, zero-extended. sr.laneid is read lane by lane, and sr.fut as a capability. -/
def State.srVal (s : State) (r : Sr) : W64 :=
  let g := s.g
  match r with
  | .laneid => 0
  | .grpid => BitVec.ofNat 64 g.slot
  | .core => BitVec.ofNat 64 (g.core % 32)
  | .die => BitVec.ofNat 64 (dieOf g.core)
  | .pkg => BitVec.ofNat 64 s.pkg
  | .cycle => (s.core g.core).cycle
  | .fut => 0
  | .cause => g.cause.zeroExtend 64
  | .faddr => g.faddr
  | .epc => g.epc
  | .emask => g.emask.zeroExtend 64
  | .fpcsr => g.fpcsr
  | .f4x => g.f4x

def execRdsr (f : RdDst) (r : Sr) (s : State) : Host.Outcome State Fault Refusal :=
  .next ((match f with
    | .s d => s.ws d (s.srVal r)
    | .v d => s.wv d s.act (mkLanes fun (l : Nat) => if r == Sr.laneid then BitVec.ofNat 32 l else (s.srVal r).truncate 32)
    | .c d => s.wc d s.g.fut).retire 8)

/-- The bits of sr.fpcsr that a write changes (08 Table 8.4): RM, trap enables, sticky flags. -/
def fpcsrBits : W64 := 0x71F3F

/-- sr.fpcsr after a write: reserved bits stay 0, and a reserved code leaves RM unchanged (08 R206). -/
def fpcsrWrite (old v : W64) : W64 :=
  let w := v &&& fpcsrBits
  if 5 ≤ bitsAt v.toNat 16 3 then (w &&& 0x1F3F) ||| (old &&& 0x70000) else w

/-- A special register after WRSR; none for a read-only one. -/
def Group.writeSr (g : Group) (r : Sr) (v : W64) : Option Group :=
  match r with
  | .laneid => none
  | .grpid => none
  | .core => none
  | .die => none
  | .pkg => none
  | .cycle => none
  | .fut => none
  | .cause => some { g with cause := v.truncate 8 }
  | .faddr => some { g with faddr := v }
  | .epc => some { g with epc := v }
  | .emask => some { g with emask := v.truncate 32 }
  | .fpcsr => some { g with fpcsr := fpcsrWrite g.fpcsr v }
  | .f4x => some { g with f4x := v &&& 0xFFFF }

def execWrsr (r : Sr) (a : SReg) (s : State) : Host.Outcome State Fault Refusal :=
  .next (match s.g.writeSr r (s.rs a) with
    | none => s.trapHere Code.priv
    | some g => (s.setGrp s.cur.gid g).retire 8)

/-! ### TRAP, BRK and UDF (13 R340, R344) -/

def execTrap (imm : Byte) (s : State) : Host.Outcome State Fault Refusal :=
  .next ((s.retire 8).trap Code.software (imm.zeroExtend 64) 0)

def execBrk (imm : Byte) (s : State) : Host.Outcome State Fault Refusal :=
  .next (s.trapAll Code.breakpoint (imm.zeroExtend 64))

def execUdf (s : State) : Host.Outcome State Fault Refusal := .next (s.trapHere Code.illegalOpcode)

/-! ### PHINT (13 R341) -/

/-- A hint: an extent beyond the window raises SCR_BOUNDS at the lowest offset outside it. -/
def execPhint (d a b c : VReg) (smask : W32) (scrx : BitVec 16) (tobl : Bool) (s : State) :
    Host.Outcome State Fault Refusal :=
  .next (
    if s.g.scrSize < 128 * scrx.toNat then s.trapAll Code.scrBounds (BitVec.ofNat 64 s.g.scrSize)
    else (s.retire 16).modP fun p => { p with hint := some ⟨d, a, b, c, smask, scrx, tobl⟩, atHint := true })

/-! ### Shootdowns (01 R38, R39) -/

/-- Whether a sharer record stands for a line filled under an address space in a virtual range. -/
def Sharer.meets (r : Sharer) (k asid lo hi : Nat) : Bool :=
  r.asid == asid && decide (r.vb < hi) && decide (lo < r.vb + 2 ^ k)

/-- Purges a die's translation and page-walk caches (01 R38). -/
def Die.purgeCaches (d : Die) (asid lo hi : Nat) : Die :=
  let clear (a va lvl : Nat) : Bool := !(a == asid && decide (va < hi) && decide (lo < va + 2 ^ (15 + 10 * lvl)))
  { d with tcache := d.tcache.filter fun t => clear t.asid t.va t.lvl, wcache := d.wcache.filter fun t => clear t.asid t.va t.lvl }

/-- Purges a die's directory records (01 R38). A region larger than a page is split first, so that the records of other
pages stay; a set that this overfills gives up entries (02 R55). -/
def State.purgeRecords (s : State) (die asid lo hi : Nat) : State :=
  let big := (s.die die).dirs.filter fun e => e.k == 16 && e.sharers.any fun r => r.meets e.k asid lo hi
  let t := s.modDie die fun d => { d with
    dirs := (d.dirs.flatMap fun e => if big.contains e then e.halves else [e]).map fun e =>
      { e with sharers := e.sharers.filter fun r => !r.meets e.k asid lo hi } }
  big.foldl (fun t e => t.trimSet 32 16 die e.base) t

def Line.meets (l : Line) (asid lo hi : Nat) : Bool := l.asid == asid && decide (lo ≤ l.va) && decide (l.va < hi)

/-- Purges a core's lines: leased ones send LRET first, one that is being filled goes once its loads are served, and an
access that waits for a lease translates anew once it has one. -/
def State.purgeLines (s : State) (core asid lo hi : Nat) : State :=
  let c := s.core core
  let out := (c.lines.filter fun l => l.meets asid lo hi && l.lease && !l.pending).map fun l =>
    Instr.lret core l.pa l.data l.dirty l.tags
  (s.setCore core { c with
    lines := (c.lines.filter fun l => !l.meets asid lo hi || l.pending).map fun l =>
      if l.meets asid lo hi then { l with stale := true } else l
    lwaits := c.lwaits.map fun w =>
      if w.asid = asid ∧ lo ≤ w.va ∧ w.va < hi then { w with stale := true } else w }).sendAll out

/-- A core returns its allowance entries of a virtual range (04 R127). -/
def State.returnRange (s : State) (core asid lo hi : Nat) : State :=
  let c := s.core core
  let out := c.allow.filter fun e => e.asid == asid && decide (lo ≤ e.va) && decide (e.va < hi)
  (s.setCore core { c with allow := c.allow.filter fun e => !out.contains e }).sendAll
    (out.map fun e => .aret core e.pa e.amount)

/-- The cores of some dies that hold anything. -/
def State.coresOf (s : State) (dies : List Nat) : List Nat := (s.cores.map (·.1)).filter fun c => dies.contains (dieOf c)

/-- The monitored words that a shootdown covers: of the dies in scope, and of groups that run there (12 R322). -/
def State.dropMonitors (s : State) (dies : List Nat) (asid lo hi : Nat) : State :=
  s.dies.foldl (fun t d => t.gongMonitors d.1 ((t.die d.1).monitors.filter fun m =>
    m.asid == asid && decide (lo ≤ m.va) && decide (m.va < hi) && (dies.contains d.1 || dies.contains (dieOf (t.grp m.gid).core)))) s

/-- Every purge of a shootdown. -/
def State.purgeAll (s : State) (dies : List Nat) (asid lo hi : Nat) : State :=
  let s := dies.foldl (fun t d => (t.modDie d fun x => x.purgeCaches asid lo hi).purgeRecords d asid lo hi) s
  let s := (s.coresOf dies).foldl (fun t c => (t.purgeLines c asid lo hi).returnRange c asid lo hi) s
  s.dropMonitors dies asid lo hi

/-- Starts a shootdown for path `b` of group `gid`, or for the front end when `gid` is 0; answers its number. -/
def State.shootdown (s : State) (asid lo hi : Nat) (dies : List Nat) (gid : Nat) (b : Bool) : State × Nat :=
  let sid := s.fresh
  let ops := (s.ops.filter fun o => (s.grp o.2.gid).asid == asid && dies.contains (dieOf o.2.core)).map (·.1)
  let k : Shoot := ⟨sid, asid, lo, hi, dies, ops, false, [], gid, b⟩
  let s := s.purgeAll dies asid lo hi
  ((({ s with shoots := s.shoots ++ [k], fresh := sid + 1 }).send (.shootdownComplete sid)), sid)

/-- Whether a shootdown still waits for an access that may have used a purged entry: of an operation, a parked one's lanes in
flight included; a store that went early from an L1; a fill, a prefetch's included; or an LRET. -/
def State.shootBusy (s : State) (k : Shoot) : Bool :=
  (s.ops.any fun o => k.ops.contains o.1 && o.2.out != 0) ||
    (s.agenda.any fun i => match i with
      | .lret c .. => k.dies.contains (dieOf c)
      | .sliceStore r => r.early && r.asid == k.asid && decide (k.lo ≤ r.va) && decide (r.va < k.hi) && k.dies.contains (dieOf r.core)
      | _ => false) ||
    s.cores.any fun c => k.dies.contains (dieOf c.1) && c.2.lines.any fun l => l.pending && l.stale && l.meets k.asid k.lo k.hi

/-- The dirty guest lines of a shootdown's dies: those that its purged translations have filled are among them (01 R38). -/
def State.dirtyLines (s : State) (dies : List Nat) : List (Nat × Nat) :=
  dies.flatMap fun d => ((s.die d).guests.filter fun g => g.dirty != 0).map fun g => (d, g.pa)

/-- Whether one of a shootdown's guest lines is still dirty. -/
def State.shootDirty (s : State) (k : Shoot) : Bool :=
  k.lines.any fun l => match (s.die l.1).guest l.2 with | some g => g.dirty != 0 | none => false

/-- The checks of INVV and CFLUSH, then `act` on the bytes named (13 R342, R343). -/
def State.overRange (s : State) (a : CReg) (b : SReg) (act : State → Nat → Nat → State) : State :=
  let c := s.rc a
  let n := (s.rs b).toNat
  if !c.tag then s.trapAll Code.capTag (BitVec.ofNat 64 c.cursor)
  else if n = 0 then s.retire 8
  else if !c.covers c.cursor n then s.trapAll Code.capBounds (BitVec.ofNat 64 c.cursor)
  else act s c.cursor n

def allDies : List Nat := [0, 1, 2, 3, 4, 5, 6, 7]

/-- INVV: the path waits until the shootdown completes (13 R342). -/
def execInvv (pkg : Bool) (a : CReg) (b : SReg) (s : State) : Host.Outcome State Fault Refusal :=
  .next (s.overRange a b fun t va n =>
    let (u, sid) := t.shootdown t.g.asid (va / 0x8000 * 0x8000) ((va + n + 0x7FFF) / 0x8000 * 0x8000)
      (if pkg then allDies else [dieOf t.c]) t.cur.gid t.cur.b
    (u.retire 8).park (.shootdown sid))

/-! ### CFLUSH (13 R343) -/

/-- Drops a core's instruction-cache lines that hold any byte of a range of an address space. -/
def Core.flushCode (c : Core) (asid va n : Nat) : Core :=
  { c with icache := c.icache.filter fun e => !(e.1 == asid && decide (e.2.1 < va + n) && decide (va < e.2.1 + 32)) }

/-- The same on every core of a list. -/
def State.flushCode (s : State) (cores : List Nat) (asid va n : Nat) : State :=
  cores.foldl (fun t k => t.modCore k fun c => c.flushCode asid va n) s

/-- CFLUSH: every core in scope invalidates in this step. -/
def execCflush (f : FlushScope) (a : CReg) (b : SReg) (s : State) : Host.Outcome State Fault Refusal :=
  .next (s.overRange a b fun t va n =>
    let cores := match f with
      | .core => [t.c]
      | .die => t.coresOf [dieOf t.c]
      | .pkg => t.coresOf allDies
    (t.flushCode cores t.g.asid va n).retire 8)

end Sys2Proof.Machine
end

