-- ==== Sys2Proof/Machine/Matrix.lean ====
section
/-! DEFINITION. The matrix unit: element formats, TOB tiles as bit planes, format slots, PLANE, MMA and MZERO
(05 R140; 08 R200, R201, R209-R214; 14 R353-R362). -/

namespace Sys2Proof.Machine

/-! ### Element formats (05 Table 5.5) -/

/-- An element format: float or integer. -/
inductive EF where
  | flt (f : Fmt)
  | int (signed : Bool) (w : Nat)
  deriving DecidableEq, Repr

/-- The format of a code; none for a reserved one. -/
def efOf (c : Nat) : Option EF :=
  match c with
  | 0x01 => some (.flt fp64)
  | 0x02 => some (.flt fp32)
  | 0x03 => some (.flt fp16)
  | 0x04 => some (.flt bf16)
  | 0x08 => some (.int true 8)
  | 0x09 => some (.int false 8)
  | 0x0A => some (.int true 16)
  | 0x0B => some (.int false 16)
  | 0x0C => some (.int true 32)
  | 0x0D => some (.int false 32)
  | 0x0E => some (.int true 64)
  | 0x0F => some (.int false 64)
  | 0x10 => some (.flt .f4)
  | n => if 0x21 ≤ n ∧ n ≤ 0x3F ∧ n % 8 ≠ 0 then some (.flt (.p8 (n % 8) (n / 8 % 2 == 0) (n / 16 % 2 == 0))) else none

/-- The width of a code in bits. -/
def efBits : EF → Nat
  | .flt f => fmtBits f
  | .int _ w => w

/-- A format that the matrix unit multiplies (14 R356). -/
def efMatrix : EF → Bool
  | .flt f => f != fp64
  | .int _ w => decide (w ≤ 16)

def efFloat : EF → Bool
  | .flt _ => true
  | .int _ _ => false

/-- The exact value of an integer. -/
def intVal (n : Int) : Val := .fin (decide (n < 0)) n.natAbs 0 false

/-- The value of a code as a signed or unsigned integer of `w` bits. -/
def intOf (signed : Bool) (w c : Nat) : Int := if signed then (BitVec.ofNat w c).toInt else (c % 2 ^ w : Nat)

/-- A value clamped to the range of an integer format. -/
def clampInt (signed : Bool) (w : Nat) (n : Int) : Int :=
  if signed then max (-(2 ^ (w - 1) : Nat)) (min n ((2 ^ (w - 1) : Nat) - 1)) else max 0 (min n ((2 ^ w : Nat) - 1))

/-- An integer as the bits of a code of `w` bits. -/
def codeOfInt (w : Nat) (n : Int) : Nat := (n % (2 ^ w : Nat)).toNat

/-! ### Tiles (14 R353, R354) -/

/-- Bit `b` of the code of element `e` of a tile with `k` bytes per plane: its byte in the slot and its bit there. -/
def planeByte (k b e : Nat) : Nat := b * k + e / 8

/-- The code of element `e` of a tile of `w` planes. -/
def tileCode (bs : List Byte) (k w e : Nat) : Nat :=
  (List.range w).foldl (fun a b => if (bs.getD (planeByte k b e) 0).getLsbD (e % 8) then a + 2 ^ b else a) 0

/-- A tile with the codes of some elements replaced. -/
def tilePut (bs : List Byte) (k w : Nat) (code : Nat → Option Nat) : List Byte :=
  (List.range (w * k)).map fun i =>
    let b := i / k
    let old := bs.getD i 0
    BitVec.ofNat 8 ((List.range 8).foldl (fun a t =>
      let bit := match code (i % k * 8 + t) with | some c => c.testBit b | none => old.getLsbD t
      if bit then a + 2 ^ t else a) 0)

/-! ### Format slots (14 Table 14.1) -/

/-- One operand's half of a format block. -/
structure Side where
  ef   : EF
  pd   : Nat
  x    : Nat
  sce  : Bool
  scl  : Nat
  deriving DecidableEq, Repr

/-- A valid format block. -/
structure FmtSlot where
  k   : Nat
  bl  : Nat
  acc : Bool
  a   : Side
  b   : Side
  deriving DecidableEq, Repr

/-- The reserved bits of a format block. -/
def fmtReserved (n : Nat) : Bool :=
  bitsAt n 196 60 != 0 || n.testBit 193 || bitsAt n 112 16 != 0 || bitsAt n 83 13 != 0 || bitsAt n 77 3 != 0 ||
    bitsAt n 48 16 != 0 || bitsAt n 19 13 != 0 || bitsAt n 13 3 != 0

/-- A declared precision is in range (14 R356). -/
def pdOk (f : EF) (pd : Nat) : Bool :=
  match f with
  | .flt _ => decide (2 ≤ pd) && decide (pd ≤ 24)
  | .int _ w => decide (1 ≤ pd) && decide (pd ≤ w)

/-- The contents of a format block; none when it is invalid (14 R356). -/
def fmtSlot (n : Nat) : Option FmtSlot :=
  let kc := bitsAt n 194 2
  let bl := bitsAt n 16 2
  match efOf (bitsAt n 0 8), efOf (bitsAt n 64 8) with
  | some fa, some fb =>
    let side (f : EF) (o so : Nat) : Side := ⟨f, bitsAt n (o + 8) 5, bitsAt n (o + 32) 16, n.testBit (o + 18), bitsAt n so 32⟩
    let a := side fa 0 128
    let b := side fb 64 160
    let acc := n.testBit 192
    if fmtReserved n || kc == 3 || bl == 3 || bitsAt n 80 2 != bl || decide (kc < bl) || !efMatrix fa || !efMatrix fb ||
        efFloat fa != efFloat fb || !pdOk fa a.pd || !pdOk fb b.pd || acc == efFloat fa then none
    else some ⟨16 * 2 ^ kc, 16 * 2 ^ bl, acc, a, b⟩
  | _, _ => none

/-- Format slot `n` of a group; 0 at dispatch, which is invalid. -/
def Group.fmtAt (g : Group) (n : BitVec 2) : Option FmtSlot := fmtSlot (Store.get 0 g.fmts n.toNat).toNat

/-- MFMT. The block is placed in the order of the matrix unit at issue (14 R361). -/
def execMfmt (n : BitVec 2) (a : SReg) (s : State) : Host.Outcome State Fault Refusal :=
  let w (i : Nat) : Nat := (s.rs (a + BitVec.ofNat 6 i)).toNat
  let blk := w 0 + w 1 * 2 ^ 64 + w 2 * 2 ^ 128 + w 3 * 2 ^ 192
  .next (match fmtSlot blk with
    | none => s.trapHere Code.illegalField
    | some _ =>
      (s.modG fun g => { g with fmts := Store.put g.fmts n.toNat (BitVec.ofNat 256 blk) }).countNow true [] 0 8)

/-! ### PLANE (14 R357) -/

/-- A source element of PLANE as its value, and whether it is a float: elements are held in the low bits of a lane. -/
def planeVal (ty : ETy) (c : Nat) : Val :=
  match ty with
  | .f32 => decodeBase fp32 c
  | .f16 => decodeBase fp16 c
  | .f16x2 => decodeBase fp16 c
  | .bf16 => decodeBase bf16 c
  | .bf16x2 => decodeBase bf16 c
  | .f64 => decodeBase fp64 c
  | .i32 | .n32 | .i64 | .n64 | .i16x2 | .n16x2 | .i8x4 | .n8x4 | .b32 => intVal (intOf (etySigned ty) ty.elemBits c)

def etyFloat : ETy → Bool
  | .f32 | .f64 | .f16x2 | .bf16x2 | .f16 | .bf16 => true
  | .i32 | .n32 | .i64 | .n64 | .i16x2 | .n16x2 | .i8x4 | .n8x4 | .b32 => false

/-- The code that PLANE writes for a source element, and its flags. -/
def planeCode (ty : ETy) (d : Side) (rm : Rm) (sat : Bool) (c : Nat) : Nat × Nat :=
  match d.ef with
  | .flt f => cvt f rm sat (planeVal ty c)
  | .int sg w =>
    if etyFloat ty then
      let r := toInt d.pd sg rm (planeVal ty c)
      (codeOfInt w (intOf sg d.pd r.1), r.2)
    else (codeOfInt w (clampInt sg d.pd (intOf (etySigned ty) ty.elemBits c)), 0)

def execPlane (b : Bool) (p : Pred) (ty : ETy) (r : Rnd) (d : SReg) (a : VReg) (n : BitVec 2) (seg : Byte) (s : State) :
    Host.Outcome State Fault Refusal :=
  let g := s.g
  .next (match g.fmtAt n with
    | none => s.trapHere Code.illegalField
    | some f =>
      let side := if b then f.b else f.a
      let m := elemCount ty
      let slot := (s.rs d).toNat
      if g.tobCnt ≤ slot then s.trapAll Code.scrBounds (BitVec.ofNat 64 slot)
      else if 8 * f.k ≤ seg.toNat * (32 * m) then s.trapAll Code.scrBounds (seg.zeroExtend 64)
      else
        let sel := s.sel p
        let w := efBits side.ef
        let one (l h : Nat) : Nat × Nat := planeCode ty side (g.roundMode r.rm) r.sat (elemAt ty ((g.vreg a).at l).toNat h)
        let code (e : Nat) : Option Nat :=
          let i := e - 32 * m * seg.toNat
          if 32 * m * seg.toNat ≤ e && decide (i < 32 * m) && sel.getLsbD (i / m) then some (one (i / m) (i % m)).1 else none
        let fl := (lanesOf sel).foldl (fun x l => (List.range m).foldl (fun x h => x ||| (one l h).2) x) 0
        if sel = 0 then s.retire 8
        else (s.tobWrite s.cur.gid (2048 * slot) (tilePut (s.tobRead s.cur.gid (2048 * slot) (w * f.k)) f.k w code)).countNow
          true [] fl 8)

/-! ### MMA (08 R209-R214, 14 R359) -/

/-- The value of a code at a declared precision (08 R209, 14 R354). -/
def operandVal (d : Side) (c : Nat) : Val :=
  match d.ef with
  | .int sg _ => intVal (intOf sg d.pd (c % 2 ^ d.pd))
  | .flt f =>
    if f = .f4 ∧ c % 16 = 8 then decodeBase bf16 d.x
    else match decodeBase f c with
      | .fin s m e st => if d.pd < fmtPrec f then .fin s (m / 2 ^ (fmtPrec f - d.pd) * 2 ^ (fmtPrec f - d.pd)) e st else .fin s m e st
      | .nan sig => .nan sig
      | .inf s => .inf s

/-- The value of a scale code; 0xFF is an invalid block (08 R201). -/
def scaleVal (c : Nat) : Val := if c = 0 then zeroVal false else .fin false 1 ((c : Int) - 128) false

/-- The product of four factors, of which no operand is a NaN and no scale is invalid; none for 0 × ∞ (08 R213). -/
def product4 (a b sa sb : Val) : Option Val :=
  let fs := [a, b, sa, sb]
  if fs.any isInf then
    if fs.any isZero then none else some (.inf (signOf a != signOf b))
  else (mulVals a b).bind fun x => (mulVals sa sb).bind fun y => mulVals x y

/-- Whether a product is 0 × ∞ although an operand of it is a NaN. -/
def zeroInf (a b sa sb : Val) : Bool := [a, b, sa, sb].any isInf && [a, b, sa, sb].any isZero

/-- A block's sum (08 R212, R213): its value before rounding, and NV. -/
def blockSum (ps : List (Val × Val)) (sa sb : Nat) : Val × Nat :=
  let sig := ps.any fun p => isSig p.1 || isSig p.2
  if sa = 0xFF ∨ sb = 0xFF then (.nan false, fNV)
  else
    let va := scaleVal sa
    let vb := scaleVal sb
    let prods := ps.map fun p => if isNan p.1 || isNan p.2 then some (Val.nan false) else product4 p.1 p.2 va vb
    let zi := ps.any fun p => zeroInf p.1 p.2 va vb
    let vals := prods.filterMap id
    let infs := (vals.filter isInf).map signOf
    let clash := infs.contains true && infs.contains false
    if zi || clash then (.nan false, fNV)
    else if vals.any isNan then (.nan false, if sig then fNV else 0)
    else
      let r := sumVals .rne vals
      (if isZero r.1 then zeroVal false else r.1, 0)

/-- One block added to an FP32 accumulator: two roundings (08 R212). -/
def blockAcc (acc : Nat × Nat) (ps : List (Val × Val)) (sa sb : Nat) : Nat × Nat :=
  let b := blockSum ps sa sb
  let r1 := cvt fp32 .rne false b.1
  let d := addF .rne (decodeBase fp32 acc.1) (decodeBase fp32 r1.1)
  let r2 := cvt fp32 .rne false d.1
  (r2.1, acc.2 ||| b.2 ||| r1.2 ||| d.2 ||| r2.2)

/-- An element of an FP32 accumulator, with `rows` its blocks: products and scales. -/
def mmaFloat (old : Nat) (blocks : List (List (Val × Val) × Nat × Nat)) : Nat × Nat :=
  blocks.foldl (fun acc b => blockAcc acc b.1 b.2.1 b.2.2) (old, 0)

/-- An element of an INT32 accumulator (08 R214). -/
def mmaInt (old : Nat) (blocks : List (List (Val × Val) × Nat × Nat)) : Nat × Nat :=
  if blocks.any fun b => b.2.1 == 0xFF || b.2.2 == 0xFF then (0x80000000, fNV)
  else
    let vals := intVal (intOf true 32 old) :: blocks.flatMap fun b =>
      b.1.filterMap fun p => product4 p.1 p.2 (scaleVal b.2.1) (scaleVal b.2.2)
    match (sumVals .rne vals).1 with
    | .fin s m e st =>
      let r := roundInt .rne s m e st
      let n : Int := if s then -(r.1 : Int) else r.1
      let c := clampInt true 32 n
      (codeOfInt 32 c, (if r.2 then fNX else 0) ||| (if c = n then 0 else fIS))
    | .nan _ => (0, 0)
    | .inf _ => (0, 0)

/-- The quarters that an MMA computes: lane 8q selected, lanes 8q to 8q + 7 active (14 R359). -/
def State.quarters (s : State) (p : Pred) : List Nat :=
  (List.range 4).filter fun q => (s.sel p).getLsbD (8 * q) && (List.range 8).all fun i => s.act.getLsbD (8 * q + i)

/-- The mask of the lanes of some quarters. -/
def quarterMask (qs : List Nat) : Mask := maskOf fun l => qs.contains (l / 8)

/-- The slot indices of a quarter: A's and B's. -/
def Group.slotsOf (g : Group) (a : VReg) (q : Nat) : Nat × Nat :=
  let x := ((g.vreg a).at (8 * q)).toNat
  (x % 65536, x / 65536)

/-- The lowest scale byte of a quarter that lies outside the window; none when all lie inside. -/
def scaleBad (window nb q : Nat) (d : Side) : Option Nat :=
  if d.sce ∧ window < d.scl + (8 * q + 8) * nb then some (max window (d.scl + 8 * q * nb)) else none

/-- A scale's code: the scratch byte of row or column `i` and block `b`, or 1's. -/
def State.scaleAt (s : State) (d : Side) (nb i b : Nat) : Nat :=
  if d.sce then natOf (s.scrRead s.cur.gid (d.scl + i * nb + b) 1) else 128

/-- The blocks of element (i, j) of quarter `q`: operand pairs and the two scales. -/
def State.mmaBlocks (s : State) (f : FmtSlot) (ta tb : List Byte) (q i j : Nat) : List (List (Val × Val) × Nat × Nat) :=
  let nb := f.k / f.bl
  (List.range nb).map fun b =>
    ((List.range f.bl).map fun t =>
        let k := b * f.bl + t
        (operandVal f.a (tileCode ta f.k (efBits f.a.ef) (i * f.k + k)), operandVal f.b (tileCode tb f.k (efBits f.b.ef) (j * f.k + k))),
      s.scaleAt f.a nb (8 * q + i) b, s.scaleAt f.b nb (8 * q + j) b)

/-- Element (i, j) of quarter `q` after an MMA, and its flags. -/
def State.mmaElem (s : State) (f : FmtSlot) (d : VReg) (ta tb : List Byte) (q i j : Nat) : Nat × Nat :=
  let old := ((s.rv (d + BitVec.ofNat 8 j)).at (8 * q + i)).toNat
  (if f.acc then mmaInt else mmaFloat) old (s.mmaBlocks f ta tb q i j)

/-- The eight columns of the computed quarters, with flags: entry j holds the 32 lanes of v[D + j]. -/
def State.mmaColumns (s : State) (f : FmtSlot) (d a : VReg) (qs : List Nat) : List (List (Nat × Nat)) :=
  let tiles := qs.map fun q =>
    let (sa, sb) := s.g.slotsOf a q
    (q, s.tobRead s.cur.gid (2048 * sa) (f.k * efBits f.a.ef), s.tobRead s.cur.gid (2048 * sb) (f.k * efBits f.b.ef))
  (List.range 8).map fun j => (List.range 32).map fun l =>
    match tiles.find? (·.1 == l / 8) with
    | some (q, ta, tb) => s.mmaElem f d ta tb q (l % 8) j
    | none => (0, 0)

/-- An accumulator block's writes. -/
def blockWrites (d : VReg) (m : Mask) (f : Nat → Nat → Nat) : List RegWrite :=
  (List.range 8).map fun j => .v (d + BitVec.ofNat 8 j) m (mkLanes fun l => BitVec.ofNat 32 (f j l))

def execMma (p : Pred) (d a : VReg) (n : BitVec 2) (s : State) : Host.Outcome State Fault Refusal :=
  .next (match s.g.fmtAt n with
    | none => s.trapHere Code.illegalField
    | some f =>
      let qs := s.quarters p
      let nb := f.k / f.bl
      let slots := (qs.flatMap fun q => [(s.g.slotsOf a q).1, (s.g.slotsOf a q).2]).filter fun x => s.g.tobCnt ≤ x
      let scales := qs.flatMap fun q => [f.a, f.b].filterMap (scaleBad s.g.scrSize nb q)
      match slots.min?, scales.min? with
      | some x, _ => s.trapAll Code.scrBounds (BitVec.ofNat 64 x)
      | none, some x => s.trapAll Code.scrBounds (BitVec.ofNat 64 x)
      | none, none =>
        if qs.isEmpty then s.retire 8
        else
          let cols := s.mmaColumns f d a qs
          let fl := cols.foldl (fun x c => c.foldl (fun x e => x ||| e.2) x) 0
          let (t, id) := s.openOp true fun o => { o with
            writes := blockWrites d (quarterMask qs) fun j l => ((cols.getD j []).getD l (0, 0)).1
            flags := BitVec.ofNat 64 fl
            quiet := true }
          (t.opDone id).retire 8)

/-- MZERO (14 R362). -/
def execMzero (p : Pred) (d : VReg) (s : State) : Host.Outcome State Fault Refusal :=
  let qs := s.quarters p
  .next (if qs.isEmpty then s.retire 8 else s.countNow true (blockWrites d (quarterMask qs) fun _ _ => 0) 0 8)

end Sys2Proof.Machine
end

