-- ==== Sys2Proof/Machine/Slice.lean ====
section
/-! DEFINITION. Accesses performed at the serving slice of a die: at the home, or in a guest line (02 R54, R66,
R75-R79). -/

namespace Sys2Proof.Machine

/-- A byte of a guest line; one that no guest line holds reads as the home does. -/
def State.guestByte (s : State) (die a : Nat) : Byte :=
  match (s.die die).guest a with
  | some g => if g.valid.getLsbD (a % 128) then g.data.extractLsb' (8 * (a % 128)) 8 else s.readByte a
  | none => s.readByte a

/-- The tag of a granule of a guest line. -/
def State.guestTag (s : State) (die a : Nat) : Bool :=
  match (s.die die).guest a with
  | some g => if g.valid.extractLsb' (16 * (a / 16 % 8)) 16 == 0 then s.tagAt a else g.tags.getLsbD (a / 16 % 8)
  | none => s.tagAt a

/-- Whether a guest slice holds every byte of a range as valid. -/
def State.guestHas (s : State) (die a n : Nat) : Bool :=
  (List.range n).all fun i => match (s.die die).guest (a + i) with
    | some g => g.valid.getLsbD ((a + i) % 128)
    | none => false

/-- Whether an access of `n` bytes by die `die` may be performed now: at the home, no lease stands and no dirty guest line of the
die; a write waits while messages of its directory set are too old (02 R59), and a store in a guest line for a flush of the line
that is on its way. What is missing is set in motion (02 R54, R66, R75, R77). -/
def State.sliceReady (s : State) (die pa n : Nat) (guest write : Bool) : State × Bool :=
  if guest then
    if write then (s, !(linesOf pa n).any (s.flushing die) && s.versionRoom die pa)
    else if s.guestHas die pa n then (s, true) else s.recall pa n
  else
    let (t, ok) := s.homeReady die pa n
    (t, ok && (!write || mtOf (localOf pa) != some 0 || t.versionRoom (homeDie pa) pa))

/-- Bytes read at the serving slice; a guest line is filled first, and a read at another die's home leaves the die's own guest line
behind (assumption 13). -/
def State.sliceRead (s : State) (die pa n : Nat) (guest : Bool) (pol : Policy) : State × List Byte :=
  if guest then
    let t := if s.guestHas die pa n then s else (linesOf pa n).foldl (fun t l => t.guestFill die l) s
    (t.accountAt die pa n pol, (List.range n).map fun i => t.guestByte die (pa + i))
  else ((s.accountAt (homeDie pa) pa n pol).dropGuests die pa n, s.read pa n)

/-- Bytes written at the serving slice, with the acknowledgements to come; `tag` sets the tag of the granule written. -/
def State.sliceWrite (s : State) (die pa : Nat) (bs : List Byte) (tag guest : Bool) (pol : Policy) (sid : Nat)
    (own : Option (Nat × Nat × Nat)) : State × Nat :=
  if guest then
    ((s.modDie die fun d => d.guestStore pa bs (tagBit pa tag)).accountAt die pa bs.length pol).sendUpdates die pa bs
      (tagBit pa tag) sid own
  else ((s.accountAt (homeDie pa) pa bs.length pol).dropGuests die pa bs.length).homeWriteAck pa bs tag sid own

end Sys2Proof.Machine
end

