-- ==== Sys2Proof/Machine/Engines.lean ====
section
/-! DEFINITION. Engine contexts, commands at issue, and what each engine moves when its command starts (05 R129-R141;
12 R312, R317; 14 R363-R369). -/

namespace Sys2Proof.Machine

/-! ### Contexts and issue (05 R129-R133) -/

def Core.ctx (c : Core) (n : Nat) : Ctx := Store.get {} c.ctxs n
def Core.setCtx (c : Core) (n : Nat) (x : Ctx) : Core := { c with ctxs := Store.put c.ctxs n x }

/-- The commands of a context that have been issued and have not completed. -/
def Core.liveCmds (c : Core) (ctx : Nat) : Nat := (c.cmds.filter (·.ctx == ctx)).length

/-- Whether a context that a path is about to issue to is full: the issue stalls its port (05 R130). -/
def State.ctxFull (s : State) (ctx : Nat) : Bool := decide (64 ≤ (s.core s.c).liveCmds ctx)

/-- The engine context that an instruction issues to. -/
def engCtx : Instr → Option Nat
  | .l2pf _ _ c _ _ => some c.toNat
  | .bupd _ _ _ c _ _ _ => some c.toNat
  | .cpy _ _ c _ _ _ => some c.toNat
  | .cpyt _ _ _ c _ _ _ => some c.toNat
  | .stage _ _ c _ _ _ => some c.toNat
  | .drain _ _ _ _ c _ _ _ => some c.toNat
  | .dpost _ c _ _ _ => some c.toNat
  | .xsend _ c _ _ _ => some c.toNat
  | _ => none

/-- Whether a path stands before an issue to a full context, which stalls the whole port (05 R130). -/
def State.portHeld (s : State) (gid : Nat) (b : Bool) : Bool :=
  let t := { s with cur := ⟨gid, b⟩ }
  match t.nextInstr with
  | (_, .issue i _) => (engCtx i).any t.ctxFull
  | (_, .wait) => false
  | (_, .fetch _ _) => false
  | (_, .trap _) => false

/-- Whether the issuing path has an acquire that is not yet performed: an issue, being a release, comes after it (03 R97). -/
def State.acquiring (s : State) : Bool :=
  s.ops.any fun o => o.2.gid == s.cur.gid && o.2.charged s.cur.b && !o.2.parked && o.2.acq.isSome

/-- The issue of a command: a release at .die (03 R100), the next number of its context, its token marked pending. A
full context stalls, and a number of 2^62 raises ENGINE; R130 names no address for that trap, and the model's choice is
sr.faddr 0 (assumption 124). -/
def State.issueCmd (s : State) (tok : SReg) (ctx : Nat) (ins : Instr) (caps : List Cap) (args : List W64) (regs : List Lanes)
    (bytes : Nat) : State :=
  let c := s.core s.c
  let x := c.ctx ctx
  if s.ctxFull ctx || s.acquiring then s
  else if x.issue + 1 = 2 ^ 62 then s.trapAll Code.engine 0
  else
    let (t, ready) := s.releaseAt s.cur.gid s.cur.b .die false
    if !ready then t
    else
      let g := s.g
      let n := x.issue + 1
      let cmd : Cmd :=
        { ctx := ctx, n := n, gid := s.cur.gid, token := if tok = 0 then none else some tok, ins := ins, caps := caps
          args := args, regs := regs, asid := g.asid, launch := g.launch, scrBase := g.scrBase, scrSize := g.scrSize
          tobBase := g.tobBase, tobCnt := g.tobCnt, status := 0, eaddr := 0, skip := false, started := false, done := false }
      let u := t.modCore s.c fun c => { c.setCtx ctx { c.ctx ctx with issue := n } with cmds := c.cmds ++ [cmd] }
      let v := u.modG fun g => { g with
        tokens := if tok = 0 then g.tokens else g.tokens ++ [⟨s.c, ctx, n, tok⟩]
        nums := Store.put g.nums ctx n }
      (v.send (.commandStart s.c ctx n)).retire bytes

/-! ### The instructions -/

def execL2pf (op : L2Op) (tok : SReg) (ctx : BitVec 4) (a : CReg) (b : SReg) (s : State) : Host.Outcome State Fault Refusal :=
  .next (s.issueCmd tok ctx.toNat (.l2pf op tok ctx a b) [s.rc a] [s.rs b] [] 8)

def execBupd (op : Rmw) (ty : ETy) (tok : SReg) (ctx : BitVec 4) (a : CReg) (b c : SReg) (s : State) :
    Host.Outcome State Fault Refusal :=
  .next (s.voids.issueCmd tok ctx.toNat (.bupd op ty tok ctx a b c) [s.rc a] [s.rs b, s.rs c] [] 8)

def execCpy (st : Bool) (tok : SReg) (ctx : BitVec 4) (a b : CReg) (c : SReg) (s : State) : Host.Outcome State Fault Refusal :=
  .next (
    if 2 ^ 32 < (s.rs c).toNat then s.voids.trapAll Code.engine 0
    else s.voids.issueCmd tok ctx.toNat (.cpy st tok ctx a b c) [s.rc a, s.rc b] [s.rs c] [] 8)

/-- Whether an operation of the group on scratch, slots or the matrix unit has yet to complete: the port holds a command that
reads them until then (14 R364). -/
def State.localOpen (s : State) : Bool := s.ops.any fun o => o.2.gid == s.cur.gid && !o.2.parked && !o.2.reads && !o.2.stores

/-- CPYT.ld keeps a task restartable, and CPYT.st does not (16 R401). -/
def execCpyt (store st : Bool) (tok : SReg) (ctx : BitVec 4) (a b c : SReg) (s : State) : Host.Outcome State Fault Refusal :=
  .next (if store && s.localOpen then s else (if store then s.voids else s).issueCmd tok ctx.toNat (.cpyt store st tok ctx a b c) [] [s.rs a, s.rs b, s.rs c] [] 8)

def execStage (st : Bool) (tok : SReg) (ctx : BitVec 4) (a b c : SReg) (s : State) : Host.Outcome State Fault Refusal :=
  .next (s.issueCmd tok ctx.toNat (.stage st tok ctx a b c) [] [s.rs a, s.rs b, s.rs c] [] 8)

/-- DRAIN waits for earlier operations of its path that write its registers, and copies them (05 R137, 14 R367). -/
def execDrain (add i32 st : Bool) (tok : SReg) (ctx : BitVec 4) (a : VReg) (b c : SReg) (s : State) :
    Host.Outcome State Fault Refusal :=
  let busy := s.ops.any fun o => o.2.gid == s.cur.gid && o.2.charged s.cur.b &&
    o.2.pendingV.any fun r => a.toNat ≤ r && r < a.toNat + 8
  .next (
    if busy then s
    else s.voids.issueCmd tok ctx.toNat (.drain add i32 st tok ctx a b c) [] [s.rs b, s.rs c]
      ((List.range 8).map fun j => s.rv (a + BitVec.ofNat 8 j)) 8)

/-- The end of a TWAIT for path `b` of a group on a core: its acquire, the trap of 05 R146, or the next instruction. -/
def State.twaitEnd (s : State) (gid : Nat) (b : Bool) (core ctx n bytes : Nat) : State :=
  let x := (s.core core).ctx ctx
  let s := (s.acquireFor gid .die).modPath gid b fun p => { p with wait := .none }
  if x.ev ∧ x.enum ≤ n then
    s.trapOn gid b Code.engine (BitVec.ofNat 64 x.eaddr) ((s.grp gid).path b).mask
  else s.modPath gid b fun p => p.past bytes

/-- The number that TWAIT waits for (14 R368). -/
def State.twaitNum (s : State) (ctx : Nat) (f : TwForm) : Nat :=
  match f with
  | .back c =>
    let i := ((s.core s.c).ctx ctx).issue
    i - c.toNat
  | .reg a imm =>
    let v := match s.g.tokens.find? fun t => t.reg == a with
      | some t => t.n
      | none => (s.rs a).toNat % 2 ^ 62
    (v + (imm.signExtend 64).toNat) % 2 ^ 62

def execTwait (ctx : BitVec 4) (f : TwForm) (s : State) : Host.Outcome State Fault Refusal :=
  let n := s.twaitNum ctx.toNat f
  let bytes := match f with | .back _ => 8 | .reg _ _ => 16
  .next (
    if n ≤ ((s.core s.c).ctx ctx.toNat).tl then s.twaitEnd s.cur.gid s.cur.b s.c ctx.toNat n bytes
    else s.park (.twait s.c ctx.toNat n bytes))

/-- TREAD: the five words of 05 Table 5.1; .clr sets EV := 0 in the same step (14 R369). -/
def execTread (clr : Bool) (d : SReg) (ctx : BitVec 4) (s : State) : Host.Outcome State Fault Refusal :=
  let x := (s.core s.c).ctx ctx.toNat
  let ws : List Nat := [x.issue, x.tl, x.ecode % 256 + (if x.ev then 2 ^ 63 else 0), x.enum, x.eaddr % 2 ^ 57]
  let t := s.wrs (ws.zipIdx.map fun e => .s (d + BitVec.ofNat 6 e.2) (BitVec.ofNat 64 e.1))
  .next ((if clr then t.modCore s.c fun c => c.setCtx ctx.toNat { c.ctx ctx.toNat with ev := false } else t).retire 8)

/-! ### Statuses (05 Table 5.3) -/

def ESt.ok : Nat := 0
def ESt.capTag : Nat := 1
def ESt.capBounds : Nat := 2
def ESt.capPerm : Nat := 3
def ESt.scrBounds : Nat := 4
def ESt.page : Nat := 5
def ESt.pagePerm : Nat := 6
def ESt.align : Nat := 7
def ESt.ecc : Nat := 8
def ESt.badTsr : Nat := 9
def ESt.clip : Nat := 10
def ESt.badFmt : Nat := 11
def ESt.skip : Nat := 12
def ESt.abort : Nat := 13
def ESt.ord : Nat := 14

/-- The cause that a status matches. -/
def causeOf (st : Nat) : Nat :=
  match st with
  | 1 => Code.capTag
  | 2 => Code.capBounds
  | 3 => Code.capPerm
  | 4 => Code.scrBounds
  | 5 => Code.pageNotPresent
  | 6 => Code.pagePerm
  | 7 => Code.align
  | 8 => Code.ecc
  | 14 => Code.ordReserved
  | _ => Code.engine

/-- The status of a cause. -/
def statusOf (code : Nat) : Nat :=
  if code = Code.capTag then 1 else if code = Code.capBounds then 2 else if code = Code.capPerm then 3
  else if code = Code.pageNotPresent then 5 else if code = Code.pagePerm then 6 else if code = Code.ecc then 8 else 14

/-- How a command ends: its status, its address, and whether an L2PF skipped a page. -/
structure EEnd where
  st   : Nat
  addr : Nat
  skip : Bool := false
  deriving DecidableEq, Repr

/-- The lower of two failures: by status, then by address. -/
def worseEnd (x y : Option EEnd) : Option EEnd :=
  match x, y with
  | none, y => y
  | x, none => x
  | some a, some b => if b.st < a.st ∨ (b.st = a.st ∧ b.addr < a.addr) then some b else some a

/-- A capability's check over an extent, with the lowest failing address (05 R134). -/
def engCheck (c : Cap) (acc : Acc) (a n : Nat) : Option EEnd :=
  (c.check acc a n).map fun code =>
    let b := c.bounds
    ⟨statusOf code, if code = Code.capBounds ∧ b.base ≤ (a : Int) then max a b.top.toNat else a, false⟩

/-! ### An engine's view of memory (05 R134) -/

/-- A page that an engine reaches, as far as the bytes it touches. -/
structure EPage where
  va   : Nat
  n    : Nat
  t    : Trans
  deriving DecidableEq, Repr

/-- What an engine is: its die, address space, policy, the ORIG and CTX of its fault records. -/
structure Eng where
  die  : Nat
  asid : Nat
  pol  : Policy
  orig : Nat
  ctx  : Nat
  deriving DecidableEq, Repr

/-- The pages of a range. -/
def pagesOf : Nat → Nat → Nat → List (Nat × Nat)
  | 0, _, _ => []
  | fuel + 1, va, n =>
    if n = 0 then []
    else
      let k := 0x8000 - va % 0x8000
      if n ≤ k then [(va, n)] else (va, k) :: pagesOf fuel (va + k) (n - k)

def pageList (va n : Nat) : List (Nat × Nat) := pagesOf (n / 0x8000 + 2) va n

/-- A failed page of an engine: its status, its address, and its fault record for the pager's information (05 R138). An
MT 4 page leaves no record. -/
structure EFail where
  st   : Nat
  addr : Nat
  f    : Option TFault
  deriving DecidableEq, Repr

/-- The first byte of some extents, on a translated page, that lies in a granule with an uncorrectable error (01 R20). -/
def State.engEcc (s : State) (t : Trans) (va n : Nat) (parts : List (Nat × Nat)) : Option Nat :=
  (parts.filterMap fun x =>
    let lo := max va x.1
    let hi := min (va + n) (x.1 + x.2)
    if lo < hi && s.poisoned (t.pa + (lo - va)) (hi - lo) then
      ((List.range (hi - lo)).find? fun i => s.poisoned (t.pa + (lo - va) + i) 1).map (lo + ·)
    else none).min?

/-- Translates the pages of some extents, each with the range on it that holds them: those that answer, and those that fail.
A read fails at a granule in error that one of the extents touches, and an access to another package while no link stands
(06 R171). -/
def State.engXlate (s : State) (e : Eng) (acc : Acc) (parts : List (Nat × Nat)) : List (Nat × Nat) → State × List EPage × List EFail
  | [] => (s, [], [])
  | (va, n) :: r =>
    match s.translate e.die e.asid va acc with
    | (s1, .error f) =>
      let (s2, ok, bad) := State.engXlate s1 e acc parts r
      (s2, ok, ⟨statusOf f.code, va, some f⟩ :: bad)
    | (s1, .ok t) =>
      let (s2, ok, bad) := State.engXlate s1 e acc parts r
      if t.page.mt = 4 then (s2, ok, ⟨ESt.pagePerm, va, none⟩ :: bad)
      else if t.page.mt = 3 ∧ (s.linkFor e.die t.pa).isNone then (s2, ok, ⟨ESt.ecc, va, some ⟨Code.ecc, 3⟩⟩ :: bad)
      else match if acc == .load then s1.engEcc t va n parts else none with
        | some a => (s2, ok, ⟨ESt.ecc, a, some ⟨Code.ecc, 0⟩⟩ :: bad)
        | none => (s2, ⟨va, n, t⟩ :: ok, bad)

/-- The failure that a command ends with, at its lowest address. -/
def worstFail (l : List EFail) : Option EFail :=
  l.foldl (fun b f => match b with
    | none => some f
    | some x => if f.addr < x.addr then some f else b) none

/-- Writes the fault record of a failure (05 R138, 16 R395): the front end is no engine, and its accesses are loads, stores
and atomics (16 Table 16.2). -/
def State.engRecord (s : State) (e : Eng) (acc : Acc) (f : EFail) : State :=
  let code := if e.orig = 4 then accCode acc else if accWrites acc then 6 else 5
  match f.f with
  | some t => s.send (.faultRecord e.die ⟨e.asid, none, t.code, t.kind, code, e.orig, e.ctx, f.addr % 2 ^ 57⟩)
  | none => s

/-- Where a byte lies: its physical address and its page. -/
def engPa (ps : List EPage) (a : Nat) : Option (Nat × PageInfo) :=
  (ps.find? fun p => p.va ≤ a && a < p.va + p.n).map fun p => (p.t.pa + (a - p.va), p.t.page)

/-- Whether a guest slice of the engine's die serves its accesses to a page's bytes. -/
def Eng.guest (e : Eng) (pa : Nat) (page : PageInfo) : Bool := servedByGuest e.die pa page (effPolicy page e.pol)

/-- Whether an access of a die's cores to the MT 3 lines of a range is still on its way: a later access of the die follows it
(06 R170). -/
def State.remoteBusy (s : State) (die pa n : Nat) : Bool :=
  s.agenda.any fun i => match i with
    | .remoteAccess q => dieOf q.core == die && (linesOf pa n).contains (lineOf q.pa)
    | _ => false

/-- Whether every page may be accessed now; what stands in the way is set in motion. `home` is for accesses that are
performed at the home whatever the page says. -/
def State.engReady (s : State) (e : Eng) (write home : Bool) (ps : List EPage) : State × Bool :=
  ps.foldl (fun (t : State × Bool) p =>
    let (u, ok) := t.1.sliceReady e.die p.t.pa p.n (!home && e.guest p.t.pa p.t.page) write
    (u, t.2 && ok && !(p.t.page.mt == 3 && s.remoteBusy e.die p.t.pa p.n))) (s, true)

/-- Fills the guest lines that a read by an engine meets, and accounts the read at its slices. -/
def State.engFill (s : State) (e : Eng) (ps : List EPage) : State :=
  ps.foldl (fun t p => (t.sliceRead e.die p.t.pa p.n (e.guest p.t.pa p.t.page) (effPolicy p.t.page e.pol)).1) s

def State.engByte (s : State) (e : Eng) (ps : List EPage) (a : Nat) : Byte :=
  match engPa ps a with
  | some (pa, page) => if e.guest pa page then s.guestByte e.die pa else s.readByte pa
  | none => 0

/-- The tag that an engine's read finds at an aligned address. -/
def State.engTag (s : State) (e : Eng) (ps : List EPage) (a : Nat) : Bool :=
  match engPa ps a with
  | some (pa, page) => PageInfo.canTag page && (if e.guest pa page then s.guestTag e.die pa else s.tagAt pa)
  | none => false

/-- The bytes that a write leaves. -/
def State.mergeNib (s : State) (e : Eng) (ps : List EPage) (w : EWrite) : List Byte :=
  match w.nib with
  | none => w.bytes
  | some k => [BitVec.ofNat 8 (setBits (s.engByte e ps w.va).toNat k 4 (natOf w.bytes))]

/-- Performs one write, cut at pages, and adds its acknowledgements. -/
def State.engWrite (e : Eng) (ps : List EPage) (home : Bool) (sid : Nat) (t : State × Nat) (w : EWrite) : State × Nat :=
  let all := t.1.mergeNib e ps w
  (pageList w.va all.length).foldl (fun (t : State × Nat) part =>
    match engPa ps part.1 with
    | none => t
    | some (pa, page) =>
      let bs := (all.drop (part.1 - w.va)).take part.2
      let (u, k) := t.1.sliceWrite e.die pa bs (w.tag && PageInfo.canTag page) (!home && e.guest pa page) (effPolicy page e.pol) sid none
      (u, t.2 + k)) t

/-- Inserts by a key. -/
def insertKey {α : Type} (x : Nat × α) : List (Nat × α) → List (Nat × α)
  | [] => [x]
  | y :: r => if y.1 ≤ x.1 then y :: insertKey x r else x :: y :: r

/-- An order of the writes of a command, which nothing fixes (03 R100; assumption 19). -/
def freeOrder {α : Type} (n : Nat) (l : List α) : List α :=
  ((l.zipIdx.map fun e => (Config.engineKey n e.2, e.1)).foldl (fun a x => insertKey x a) []).map (·.2)

/-- The writes that a command performed before the fault that ends it: which ones nothing fixes (05 R138). -/
def freePart {α : Type} (n : Nat) (l : List α) : List α :=
  (l.zipIdx.filter fun e => Config.engineKey n e.2 % 2 == 1).map (·.1)

/-- The outcome of a start: it must wait, or there is something to move, through pages as they translate now, and then it ends
with a status. -/
structure EDone where
  st    : State
  fin   : Option EEnd
  todo  : List Move
  pages : List EPage

def EDone.wait (s : State) : EDone := ⟨s, none, [], []⟩
def EDone.fail (s : State) (x : EEnd) : EDone := ⟨s, some x, [], []⟩

/-- Reads through some extents and writes through others: waits until every page may be accessed, then moves what `f`
computes, and ends with the failure at the lowest address. With a failure, it moves those that nothing fixes. The extents
come each with the ranges of its pages. -/
def State.engMove (s : State) (e : Eng) (src srcPages dst : List (Nat × Nat)) (dacc : Acc) (sid : Nat)
    (f : State → List EPage → List EPage → List Move) : EDone :=
  let (s1, ps, bad1) := s.engXlate e .load src srcPages
  let (s2, qs, bad2) := s1.engXlate e dacc dst dst
  let (s3, ok1) := s2.engReady e false false ps
  let (s4, ok2) := s3.engReady e true (dacc == .atomic) qs
  if !(ok1 && ok2) then EDone.wait s4
  else
    let s5 := s4.engFill e ps
    let ws := f s5 ps qs
    match worstFail (bad1 ++ bad2) with
    | none => ⟨s5, some ⟨ESt.ok, 0, false⟩, ws, qs⟩
    | some x => ⟨s5.engRecord e (if bad2.contains x then dacc else .load) x, some ⟨x.st, x.addr, false⟩, freePart sid ws, qs⟩

/-! ### Transfer units (05 R148, Table 5.2) -/

/-- Whether a command's group still stands where it issued. -/
def State.cmdHome (s : State) (core : Nat) (c : Cmd) : Bool :=
  match Store.find s.groups c.gid with
  | some g => g.resident && g.core == core
  | none => false

/-- Writes a command's local bytes, and the tag of a granule; nothing is written for a group that is gone. -/
def State.cmdWrite (s : State) (core : Nat) (c : Cmd) (scr : Bool) (off : Nat) (bs : List Byte) (tag : Bool) : State :=
  if !s.cmdHome core c then s
  else if scr then
    let t := s.scrWrite c.gid off bs
    if tag then t.scrSetTag c.gid off else t
  else s.tobWrite c.gid off bs

/-- A word combined with an operand at its home (02 R71, 05 R137). -/
def State.engRmw (e : Eng) (qs : List EPage) (op : Rmw) (w va x sid : Nat) (t : State × Nat) : State × Nat :=
  let at_ (i : Nat) : Option (Nat × PageInfo) := engPa qs (va + i)
  if (List.range (w / 8)).all fun i => (at_ i).isSome then
    let old := natOf ((List.range (w / 8)).map fun i => match at_ i with | some (pa, _) => t.1.readByte pa | none => 0)
    State.engWrite e qs true sid t ⟨va, bytesOf (w / 8) (rmwNew op w old (x % 2 ^ w) false), false, none⟩
  else t

/-- A line of an L2PF takes its place in the L2 (02 R69): in the normal class, retained, or returned to the normal class. -/
def Die.prefetch (d : Die) (op : L2Op) (l : Nat) : Die × Option Nat :=
  match op with
  | .fill => d.touch l .normal none
  | .retain =>
    if d.l2ctl.getLsbD 4 then
      let held := ((d.l2In l).filter fun x => x.cls == .retained 8).length
      let (d, v) := d.touch l .normal (if 15 ≤ held then some 8 else none)
      (d.retain l 8 15, v)
    else d.touch l .normal none
  | .release => (if (d.l2.any fun x => x.pa == lineOf l && x.cls == .retained 8) then d.setClass (lineOf l) .normal else d, none)

/-- The same at the slice that serves an engine: a guest line is filled first. -/
def State.engLine (s : State) (e : Eng) (qs : List EPage) (op : L2Op) (va : Nat) : State :=
  match engPa qs va with
  | none => s
  | some (pa, page) =>
    if page.mt ≠ 0 then s
    else
      let l := lineOf pa
      let guest := e.guest pa page
      let d := if guest then e.die else homeDie pa
      let t := if guest && op != .release && !s.guestHas d l 128 then s.guestFill d l else s
      t.settleL2 d ((t.die d).prefetch op l)

/-- One move, with the acknowledgements that it adds; `c` is the command and its core. -/
def State.moveOne (e : Eng) (c : Option (Nat × Cmd)) (qs : List EPage) (sid : Nat) (t : State × Nat) : Move → State × Nat
  | .put w => State.engWrite e qs false sid t w
  | .rmw op w va x => State.engRmw e qs op w va x sid t
  | .loc scr off bs tag =>
    match c with
    | some (core, c) => (t.1.cmdWrite core c scr off bs tag, t.2)
    | none => t
  | .line op va => (t.1.engLine e qs op va, t.2)

/-- The bytes that a move transfers. -/
def Move.size : Move → Nat
  | .put w => w.bytes.length
  | .rmw _ w _ _ => w / 8
  | .loc _ _ bs _ => bs.length
  | .line _ _ => 128

/-- The extents of memory that a move touches. -/
def Move.parts : Move → List (Nat × Nat)
  | .put w => pageList w.va w.bytes.length
  | .rmw _ w va _ => pageList va (w / 8)
  | .loc _ _ _ _ => []
  | .line _ va => [(va, 1)]

def Move.acc : Move → Acc
  | .put _ => .store
  | .rmw _ _ _ _ => .atomic
  | .loc _ _ _ _ => .load
  | .line _ _ => .load

/-- The moves that fit in a number of bytes, and the rest. -/
def takeMoves : Nat → List Move → List Move × List Move
  | _, [] => ([], [])
  | room, m :: r =>
    if room < m.size then ([], m :: r)
    else
      let (a, b) := takeMoves (room - m.size) r
      (m :: a, b)

/-- The moves of the next transfer unit of 128 bytes, and the rest (05 R148). -/
def nextUnit : List Move → List Move × List Move
  | [] => ([], [])
  | m :: r =>
    let (a, b) := takeMoves (128 - m.size) r
    (m :: a, b)

/-- Does every move at once, with the acknowledgements that they add. -/
def State.moveAll (s : State) (e : Eng) (c : Option (Nat × Cmd)) (qs : List EPage) (sid : Nat) (ms : List Move) : State × Nat :=
  ms.foldl (State.moveOne e c qs sid) (s, 0)

/-! ### CPY (14 R365) -/

/-- How often the value of byte `i` of an overlapping copy passed through bytes that the command itself wrote (05 R135):
the source byte that it comes from. -/
def copySource (key : Nat → Nat) (src dst n i : Nat) : Nat :=
  if src < dst ∧ dst < src + n then i - key i % (i / (dst - src) + 1) * (dst - src)
  else if dst < src ∧ src < dst + n then i + key i % ((n - 1 - i) / (src - dst) + 1) * (src - dst)
  else i

/-- The writes of a copy: the destination cut at granules, in an order that nothing fixes. -/
def State.copyWrites (s : State) (e : Eng) (sid : Nat) (a b : Cap) (n : Nat) (ps qs : List EPage) : List Move :=
  let dst := a.cursor
  let src := b.cursor
  let from_ (i : Nat) : Nat := src + copySource (Config.engineKey sid) src dst n i
  let here (i : Nat) : Bool := (engPa ps (from_ i)).isSome && (engPa qs (dst + i)).isSome
  let cut := (List.range ((dst + n - 1) / 16 - dst / 16 + 1)).flatMap fun j =>
    let lo := max (dst / 16 * 16 + 16 * j) dst
    let hi := min (dst / 16 * 16 + 16 * j + 16) (dst + n)
    let idx := (List.range (hi - lo)).map fun i => lo - dst + i
    if idx.all here then
      let f0 := from_ (lo - dst)
      let whole := hi - lo == 16 && f0 % 16 == 0 && (idx.zipIdx.all fun x => from_ x.1 == f0 + x.2)
      [EWrite.mk lo (idx.map fun i => s.engByte e ps (from_ i)) (whole && b.lc && a.sc && s.engTag e ps f0) none]
    else (idx.filter here).map fun i => ⟨dst + i, [s.engByte e ps (from_ i)], false, none⟩
  freeOrder sid (cut.map .put)

def State.runCpy (s : State) (e : Eng) (sid : Nat) (a b : Cap) (n : Nat) : EDone :=
  if n = 0 then EDone.fail s ⟨ESt.ok, 0, false⟩
  else match worseEnd (engCheck b .load b.cursor n) (engCheck a .store a.cursor n) with
    | some x => EDone.fail s x
    | none => s.engMove e (pageList b.cursor n) (pageList b.cursor n) (pageList a.cursor n) .store sid fun t ps qs => t.copyWrites e sid a b n ps qs

/-! ### Tensor shape records (05 R139-R141) -/

/-- A valid TSR. -/
structure Tsr where
  base   : Cap
  dim    : List Nat
  stride : List Nat
  box    : List Nat
  pad    : Nat
  ef     : EF
  rank   : Nat
  clip   : Bool
  plane  : Bool
  deriving DecidableEq, Repr

/-- The number of elements of a box. -/
def boxCount (box : List Nat) : Nat := box.foldl (· * ·) 1

/-- The bytes that a box takes in local storage. -/
def boxBytes (n bits : Nat) : Nat := (n * bits + 7) / 8

/-- The decode of a record (05 R139, Table 5.4); none when it is invalid. -/
def Tsr.parse (r : Nat) (tag : Bool) : Option Tsr :=
  match efOf (bitsAt r 480 8) with
  | none => none
  | some ef =>
    let rank := bitsAt r 488 3
    let four (o w : Nat) : List Nat := (List.range 4).map fun k => bitsAt r (o + w * k) w
    let dim := four 128 32
    let stride := four 256 32
    let box := four 384 16
    let pad := bitsAt r 448 32
    let used (k : Nat) : Bool := if k < rank then dim.getD k 0 != 0 && box.getD k 0 != 0 else dim.getD k 0 == 1 && box.getD k 0 == 1
    if bitsAt r 506 6 != 0 || bitsAt r 498 6 != 0 || bitsAt r 491 5 != 0 || rank == 0 || decide (4 < rank) ||
        decide (1 < bitsAt r 496 2) || decide (1 < bitsAt r 504 2) || pad / 2 ^ efBits ef != 0 || !(List.range 4).all used ||
        decide (65536 < boxBytes (boxCount box) (efBits ef)) ||
        (ef == .flt .f4 && (stride.getD 0 0 != 1 || (stride.drop 1).any (· % 2 == 1))) then none
    else some ⟨⟨BitVec.ofNat 128 (bitsAt r 0 128), tag⟩, dim, stride, box, pad, ef, rank, r.testBit 496, r.testBit 504⟩

/-- The coordinates of the i-th element of a box, dimension 0 fastest. -/
def boxCoord (box : List Nat) (i : Nat) : List Nat :=
  let b (k : Nat) : Nat := box.getD k 1
  [i % b 0, i / b 0 % b 1, i / (b 0 * b 1) % b 2, i / (b 0 * b 1 * b 2) % b 3]

/-- The bit address of the i-th element of the box at an origin; none when it is out of range (05 R141). -/
def Tsr.elem (t : Tsr) (origin : List Nat) (i : Nat) : Option Nat :=
  let c := (boxCoord t.box i).zipWith (· + ·) origin
  if (c.zip t.dim).all fun x => x.1 < x.2 then
    some (8 * t.base.cursor + ((c.zipWith (· * ·) t.stride).foldl (· + ·) 0) * efBits t.ef)
  else none

/-- The in-range elements of a box: number, bit address. -/
def Tsr.elems (t : Tsr) (origin : List Nat) : List (Nat × Nat) :=
  (List.range (boxCount t.box)).filterMap fun i => (t.elem origin i).map fun a => (i, a)

/-- Bytes of an element in memory: at least one. -/
def Tsr.size (t : Tsr) : Nat := (efBits t.ef + 7) / 8

/-- A box with CLIP = 1 that leaves the tensor. -/
def Tsr.clips (t : Tsr) (els : List (Nat × Nat)) : Bool := t.clip && decide (els.length < boxCount t.box)

/-- The check of the base capability over the in-range elements, and CLIP, the lowest status first. -/
def Tsr.check (t : Tsr) (acc : Acc) (els : List (Nat × Nat)) : Option EEnd :=
  let cap :=
    if !t.base.tag then some ⟨ESt.capTag, t.base.cursor, false⟩
    else
      let ends := els.map fun e => (e.2 / 8, e.2 / 8 + t.size)
      match (ends.map (·.1)).min?, (ends.map (·.2)).max? with
      | some lo, some hi =>
        match engCheck t.base acc lo (hi - lo) with
        | none => none
        | some x =>
          if x.st = ESt.capBounds then
            -- the lowest byte of an element that lies outside
            let b := t.base.bounds
            let out := ends.filterMap fun e =>
              if (e.1 : Int) < b.base then some e.1 else if b.top < (e.2 : Int) ∨ 2 ^ 57 < e.2 then some (max e.1 b.top.toNat) else none
            some { x with addr := (out.min?).getD lo }
          else some x
      | _, _ => none
  match cap with
  | some x => some x
  | none => if t.clips els then some ⟨ESt.clip, 0, false⟩ else none

/-- The pages that a list of elements touches, each with the range of bytes on it. -/
def elemPages (els : List (Nat × Nat)) : List (Nat × Nat) :=
  let parts := els.flatMap fun e => pageList e.1 e.2
  let nums := parts.foldl (fun l p => insertNat l (p.1 / 0x8000)) []
  nums.map fun k =>
    let on := parts.filter fun p => p.1 / 0x8000 == k
    let lo := ((on.map (·.1)).min?).getD 0
    let hi := ((on.map fun p => p.1 + p.2).max?).getD 0
    (lo, hi - lo)

/-- The bytes of a list of elements. -/
def Tsr.extents (t : Tsr) (els : List (Nat × Nat)) : List (Nat × Nat) := els.map fun e => (e.2 / 8, t.size)

def Tsr.pages (t : Tsr) (els : List (Nat × Nat)) : List (Nat × Nat) := elemPages (t.extents els)

/-- Of elements that lie at one address, the highest-numbered alone is written (03 R93). -/
def lastElems {α : Type} (key : α → Nat) : List α → List α
  | [] => []
  | x :: r => if r.any fun y => key y == key x then lastElems key r else x :: lastElems key r

/-- An element's code as an engine reads it. -/
def State.readElem (s : State) (e : Eng) (ps : List EPage) (t : Tsr) (a : Nat) : Nat :=
  natOf ((List.range t.size).map fun i => s.engByte e ps (a / 8 + i)) / 2 ^ (a % 8) % 2 ^ efBits t.ef

/-- The write of a code at a bit address. -/
def Tsr.elemWrite (t : Tsr) (a code : Nat) : EWrite :=
  if efBits t.ef = 4 then ⟨a / 8, bytesOf 1 code, false, some (a % 8)⟩ else ⟨a / 8, bytesOf t.size code, false, none⟩

/-- A TSR of a launch's table (15 R382): the record, or the status of the failure; none when the read must wait. A record that
is late-bound takes its base from the kernel's own table now. A record that is invalid beside an untagged base ends the command
with BADTSR: R139 gives both statuses, and the model's choice is to parse first, before the base is checked (assumption 125). -/
def State.fetchTsr (s : State) (e : Eng) (launch idx : Nat) : State × Option (Except EFail Tsr) :=
  let bad : EFail := ⟨ESt.badTsr, 0, none⟩
  match Store.find s.launches launch with
  | none => (s, some (.error bad))
  | some l =>
    match l.tsrs[idx]? with
    | none => (s, some (.error bad))
    | some (r, tag, late) =>
      if late then
        let va := l.tsrt + 64 * idx
        let (s1, ps, bads) := s.engXlate e .load [(va, 16)] [(va, 16)]
        match bads with
        | f :: _ => (s1, some (.error f))
        | [] =>
          let (s2, ok) := s1.engReady e false false ps
          if !ok then (s2, none)
          else
            let s3 := s2.engFill e ps
            let g := natOf ((List.range 16).map fun i => s3.engByte e ps (va + i))
            (s3, some (match Tsr.parse (r.toNat + g) (s3.engTag e ps va) with | some t => .ok t | none => .error bad))
      else (s, some (match Tsr.parse r.toNat tag with | some t => .ok t | none => .error bad))

/-! ### Boxes between memory and local storage (14 R366) -/

/-- Whether plane layout may be used (14 R366). -/
def Tsr.planeOk (t : Tsr) : Bool :=
  [16, 32, 64].contains (t.box.getD 0 0) && t.box.drop 1 == [8, 1, 1] && efMatrix t.ef

/-- A box in local storage. -/
def Tsr.pack (t : Tsr) (codes : List Nat) : List Byte :=
  let w := efBits t.ef
  if t.plane then tilePut [] (t.box.getD 0 0) w fun e => codes[e]?
  else bytesOf (boxBytes codes.length w) ((codes.zipIdx.foldl (fun a c => a + c.1 % 2 ^ w * 2 ^ (w * c.2)) 0))

/-- The box's codes in local bytes. -/
def Tsr.unpack (t : Tsr) (bs : List Byte) (i : Nat) : Nat := bitsAt (natOf bs) (efBits t.ef * i) (efBits t.ef)

/-- The role and offset of a DEST word (07 Table 7.3), in bytes of the window or of the slots. -/
def destOff (w : Nat) : Nat := if w % 4 = 1 then w / 4 * 2048 else w / 4

/-- The memory address that each local byte of a row-layout box comes from, if one byte of memory holds all of it. -/
def Tsr.localSource (t : Tsr) (origin : List Nat) (i : Nat) : Option Nat :=
  if efBits t.ef < 8 then
    match t.elem origin (2 * i), t.elem origin (2 * i + 1) with
    | some a, some b => if 2 * i + 1 < boxCount t.box ∧ a % 8 = 0 ∧ b = a + 4 then some (a / 8) else none
    | _, _ => none
  else (t.elem origin (i / t.size)).map fun a => a / 8 + i % t.size

/-- Whether the 16 local bytes from byte `i` come from one aligned granule: its address. -/
def Tsr.granule (t : Tsr) (origin : List Nat) (i : Nat) : Option Nat :=
  match t.localSource origin i with
  | none => none
  | some a => if a % 16 = 0 ∧ (List.range 16).all fun j => t.localSource origin (i + j) == some (a + j) then some a else none

/-- The local granules of a region of `n` bytes at offset `off`: their first bytes within the region. -/
def wholeGranules (off n : Nat) : List Nat :=
  (List.range (n / 16 + 1)).filterMap fun j =>
    let i := (16 - off % 16) % 16 + 16 * j
    if i + 16 ≤ n then some i else none

/-- The elements that local byte `i` of a box holds bits of. -/
def Tsr.elemsIn (t : Tsr) (i : Nat) : List Nat :=
  if t.plane then List.range (boxCount t.box)
  else if efBits t.ef < 8 then [2 * i, 2 * i + 1].filter fun k => decide (k < boxCount t.box)
  else [i / t.size]

/-- A piece of a box on its way to local storage: its offset in the region, its bytes, and whether it is a granule that keeps
its tag. -/
structure Piece where
  off   : Nat
  bytes : List Byte
  tag   : Bool
  deriving DecidableEq, Repr

/-- Reads a box (05 R141): what goes to local storage, cut at granules, and how it ends; none when it must wait. With a fault,
pieces whose pages did not answer stay, and of the others those that nothing fixes. -/
def State.readBox (s : State) (e : Eng) (t : Tsr) (origin : List Nat) (off sid : Nat) : State × Option (List Piece × EEnd) :=
  let els := t.elems origin
  match t.check .load els with
  | some x => (s, some ([], x))
  | none =>
    let (s1, ps, bad) := s.engXlate e .load (t.extents els) (t.pages els)
    let (s2, ok) := s1.engReady e false false ps
    if !ok then (s2, none)
    else
      let s3 := s2.engFill e ps
      let bs := t.pack ((List.range (boxCount t.box)).map fun i =>
        match t.elem origin i with
        | some a => s3.readElem e ps t a
        | none => t.pad)
      let answered (k : Nat) : Bool := match t.elem origin k with
        | some a => (List.range t.size).all fun j => (engPa ps (a / 8 + j)).isSome
        | none => true
      let here (i : Nat) : Bool := (t.elemsIn i).all answered
      let tagged (i : Nat) : Bool := !t.plane && t.base.lc && match t.granule origin i with
        | some a => s3.engTag e ps a
        | none => false
      let n := bs.length
      let pieces := if n = 0 then [] else (List.range ((off + n - 1) / 16 - off / 16 + 1)).flatMap fun j =>
        let lo := max (off / 16 * 16 + 16 * j) off - off
        let hi := min (off / 16 * 16 + 16 * j + 16) (off + n) - off
        let idx := (List.range (hi - lo)).map (lo + ·)
        if idx.all here then [Piece.mk lo ((bs.drop lo).take (hi - lo)) (hi - lo == 16 && tagged lo)]
        else (idx.filter here).map fun i => ⟨i, [bs.getD i 0], false⟩
      match worstFail bad with
      | none => (s3, some (pieces, ⟨ESt.ok, 0, false⟩))
      | some x => (s3.engRecord e .load x, some (freePart sid pieces, ⟨x.st, x.addr, false⟩))

/-- The writes of a box from local bytes: granules that keep their tags whole, other elements one by one. `keep` are
the starts, within the region, of the local granules that are tagged. -/
def Tsr.boxWrites (t : Tsr) (origin : List Nat) (bs : List Byte) (keep : List Nat) : List EWrite :=
  let els := lastElems (·.2) (t.elems origin)
  let won (i : Nat) : Bool := (t.elemsIn i).all fun k => els.any (·.1 == k)
  let kept := if t.base.sc then keep.filterMap fun i =>
      if (List.range 16).all fun j => won (i + j) then (t.granule origin i).map fun a => (i, a) else none
    else []
  let inKept (i : Nat) : Bool := kept.any fun k => k.1 ≤ i && i < k.1 + 16
  (kept.map fun k => EWrite.mk k.2 ((bs.drop k.1).take 16) true none) ++
    els.flatMap fun x =>
      if efBits t.ef < 8 then (if inKept (x.1 / 2) then [] else [t.elemWrite x.2 (t.unpack bs x.1)])
      else
        let idx := (List.range t.size).map fun j => x.1 * t.size + j
        if !idx.any inKept then [⟨x.2 / 8, (bs.drop (x.1 * t.size)).take t.size, false, none⟩]
        else (idx.filter fun i => !inKept i).map fun i => ⟨x.2 / 8 + (i - x.1 * t.size), [bs.getD i 0], false, none⟩

/-- Writes a box (05 R141). -/
def State.writeBox (s : State) (e : Eng) (t : Tsr) (origin : List Nat) (bs : List Byte) (keep : List Nat) (sid : Nat) : EDone :=
  let els := t.elems origin
  match t.check .store els with
  | some x => EDone.fail s x
  | none => s.engMove e [] [] (t.pages els) .store sid fun _ _ qs =>
      freeOrder sid (((t.boxWrites origin bs keep).filter fun w => (engPa qs w.va).isSome).map .put)

/-- A coordinate word of a command (14 R366). -/
def coords (v : W64) : List Nat := (List.range 4).map fun k => bitsAt v.toNat (16 * k) 16

/-- A command's local bytes: `scr` for the window, else the TOB. Where the group has left, they are as it left them. -/
def State.cmdRead (s : State) (core : Nat) (c : Cmd) (scr : Bool) (off n : Nat) : List Byte :=
  match c.snap with
  | some im => (List.range n).map fun i => Store.get 0 (if scr then im.scr else im.tob) (off + i)
  | none =>
    let k := s.core core
    if scr then k.readLoc (localAddrs k.brr 1 c.scrBase off n) else k.readLoc (localAddrs k.brr 2 (2048 * c.tobBase) off n)

/-- Whether the granule at an offset of a command's window is tagged. -/
def State.cmdTag (s : State) (core : Nat) (c : Cmd) (off : Nat) : Bool :=
  match c.snap with
  | some im => im.tags.contains (off / 16)
  | none => match bankAddr (s.core core).brr 1 (c.scrBase + off) with
    | some x => (s.core core).ltags.contains (x / 16)
    | none => false

/-- CPYT and STAGE (14 R366). -/
def State.runBox (s : State) (e : Eng) (core sid : Nat) (c : Cmd) (store : Bool) : EDone :=
  let a := (c.args.getD 0 0).toNat
  let dest := (c.args.getD 1 0).toNat
  let bad : EEnd := ⟨ESt.badTsr, 0, false⟩
  if 65536 ≤ a ∨ 2 ^ 32 ≤ dest ∨ 2 ≤ dest % 4 then EDone.fail s bad
  else match s.fetchTsr e c.launch a with
    | (s1, none) => EDone.wait s1
    | (s1, some (.error f)) => EDone.fail (s1.engRecord e .load f) ⟨f.st, f.addr, false⟩
    | (s1, some (.ok t)) =>
      let scr := dest % 4 == 0
      let off := destOff dest
      let n := boxBytes (boxCount t.box) (efBits t.ef)
      if t.plane && (store || scr || !t.planeOk) then EDone.fail s1 bad
      else
        let origin := (coords (c.args.getD 2 0)).zipWith (· * ·) t.box
        let els := t.elems origin
        let beyond := decide ((if scr then c.scrSize else 2048 * c.tobCnt) < off + n)
        -- the lowest status goes first
        match worseEnd (t.check (if store then .store else .load) els) (if beyond then some ⟨ESt.scrBounds, 0, false⟩ else none) with
        | some x => EDone.fail s1 x
        | none =>
          if store then
            let keep := if scr then (wholeGranules off n).filter fun i => s1.cmdTag core c (off + i) else []
            s1.writeBox e t origin (s1.cmdRead core c scr off n) keep sid
          else match s1.readBox e t origin off sid with
            | (s2, none) => EDone.wait s2
            | (s2, some (ps, fin)) => ⟨s2, some fin, ps.map fun p => .loc scr (off + p.off) p.bytes p.tag, []⟩

/-! ### DRAIN (05 R137, 14 R367) -/

/-- An accumulator element in the TSR's format (RNE, no flag). -/
def drainCode (i32 : Bool) (f : EF) (x : Nat) : Nat :=
  match f, i32 with
  | .flt f, false => (cvt f .rne false (decodeBase fp32 x)).1
  | .flt f, true => (cvt f .rne false (intVal (intOf true 32 x))).1
  | .int sg w, false => (toInt w sg .rne (decodeBase fp32 x)).1
  | .int sg w, true => codeOfInt w (clampInt sg w (intOf true 32 x))

/-- The elements of the drained quarters: bit address, accumulator element. -/
def drainElems (t : Tsr) (qm : Nat) (c : List Nat) (regs : List Lanes) : List (List (Nat × Nat)) × List (Nat × Nat × Nat) :=
  let qs := (List.range 4).filter qm.testBit
  let plans := qs.map fun q =>
    (q, t.elems [8 * c.getD 0 0, 8 * (c.getD 1 0 + q), c.getD 2 0, c.getD 3 0])
  (plans.map (·.2), plans.flatMap fun p => p.2.map fun x => (x.1, x.2, ((regs.getD (x.1 % 8) []).getD (8 * p.1 + x.1 / 8) 0).toNat))

def State.runDrain (s : State) (e : Eng) (sid : Nat) (c : Cmd) (add i32 : Bool) : EDone :=
  let b := (c.args.getD 0 0).toNat
  let bad : EEnd := ⟨ESt.badTsr, 0, false⟩
  if 2 ^ 20 ≤ b then EDone.fail s bad
  else match s.fetchTsr e c.launch (b % 65536) with
    | (s1, none) => EDone.wait s1
    | (s1, some (.error f)) => EDone.fail (s1.engRecord e .load f) ⟨f.st, f.addr, false⟩
    | (s1, some (.ok t)) =>
      if t.rank < 2 || t.box != [8, 8, 1, 1] || t.plane then EDone.fail s1 bad
      else if add && t.ef != (if i32 then .int true 32 else .flt fp32) then EDone.fail s1 ⟨ESt.badFmt, 0, false⟩
      else
        let (plans, els) := drainElems t (b / 65536) (coords (c.args.getD 1 0)) c.regs
        let flat := els.map fun x => (x.1, x.2.1)
        let clip := plans.any fun p => t.clips p
        let acc : Acc := if add then .atomic else .store
        match worseEnd (({ t with clip := false }).check acc flat) (if clip then some ⟨ESt.clip, 0, false⟩ else none) with
        | some x => EDone.fail s1 x
        | none =>
          let els := lastElems (·.2.1) els
          if add then s1.engMove e [] [] (t.pages flat) .atomic sid fun _ _ _ =>
            freeOrder sid (els.map fun x => .rmw (if i32 then .add else .fadd) 32 (x.2.1 / 8) x.2.2)
          else s1.engMove e [] [] (t.pages flat) .store sid fun _ _ qs =>
            freeOrder sid ((els.filter fun x => (engPa qs (x.2.1 / 8)).isSome).map fun x => .put (t.elemWrite x.2.1 (drainCode i32 t.ef x.2.2)))

/-! ### BUPD (12 R317) -/

/-- The kind of memory of the page that holds an address, whatever it permits. -/
def State.leafMt (s : State) (die asid va : Nat) : Option Nat :=
  match s.leafFor die asid va with
  | (_, .ok (_, _, n)) => some (Pte.ofNat n).mt
  | (_, .error _) => none

/-- A range on anything but MT 1 pages, even pages that refuse the access, ends with PAGE_PERM and nothing written; a page
that is not there may be any. -/
def State.runBupd (s : State) (e : Eng) (sid : Nat) (c : Cmd) (op : Rmw) (w : Nat) : EDone :=
  let cap := c.caps.getD 0 Cap.null
  let n := (c.args.getD 0 0).toNat
  let a := cap.cursor
  if n = 0 then EDone.fail s ⟨ESt.ok, 0, false⟩
  else match engCheck cap .atomic a n with
    | some x => EDone.fail s x
    | none =>
      let d := s.engMove e [] [] (pageList a n) .atomic sid fun _ _ _ =>
        (List.range (n / (w / 8))).map fun i => .rmw op w (a + i * (w / 8)) (c.args.getD 1 0).toNat
      let other := (pageList a n).find? fun p => match s.leafMt e.die e.asid p.1 with | some mt => mt != 1 | none => false
      let al : Option EEnd := if a % (w / 8) ≠ 0 ∨ n % (w / 8) ≠ 0 then some ⟨ESt.align, a, false⟩ else none
      match d.fin, worseEnd (other.map fun p => ⟨ESt.pagePerm, p.1, false⟩) al with
      | none, _ => d
      | some _, none => d
      -- the lowest status goes first, and nothing is written
      | some f, some x => if f.st ≠ ESt.ok ∧ f.st < x.st then { d with todo := [] } else EDone.fail s x

/-! ### L2PF (02 R69, 12 R312) -/

/-- A page that is not present, malformed entries among them, is skipped: R138 says a missing page, R312 not present and ZP,
and the model's choice is every page with the status PAGE (assumption 126). Any other failure ends the command. -/
def State.runL2pf (s : State) (e : Eng) (c : Cmd) (op : L2Op) : EDone :=
  let cap := c.caps.getD 0 Cap.null
  let n := (c.args.getD 0 0).toNat
  if n = 0 then EDone.fail s ⟨ESt.ok, 0, false⟩
  else match engCheck cap .load cap.cursor n with
    | some x => EDone.fail s x
    | none =>
      let (s1, ps, fails) := s.engXlate e .load [] (pageList cap.cursor n)
      let skip := fails.any (·.st == ESt.page)
      let (s2, ok) := s1.engReady e false false ps
      let lines := ps.flatMap fun p => (linesOf p.va p.n).map fun l => Move.line op (max l p.va)
      if !ok then EDone.wait s2
      else match worstFail (fails.filter fun f => f.st != ESt.page) with
        | none => ⟨s2, some ⟨ESt.ok, 0, skip⟩, lines, ps⟩
        | some x => ⟨s2.engRecord e .load x, some ⟨x.st, x.addr, skip⟩, lines, ps⟩

end Sys2Proof.Machine
end

