-- ==== Sys2Proof/Machine/ExchangeInstr.lean ====
section
/-! DEFINITION. The exchange: descriptors, the endpoint's side of a round, and DPOST, XSEND, XWAIT, XSTAT (06 R149-R165,
14 R370-R373). -/

namespace Sys2Proof.Machine

/-! ### Identifiers and contexts (06 R149, 01 R41) -/

/-- The identifier of a die of this package. -/
def State.xself (s : State) (die : Nat) : Nat := die * 4096 + s.pkg

/-- The die that an identifier names within its package. -/
def xdie (id : Nat) : Nat := id / 4096 % 8

def Die.xctx (d : Die) (xid : W64) : Option XCtx := d.xctxs.find? (·.xid == xid)

def State.xctx (s : State) (die : Nat) (xid : W64) : Option XCtx := (s.die die).xctx xid

/-- Replaces a bound context. -/
def State.setX (s : State) (die : Nat) (x : XCtx) : State :=
  s.modDie die fun d => { d with xctxs := d.xctxs.map fun y => if y.xid = x.xid then x else y }

/-- Binds a context to a group, if it is bound already or one is free. -/
def State.bindX (s : State) (die : Nat) (xid : W64) : State × Bool :=
  if ((s.die die).xctx xid).isSome then (s, true)
  else if (s.die die).xctxs.length < 8 then
    (s.modDie die fun d => { d with xctxs := d.xctxs ++ [{ xid := xid, endpoint := false }] }, true)
  else (s, false)

/-- Unbinds a context that serves no role any more: neither an endpoint's nor that of a round that is not over. -/
def State.freeX (s : State) (die : Nat) (xid : W64) : State :=
  s.modDie die fun d =>
    if d.xarbs.any fun r => r.xid == xid && r.gone.isNone then d else { d with xctxs := d.xctxs.filter fun x => !(x.xid == xid && !x.endpoint) }

/-- A posted round that has not ended at the endpoint. -/
def XCtx.isOpen (x : XCtx) : Bool := x.endpoint && x.active && !x.ended

/-! ### Descriptors (06 R150, Table 6.1) -/

/-- An identifier of a die of some package: H and the reserved bits are 0 (01 R41). -/
def idOk (x : Nat) : Bool := decide (x < 32768) && x / 512 % 8 == 0

/-- The fields of a descriptor, and whether it is valid. -/
def parseXDesc (v : Nat) : XDesc × Bool :=
  let n := bitsAt v 0 16
  let eps := (List.range 1024).map fun i => bitsAt v (512 + 16 * i) 16
  let f : XDesc :=
    { n := n, cs := bitsAt v 16 16, segc := bitsAt v 32 8, carry := v.testBit 40, arb := bitsAt v 48 16, stby := bitsAt v 64 16
      xid := BitVec.ofNat 64 (bitsAt v 192 64), postt := bitsAt v 128 32, ringt := bitsAt v 96 32, eps := eps.take n }
  (f, bitsAt v 41 7 == 0 && bitsAt v 80 16 == 0 && bitsAt v 160 32 == 0 && bitsAt v 256 256 == 0 &&
    v / 2 ^ 16896 == 0 && decide (2 ≤ n) && decide (n ≤ 1024) && decide (4 ≤ f.cs) && decide (f.cs ≤ 256) &&
    decide (f.segc ≤ 2) && f.arb != f.stby && decide f.eps.Nodup && (eps.drop n).all (· == 0) && f.xid != 0 &&
    decide (1000 ≤ f.ringt) && f.eps.all idOk && idOk f.arb && idOk f.stby)

/-- The segment size. -/
def segSize (f : XDesc) : Nat := 4096 * 2 ^ f.segc

/-! ### Ends of commands and of rounds -/

/-- A command of the exchange engine ends with a status. -/
def State.finishCmd (s : State) (core ctx n : Nat) (x : EEnd) : State :=
  (s.modCore core fun c => { c with cmds := c.cmds.map fun k =>
    if k.ctx = ctx ∧ k.n = n then { k with status := x.st, eaddr := x.addr, skip := x.skip, started := true } else k }).send
    (.commandComplete core ctx n)

def State.finishSome (s : State) (k : Option (Nat × Nat × Nat)) (st : Nat) : State :=
  match k with
  | some (core, ctx, n) => s.finishCmd core ctx n ⟨st, 0, false⟩
  | none => s

/-- XWAIT.unbind frees the context, unless the die is still an arbiter or standby of the group. -/
def State.unbindX (s : State) (die : Nat) (xid : W64) : State :=
  (s.setX die { xid := xid, endpoint := false }).freeX die xid

/-- The status word of Table 6.3. -/
def XCtx.status (x : XCtx) : Nat :=
  let b (c : Bool) (k : Nat) : Nat := if c then 2 ^ k else 0
  x.round % 2 ^ 32 * 2 ^ 32 + (x.abort.getD 0) * 2 ^ 8 + b x.abort.isSome 6 + b x.failover 5 + b x.flovf 4 + b x.partSt 3 +
    b x.short 2 + b (x.left.any (0 < ·)) 1 + b x.ended 0

/-- The paths of a die that wait for a group's round, with the register of each and whether it unbinds (06 R160). -/
def State.xwaiters (s : State) (die : Nat) (xid : W64) : List (Nat × Bool × SReg × Bool) :=
  let one (gid : Nat) (b : Bool) (g : Group) : List (Nat × Bool × SReg × Bool) :=
    match (g.path b).wait with
    | .exchange y d u => if (g.path b).live && y == xid && dieOf g.core == die then [(gid, b, d, u)] else []
    | _ => []
  s.groups.flatMap fun e => one e.1 false e.2 ++ one e.1 true e.2

/-- The end of an XWAIT: its acquire, its status word, the next instruction. A saved group, whose registers in the save area
take the word, is readied (06 R160, 14 R373, 16 R400). -/
def State.xwaitEnd (s : State) (gid : Nat) (b : Bool) (d : SReg) (v : Nat) : State :=
  ((s.acquireFor gid .dom).modGrp gid fun g =>
    let h := g.apply (g.path b).pc (.s d (BitVec.ofNat 64 v))
    h.setPath b { (h.path b).past 8 with wait := .none }).readySaved gid

/-- The round ends at the endpoint: `reason` for ABORT. Its XSEND completes, and its DPOST too when the partition is reset;
every XWAIT on the group ends with it (06 R160, R162, R168). -/
def State.xEndRound (s : State) (die : Nat) (x : XCtx) (reason : Option Nat) : State :=
  let reset := reason == some 5
  let y : XCtx := { x with
    ended := true, abort := reason, xsend := none
    left := if reason.isSome then [] else x.left }
  let s := (s.setX die y).finishSome x.xsend (if reset then ESt.abort else ESt.ok)
  let mine (p : XPost) : Bool := reset && p.xid == x.xid
  let posts := (s.die die).xposts.filter mine
  let s := posts.foldl (fun t p => t.finishSome (some p.cmd) ESt.abort)
    (if posts.isEmpty then s else s.modDie die fun d => { d with xposts := d.xposts.filter fun p => !mine p })
  let ws := s.xwaiters die x.xid
  let s := ws.foldl (fun t w => t.xwaitEnd w.1 w.2.1 w.2.2.1 y.status) s
  if ws.any (·.2.2.2) then s.unbindX die x.xid else s

/-- An endpoint whose round ends early tells the arbiter, or the standby that has taken its place (06 R153, R166). -/
def State.xEarly (s : State) (die : Nat) (x : XCtx) (arb : Option Nat) (reason : Nat) : State :=
  let t := s.xEndRound die x (some reason)
  match arb with
  | some a => t.send (.xabort a (s.xself die) x.xid x.round reason true)
  | none => t

/-! ### Reads of the exchange engine -/

/-- Bytes that an engine reads: none when it must wait. -/
def State.engRead (s : State) (e : Eng) (parts : List (Nat × Nat)) : State × Option (Except EFail (List Byte)) :=
  let (s1, ps, bad) := s.engXlate e .load parts (parts.flatMap fun p => pageList p.1 p.2)
  match worstFail bad with
  | some f => (s1.engRecord e .load f, some (.error f))
  | none =>
    let (s2, ok) := s1.engReady e false false ps
    if !ok then (s2, none)
    else
      let s3 := s2.engFill e ps
      (s3, some (.ok (parts.flatMap fun p => (List.range p.2).map fun i => s3.engByte e ps (p.1 + i))))

/-- The exchange engine of a die, for segments of an address space. -/
def xeng (die asid : Nat) : Eng := ⟨die, asid, .ca, 3, 0⟩

/-! ### The sender (06 R159, R160, R162-R164) -/

def nth (l : List Nat) (i : Nat) : Nat := l.getD i 0

/-- Bytes of the pair's stream: the carried leftover and the block; none of a failed XSEND (14 R371). -/
def XCtx.stream (x : XCtx) (d : Nat) : Nat :=
  match x.acts with
  | some [] => 0
  | some a => nth x.carry d + nth a d
  | none => 0

/-- Where `n` bytes at offset `o` of the pair's stream lie: in the round before's send area, and in this one's. -/
def XCtx.pieces (x : XCtx) (d o n : Nat) : List (Nat × Nat) × List (Nat × Nat) :=
  let c := nth x.carry d
  let k := min n (c - o)
  let a := x.acts.getD []
  let block := x.sendCap.cursor + (a.take d).foldl (· + ·) 0
  (if k = 0 then [] else [(x.carryCap.cursor + nth x.carryAt d + o, k)], if n - k = 0 then [] else [(block + (o + k - c), n - k)])

/-- Reads bytes of the pair's stream, each part in the address space of its XSEND (06 R160, R162). -/
def State.xStream (s : State) (die : Nat) (x : XCtx) (d o n : Nat) : State × Option (Except EFail (List Byte)) :=
  let (old, new) := x.pieces d o n
  match s.engRead (xeng die x.carryAsid) old with
  | (t, some (.ok as)) =>
    match t.engRead (xeng die x.sendAsid) new with
    | (u, some (.ok bs)) => (u, some (.ok (as ++ bs)))
    | r => r
  | r => r

/-- Logs a refused or unread segment (06 R164, Table 6.4). -/
def XCtx.logFault (x : XCtx) (f : XFault) : XCtx :=
  if x.faults.length < 64 then { x with faults := x.faults ++ [f], partSt := true } else { x with flovf := true, partSt := true }

/-- Sends the segments of a send slot, up to `avail` bytes of the grant; true when a read must wait. -/
def State.xSegments (die : Nat) (f : XDesc) (g : XGrant) (avail : Nat) :
    Nat → State → XCtx → XSlot → State × XCtx × XSlot × Bool
  | 0, s, x, k => (s, x, k, false)
  | fuel + 1, s, x, k =>
    if avail ≤ k.next then (s, x, k, false)
    else
      let n := min (segSize f) (avail - k.next)
      let dst := nth f.eps g.dst
      let me := s.xself die
      match s.xStream die x g.dst (g.poff + k.next) n with
      | (t, none) => (t, x, k, true)
      | (t, some (.error e)) =>
        let x := x.logFault ⟨n, g.poff + k.next, g.roff + k.next, e.st, true, g.dst⟩
        State.xSegments die f g avail fuel (t.send (.skipseg ⟨dst, me⟩ x.xid x.round g k.next n)) x
          { k with next := k.next + n, wait := k.wait + 1 }
      | (t, some (.ok bs)) =>
        let x := { x with sent := Store.put x.sent g.dst (Store.get 0 x.sent g.dst + n) }
        State.xSegments die f g avail fuel (t.send (.seg ⟨dst, me⟩ x.xid x.round g k.next bs)) x
          { k with next := k.next + n, wait := k.wait + 1 }

/-- The send slot of change `j`, if the endpoint has one. -/
def XCtx.sendGrant (x : XCtx) (j : Nat) : Option XGrant := x.grants.find? fun g => g.change == j && g.src == x.self

/-- The receive grant of change `j`. -/
def XCtx.recvGrant (x : XCtx) (j : Nat) : Option XGrant := x.grants.find? fun g => g.change == j && g.dst == x.self

/-- Runs the send slot: true when a read must wait. A stream that is exhausted ends it with SHORT (06 R163). -/
def State.xSendSlot (s : State) (die : Nat) (f : XDesc) (x : XCtx) (g : XGrant) : State × XCtx × Bool :=
  let k : XSlot := match x.send with
    | some k => if k.g = g then k else ⟨g, 0, 0, 0, false⟩
    | none => ⟨g, 0, 0, 0, false⟩
  if k.ended then (s, x, false)
  else
    let avail := min g.bytes (x.stream g.dst - g.poff)
    let (t, y, k, blocked) := s.xSegments die f g avail (g.bytes / 4096 + 1) x k
    if blocked then (t, { y with send := some k }, true)
    else if avail < g.bytes then
      (t.send (.short ⟨nth f.eps g.dst, s.xself die⟩ x.xid x.round g), { y with send := some { k with ended := true }, short := true }, false)
    else (t, { y with send := some { k with ended := k.wait == 0 } }, false)

/-- Whether the endpoint's slots of change `j` have ended (06 R159). -/
def XCtx.slotsEnded (x : XCtx) (j : Nat) : Bool :=
  (match x.sendGrant j with
    | none => true
    | some g => match x.send with | some k => k.g == g && k.ended | none => false) &&
  (match x.recvGrant j with
    | none => true
    | some g => match x.recvSlot with | some k => k.g == g && k.ended | none => false)

/-- What an endpoint does when anything of its round has changed: it runs its send slot, completes its change, and
answers LASTQ once its current slots have ended (06 R159, R166). -/
def State.xStep (s : State) (die : Nat) (xid : W64) : State :=
  match s.xctx die xid with
  | none => s
  | some x =>
    match x.isOpen, x.desc with
    | true, some f =>
      let me := s.xself die
      let (s, x) :=
        match x.rung with
        | none => (s, x)
        | some j =>
          match x.sendGrant j with
          | some g =>
            if x.acts.isNone then (s, x)
            else
              let (t, y, blocked) := s.xSendSlot die f x g
              -- a read that waits is taken up again
              (if blocked then t.send (.ring ⟨me, me⟩ xid x.round j false x.stbyOnly) else t, y)
          | none => (s, x)
      let (s, x) :=
        match x.rung with
        | none => (s, x)
        | some j =>
          if (match x.last with | some l => l < j | none => true) && x.slotsEnded j then
            (s.send (.chdone (if x.stbyOnly then f.stby else f.arb) me xid x.round j),
              { x with last := some j, grants := x.grants.filter fun g => j < g.change })
          else (s, x)
      let idle := (match x.rung, x.last with
          | none, _ => true
          | some j, some l => decide (j ≤ l)
          | some _, none => false) &&
        (match x.recvSlot with | some k => k.ended | none => true)
      if x.lastq && !x.stbyOnly && idle then
        (s.setX die { x with stbyOnly := true }).send (.lasta f.stby me xid x.round x.last)
      else s.setX die x
    | _, _ => s

/-! ### DPOST (06 R152, R153; 14 R370) -/

/-- The record of a group's access that no link can carry (06 R171, 16 Table 16.2). -/
def State.linkRecord (s : State) (c : Cur) (va acc : Nat) : State :=
  let g := s.grp c.gid
  s.send (.faultRecord (dieOf g.core) ⟨g.asid, some (g.waiter c.b), Code.ecc, 3, acc, 0, 0, va % 2 ^ 57⟩)

/-- The descriptor's XID, read by the issuing path as a load by the group: its faults and stalls, then what follows. -/
def State.readXid (s : State) (a : CReg) (act : State → W64 → State) : State :=
  let c := s.rc a
  let m : MemOp :=
    { cap := c, acc := .load, align := false, extra := none, target := .any, lanes := [⟨0, c.cursor + 24, 8, .load⟩]
      mask := s.act, once := true, cp := .ca, ord := .plain, sc := .grp, fin := .none }
  let k := m.check s
  match worstOf k.failed with
  | some f => k.st.failPlain m f m.mask
  | none =>
    let rs := m.reqs k.st.c k.st.g.asid [] [] k.passed
    if rs.any fun r => r.page.mt == 3 && (k.st.linkFor (dieOf k.st.c) r.pa).isNone then
      (k.st.linkRecord k.st.cur (c.cursor + 24) 0).failPlain m ⟨0, Code.ecc, 3, c.cursor + 24⟩ m.mask
    else if k.st.orderStall rs || rs.any k.st.remoteQueued then k.st
    else
      let die := dieOf k.st.c
      let guest (r : Req) : Bool := servedByGuest die r.pa r.page r.page.pol
      let (t, ok) := rs.foldl (fun (t : State × Bool) r =>
        let (u, b) := t.1.sliceReady die r.pa r.len (guest r) false
        (u, t.2 && b)) (k.st, true)
      if !ok then t
      else
        let (u, bs) := rs.foldl (fun (t : State × List Byte) r =>
          let (u, b) := (t.1.observe t.1.cur.gid r.core r.pa r.len false).sliceRead die r.pa r.len (guest r) r.page.pol
          (u, t.2 ++ b)) (t, [])
        act u (BitVec.ofNat 64 (natOf bs))

/-- What a new round starts from: the context's number, role, and the leftovers of the round before (06 R152, R162). -/
def XCtx.newRound (x : XCtx) (asid : Nat) (recv : Cap) : XCtx :=
  let a := x.acts.getD []
  { xid := x.xid, endpoint := true, round := (x.round + 1) % 2 ^ 32, active := true, asid := asid, recv := recv
    carry := x.left
    carryAt := (List.range x.left.length).map fun d => (a.take (d + 1)).foldl (· + ·) 0 - nth x.left d
    carryCap := x.sendCap
    carryAsid := x.sendAsid }

/-- Issues a command with a release at .dom (03 R101); `f` follows when it has been numbered. -/
def State.issueX (s : State) (tok : SReg) (ctx : Nat) (ins : Instr) (caps : List Cap)
    (f : State → Nat × Nat × Nat → State) : State :=
  let core := s.c
  if s.ctxFull ctx || s.acquiring then s
  else
    let (t, ready) := s.releaseAt s.cur.gid s.cur.b .dom false
    if !ready then t
    else
      let u := t.issueCmd tok ctx ins caps [] [] 8
      let n := ((u.core core).ctx ctx).issue
      if n = ((t.core core).ctx ctx).issue then u else f u (core, ctx, n)

/-- The round of a DPOST that has been numbered: the context's new round, and the command that posts it. -/
def State.postX (s : State) (die : Nat) (x : XCtx) (asid : Nat) (recv : Cap) (k : Nat × Nat × Nat) : State :=
  let y := x.newRound asid recv
  (s.setX die y).modDie die fun d => { d with xposts := d.xposts ++ [{ xid := y.xid, round := y.round, cmd := k, asid := asid, carry := y.carry }] }

def execDpost (tok : SReg) (ctx : BitVec 4) (a b c : CReg) (s : State) : Host.Outcome State Fault Refusal :=
  .next (s.voids.readXid a fun t xid =>
    let die := dieOf t.c
    let faddr := BitVec.ofNat 64 (t.rc a).cursor
    match t.xctx die xid with
    | some x =>
      if x.isOpen then t.trapAll Code.engine faddr
      else t.issueX tok ctx.toNat (.dpost tok ctx a b c) [t.rc a, t.rc b, t.rc c] fun u k =>
        u.postX die x t.g.asid (t.rc c) k
    | none =>
      if 8 ≤ (t.die die).xctxs.length then t.trapAll Code.engine faddr
      else t.issueX tok ctx.toNat (.dpost tok ctx a b c) [t.rc a, t.rc b, t.rc c] fun u k =>
        (u.bindX die xid).1.postX die { xid := xid, endpoint := true } t.g.asid (t.rc c) k)

/-- The context of a round that a DPOST posts, while that round is open. -/
def State.postCtx (s : State) (die : Nat) (p : XPost) : Option XCtx :=
  (s.xctx die p.xid).filter fun x => x.isOpen && x.round == p.round

/-- DPOST posts nothing: it ends with a status, and its round with ABORT. -/
def State.dpostFail (s : State) (die : Nat) (p : XPost) (e : EEnd) (arb : Option Nat) (reason : Nat) : State :=
  let t := (s.modDie die fun d => { d with xposts := d.xposts.filter (· != p) }).finishCmd p.cmd.1 p.cmd.2.1 p.cmd.2.2 e
  match t.postCtx die p with
  | some x => t.xEarly die x arb reason
  | none => t

/-- The start of a DPOST command: none when it must wait. A descriptor that cannot be read names no arbiter to this die: R153
asks for an XABORT, and the model's choice is that none goes out (assumption 128). A misaligned table ends it with ALIGN unless
a failure of a lower status stands beside (assumption 52). -/
def State.startDpost (s : State) (die : Nat) (p : XPost) (a b : Cap) : State × Bool :=
  let e : Eng := ⟨die, p.asid, .ca, 1, p.cmd.2.1⟩
  match engCheck a .load a.cursor 4096 with
  | some y => (s.dpostFail die p y none 2, true)
  | none =>
    match s.engRead e [(a.cursor, 4096)] with
    | (s1, none) => (s1, false)
    | (s1, some (.error f)) => (s1.dpostFail die p ⟨f.st, f.addr, false⟩ none 2, true)
    | (s1, some (.ok bs)) =>
      let (f, good) := parseXDesc (natOf bs)
      match if good then f.eps.findIdx? (· == s.xself die) else none with
      | none => (s1.dpostFail die p ⟨ESt.ok, 0, false⟩ (some f.arb) 1, true)
      | some i =>
        let al : Option EEnd := if b.cursor % 4 = 0 then none else some ⟨ESt.align, b.cursor, false⟩
        let fail (t : State) (y : Option EEnd) : State × Bool :=
          (t.dpostFail die p ((worseEnd y al).getD ⟨ESt.ok, 0, false⟩) (some f.arb) 2, true)
        match engCheck b .load b.cursor (4 * f.n) with
        | some y => fail s1 (some y)
        | none =>
          match s1.engRead e [(b.cursor, 4 * f.n)] with
          | (s2, none) => (s2, false)
          | (s2, some (.error y)) => fail s2 (some ⟨y.st, y.addr, false⟩)
          | (s2, some (.ok tab)) =>
            let row := (List.range f.n).map fun d => natOf ((tab.drop (4 * d)).take 4)
            if al.isSome then fail s2 none
            else if nth row i ≠ 0 then (s2.dpostFail die p ⟨ESt.ok, 0, false⟩ (some f.arb) 1, true)
            else
              let carry := if f.carry then p.carry else []
              let row := row.zipIdx.map fun r => r.1 + nth carry r.2
              let t := s2.modDie die fun d => { d with xposts := d.xposts.map fun q => if q = p then { p with dacks := [f.arb, f.stby] } else q }
              let t := match t.postCtx die p with
                | some x => t.setX die { x with self := i, desc := some f, row := row, carry := carry }
                | none => t
              (t.sendAll [.demand f.arb (s.xself die) p.round row f, .demand f.stby (s.xself die) p.round row f], true)

/-! ### XSEND (06 R160, 14 R371) -/

def execXsend (tok : SReg) (ctx : BitVec 4) (a b c : CReg) (s : State) : Host.Outcome State Fault Refusal :=
  .next (s.voids.readXid a fun t xid =>
    let die := dieOf t.c
    match t.xctx die xid with
    | some x =>
      if !x.isOpen || x.xsend.isSome || x.acts.isSome then t.trapAll Code.engine (BitVec.ofNat 64 (t.rc a).cursor)
      else t.issueX tok ctx.toNat (.xsend tok ctx a b c) [t.rc a, t.rc b, t.rc c] fun u k =>
        u.setX die { x with xsend := some k }
    | none => t.trapAll Code.engine (BitVec.ofNat 64 (t.rc a).cursor))

/-- A failed check of XSEND: the command ends, and every grant of the round is answered by SHORT. -/
def State.xsendFail (s : State) (die : Nat) (x : XCtx) (k : Nat × Nat × Nat) (e : EEnd) : State :=
  ((s.finishCmd k.1 k.2.1 k.2.2 e).setX die { x with xsend := none, acts := some [] }).xStep die x.xid

/-- The start of an XSEND command: none when it must wait. -/
def State.startXsend (s : State) (die : Nat) (x : XCtx) (k : Nat × Nat × Nat) (asid : Nat) (b c : Cap) : State × Bool :=
  match x.desc with
  | none => (s, false)
  | some f =>
    match engCheck c .load c.cursor (4 * f.n) with
    | some y => (s.xsendFail die x k y, true)
    | none =>
      match s.engRead ⟨die, asid, .ca, 1, k.2.1⟩ [(c.cursor, 4 * f.n)] with
      | (s1, none) => (s1, false)
      | (s1, some (.error y)) => (s1.xsendFail die x k ⟨y.st, y.addr, false⟩, true)
      | (s1, some (.ok tab)) =>
        let acts := (List.range f.n).map fun d => natOf ((tab.drop (4 * d)).take 4)
        let total := acts.foldl (· + ·) 0
        match if total = 0 then none else engCheck b .load b.cursor total with
        | some y => (s1.xsendFail die x k y, true)
        | none =>
          let left := (List.range f.n).map fun d => nth x.carry d + nth acts d - nth x.row d
          ((s1.setX die { x with acts := some acts, sendCap := b, sendAsid := asid, left := left }).xStep die x.xid, true)

/-! ### XWAIT and XSTAT (06 R160, R165; 14 R372, R373) -/

def execXwait (unbind : Bool) (d : SReg) (a : CReg) (s : State) : Host.Outcome State Fault Refusal :=
  .next (s.readXid a fun t xid =>
    let die := dieOf t.c
    match t.xctx die xid with
    | none => (t.ws d 0).retire 8
    | some x =>
      if !x.endpoint || !x.active then (t.ws d 0).retire 8
      else if !x.ended then t.park (.exchange xid d unbind)
      else
        let u := ((t.acquireFor t.cur.gid .dom).ws d (BitVec.ofNat 64 x.status)).retire 8
        if unbind then u.unbindX die xid else u)

/-- A fault-list entry (Table 6.4). -/
def XFault.word (f : XFault) : Nat :=
  f.len % 2 ^ 32 * 2 ^ 96 + f.poff % 2 ^ 32 * 2 ^ 64 + f.roff % 2 ^ 32 * 2 ^ 32 + f.ecode % 256 * 2 ^ 24 +
    (if f.side then 2 ^ 15 else 0) + f.dest % 1024

/-- An item of the record of the latest round (06 R165). -/
def XCtx.item (x : XCtx) (i : Nat) : Nat :=
  if !x.endpoint || !x.active then 0
  else if i = 0 then x.status + x.faults.length * 2 ^ 64
  else if i ≤ 64 then match x.faults[i - 1]? with | some f => f.word | none => 0
  else
    let d := i - 65
    match x.desc with
    | some f =>
      if d < f.n then
        Store.get 0 x.sent d % 2 ^ 32 + Store.get 0 x.rcvd d % 2 ^ 32 * 2 ^ 32 + nth x.left d % 2 ^ 32 * 2 ^ 64
      else 0
    | none => 0

def execXstat (d : SReg) (a : CReg) (b : SReg) (s : State) : Host.Outcome State Fault Refusal :=
  .next (s.readXid a fun t xid =>
    let v := match t.xctx (dieOf t.c) xid with | some x => x.item (t.rs b).toNat | none => 0
    ((t.ws d (BitVec.ofNat 64 v)).ws (d + 1) (BitVec.ofNat 64 (v / 2 ^ 64))).retire 8)

end Sys2Proof.Machine
end

