-- ==== Sys2Proof/Machine/EvIssue.lean ====
section
/-! DEFINITION. Events of issue: completions, promotion, back-off and gongs (07 R185, 09 R224, 12 R323, 15 R387). -/

namespace Sys2Proof.Machine

/-- COUNTED_COMPLETE (09 R224): the operation's registers, flags and waiting path; its counts are gone. -/
def execCountedComplete (op : Nat) (s : State) : Host.Outcome State Fault Refusal := .next (s.completeOp op)

/-- PATH_PROMOTION (15 R387): a path that may issue is promoted, and stays so until it issues. -/
def execPathPromotion (p : PathId) (s : State) : Host.Outcome State Fault Refusal :=
  .next (match s.inSlot p.core p.slot with
    | none => s
    | some gid =>
      if s.canIssue gid (s.grp gid) p.b && ((s.grp gid).path p.b).promoted.isNone then
        s.modPath gid p.b fun x => { x with promoted := some s.time }
      else s)

/-- POLL_DELAY_END (12 R323): the back-off has run out. -/
def execPollDelayEnd (p : PathId) (s : State) : Host.Outcome State Fault Refusal :=
  .next (match s.inSlot p.core p.slot with
    | none => s
    | some gid => if ((s.grp gid).path p.b).wait = .delay then s.modPath gid p.b fun x => { x with wait := .none } else s)

/-- GONG (07 R185, 16 R400): the path is readied, or its saved group is marked readied. -/
def execGong (w : Waiter) (s : State) : Host.Outcome State Fault Refusal :=
  .next (match s.waiterGid w with
    | none => s
    | some gid => if ((s.grp gid).path w.b).wait = .wake then s.ready gid w.b else s)

end Sys2Proof.Machine
end

