-- ==== Sys2Proof/Machine/EvTrans.lean ====
section
/-! DEFINITION. Events of translation and ownership: walks, the end of a shootdown, zeroing, and the reassignment of a die
(01 R27, R36, R38, R44-R46). -/

namespace Sys2Proof.Machine

/-- PAGE_WALK (01 R27, R28, R36): the translating slice of a die walks to the leaf of an address and caches it, unless it holds it.
What an access asks of the leaf is checked by the access itself. -/
def execPageWalk (die asid va : Nat) (_acc : Acc) (s : State) : Host.Outcome State Fault Refusal :=
  .next (if ((s.die die).cached asid va).isSome then s else (s.walkAt die asid va).1)

/-- Whether an allowance of one of some dies is on its way home. -/
def State.aretInFlight (s : State) (dies : List Nat) : Bool :=
  s.agenda.any fun i => match i with | .aret c .. => dies.contains (dieOf c) | _ => false

/-- Read replicas of pages of a range that a shootdown of the package has covered, and that are no longer mapped (01 R43). -/
def State.dropReplicas (s : State) (k : Shoot) : State :=
  if k.dies.length < 8 then s
  else { s with replicas := s.replicas.filter fun r =>
    !(r.1 == k.asid && decide (k.lo ≤ r.2) && decide (r.2 < k.hi) && match s.walk r.1 r.2 with | .ok _ => false | .error _ => true) }

/-- SHOOTDOWN_COMPLETE (01 R38, 04 R127): the allowances that came in meanwhile go back; once the accesses in flight have been
performed and the allowances are home, the dirty guest lines that stand are flushed, and once they are, the path that issued the
shootdown goes on. -/
def execShootdownComplete (sid : Nat) (s : State) : Host.Outcome State Fault Refusal :=
  .next (match s.shoots.find? (·.sid == sid) with
    | none => s
    | some k =>
      let t := (s.coresOf k.dies).foldl (fun t c => t.returnRange c k.asid k.lo k.hi) s
      if t.shootBusy k || t.aretInFlight k.dies then t.again (.shootdownComplete sid)
      else
        let k := if k.drained then k else { k with drained := true, lines := t.dirtyLines k.dies }
        let u : State := { t with shoots := t.shoots.map fun x => if x.sid = sid then k else x }
        let t := k.lines.foldl (fun (t : State) l => t.flushGuest l.1 l.2) u
        if t.shootDirty k then t.again (.shootdownComplete sid)
        else
          let t : State := { t with shoots := t.shoots.filter (·.sid != sid) }.dropReplicas k
          if k.gid ≠ 0 ∧ ((t.grp k.gid).path k.b).wait = .shootdown sid then t.ready k.gid k.b else t)

/-! ### Zeroing (01 R44-R46) -/

/-- The allowance records in use that lie in a physical range. -/
def State.recordsIn (s : State) (pa n : Nat) : List Nat := s.dies.flatMap fun d => d.2.pinned.filter fun a => decide (pa ≤ a) && decide (a < pa + n)

/-- Zeros over a physical range, with every tag cleared. Allowances of records there are dropped, and no guest line of the range
stays (02 R75, 04 R113). -/
def State.zeroRange (s : State) (pa n : Nat) : State :=
  let inside (a : Nat) : Bool := decide (pa ≤ a) && decide (a < pa + n)
  let recs := s.recordsIn pa n
  let t := recs.foldl State.dropHolders s
  let u := { t with
    mem := t.mem.filter fun e => !inside e.1
    tags := t.tags.filter fun g => !touches pa n g
    poison := t.poison.filter fun g => !touches pa n g
    dies := t.dies.map fun (d : Nat × Die) => (d.1, { d.2 with guests := d.2.guests.filter fun g => !inside g.pa }) }
  recs.foldl State.settleAll u

/-- ZERO_ENGINE_DONE (01 R44): the frame of a zero-pending leaf of a level has been zeroed, and ZP is cleared with a
compare-and-swap. -/
def execZeroEngineDone (pte lvl : Nat) (s : State) : Host.Outcome State Fault Refusal :=
  .next (
    let n := s.readNat pte 16
    let p := Pte.ofNat n
    if p.v && p.leaf && p.zp && decide (lvl ≤ 2) then
      (s.zeroRange p.pa (2 ^ (15 + 10 * lvl))).homeWriteNow pte (bytesOf 16 (n - 2 ^ 13))
    else s)

/-- What a die holds of its partition is gone: cores, CMEM, shadow SRAM, groups, operations, exchange contexts and monitors
(01 R46; 02 R48; 07 R188, R189; 15 R383). -/
def State.zeroDie (s : State) (die : Nat) : State :=
  let here (g : Group) : Bool := dieOf g.core == die
  let gone := (s.groups.filter fun e => here e.2).map (·.1)
  -- what waits at its counters ends with them
  let idle := s.modDie die fun d => { d with homes := d.homes.filter fun e => !isCmem e.1 }
  let t := idle.zeroRange (s.pkg * 2 ^ 43 + 0x10000000000 + die * 0x4000000) 0x4000000
  let blank (k : Nat) : Core := { cycle := (t.core k).cycle, failed := (t.core k).failed, fed := t.clock }
  -- what its engines had on the way ends with their contexts
  let stale : Instr → Bool := fun
    | .commandStart c .. => dieOf c == die
    | .commandComplete c .. => dieOf c == die
    | .tileLand c .. => dieOf c == die
    | _ => false
  { t with
    agenda := t.agenda.filter fun i => !stale i
    groups := t.groups.filter fun e => !here e.2
    ops := t.ops.filter fun o => !gone.contains o.2.gid
    cores := (List.range 32).foldl (fun cs i => Store.put cs (32 * die + i) (blank (32 * die + i))) t.cores
    parts := t.parts.map fun (p : Nat × Part) => (p.1, { p.2 with
      area := p.2.area.filter fun e => dieOf e.1 != die
      areaMon := p.2.areaMon.filter fun e => e.1 != die }) }.modDie die fun d =>
      { d with
        stealPtr := 0, corePtr := 0, roots := [], monitors := [], xctxs := [], xposts := [], xarbs := []
        pinned := d.pinned.filter fun p => !isCmem p }

/-- PARTITION_REASSIGN (01 R46): a die is zeroed and belongs to another partition; a number above 7 names none. -/
def execPartitionReassign (die part : Nat) (s : State) : Host.Outcome State Fault Refusal :=
  .next (
    let t := s.zeroDie die
    let t := { t with parts := t.parts.map fun (p : Nat × Part) => (p.1, { p.2 with dies := removeNat p.2.dies die }) }
    if part < 8 then t.modPart part fun p => { p with dies := insertNat p.dies die } else t)

end Sys2Proof.Machine
end

