-- ==== Sys2Proof/Machine/EvHier.lean ====
section
/-! DEFINITION. Events of the memory hierarchy: slices, directories, L1 lines, leases, banks, guest lines, other packages
and the host (02 R53-R82). -/

namespace Sys2Proof.Machine

/-! ### Loads and stores at the serving slice (02 R54, R62) -/

/-- Answers a request once its acknowledgements have come to the slice of a die (02 R62). -/
def State.performed (s : State) (die : Nat) (r : Req) (acks : Nat) : State :=
  s.await die ⟨reqSid r, r.pa, r.len, r.page.ord == 2, acks, [.stack ⟨r.core, sliceId die r.pa, reqSid r⟩]⟩

/-- A prefetch of a line into the L2 alone: the slice that a load would go to takes the line (12 R311). -/
def State.prefetchAt (s : State) (r : Req) (die : Nat) (guest : Bool) : State :=
  let (t, ok) := if guest then s.sliceReady die (lineOf r.pa) 128 true false else (s, true)
  if !ok then t.again (.sliceLoad r)
  else ((if guest then (t.sliceRead die (lineOf r.pa) 128 true r.page.pol).1 else t.accountAt (homeDie r.pa) r.pa 1 r.page.pol)).partAck r.op

/-- The tag that a load returns from its serving slice. -/
def State.loadTag (s : State) (r : Req) (die : Nat) (guest : Bool) : Bool :=
  match r.act with
  | .loadCap lc => lc && PageInfo.canTag r.page && (if guest then s.guestTag die r.pa else s.tagAt r.pa)
  | .load => false
  | .poll => false
  | .store _ => false
  | .storeCap _ _ => false
  | .rmw _ _ _ => false
  | .cas _ _ _ => false
  | .arrive => false

/-- SLICE_LOAD: the bytes of a load at its serving slice, or at the host attachment. A request of no bytes is a prefetch. -/
def execSliceLoad (r : Req) (s : State) : Host.Outcome State Fault Refusal :=
  .next (
    if r.page.mt = 2 then s.partDone r.op r.lane r.part (s.read r.pa r.len) false
    else
      let die := dieOf r.core
      let guest := servedByGuest die r.pa r.page r.page.pol
      if r.len = 0 then s.prefetchAt r die guest
      else
        let (t, ok) := s.sliceReady die r.pa r.len guest false
        if !ok then t.again (.sliceLoad r)
        else
          let (u, bs) := t.sliceRead die r.pa r.len guest r.page.pol
          (u.observe (u.gidOf r) r.core r.pa r.len false).partDone r.op r.lane r.part bs (u.loadTag r die guest))

/-- The bytes that a store writes, and whether they keep a tag. -/
def actBytes : Act → List Byte × Bool
  | .store bs => (bs, false)
  | .storeCap v tag => (bytesOf 16 v.toNat, tag)
  | .load => ([], false)
  | .poll => ([], false)
  | .loadCap _ => ([], false)
  | .rmw _ _ _ => ([], false)
  | .cas _ _ _ => ([], false)
  | .arrive => ([], false)

/-- SLICE_STORE (02 R62, R76): the store at its serving slice, with UPDs to every sharer. A release at .pkg or wider is
carried on to the home. -/
def execSliceStore (r : Req) (s : State) : Host.Outcome State Fault Refusal :=
  let (bs, tag) := actBytes r.act
  .next (
    if r.page.mt = 2 then ((s.logMem r.op r.pa r.len).write r.pa bs).partAck r.op
    else
      let die := dieOf r.core
      let guest := servedByGuest die r.pa r.page r.page.pol
      let (t, ok) := s.sliceReady die r.pa r.len guest true
      if !ok then t.again (.sliceStore r)
      else
        let own := if r.early then some (r.core, r.asid, lineOf r.va) else none
        let (u, acks) := (t.logMem r.op r.pa r.len).sliceWrite die r.pa bs tag guest r.page.pol (reqSid r) own
        let u := if guest && (match r.rel with | some sc => decide (3 ≤ scopeNum sc) | none => false) then
            (linesOf r.pa r.len).foldl (fun t l => t.flushGuest die l) u
          else u
        u.performed (if guest then die else homeDie r.pa) r acks)

/-- STACK: the store or atomic is performed at the slice and at every sharer. The operation of an early store has counted it
already (12 R310). -/
def execStack (m : StoreAnswer) (s : State) : Host.Outcome State Fault Refusal :=
  .next ((if sidEarly m.sid then s else s.partAck (m.sid / 1024)).sweep)

/-! ### Updates and invalidations at a core (02 R62) -/

/-- An UPD at its core: applied, held for a fill, or answered NP. -/
def State.onUpd (s : State) (core sid asid vl pa : Nat) (bs : List Byte) (off : Nat) (tags : BitVec 8) (ver : W32) (own : Bool) :
    State :=
  match (s.core core).line asid vl with
  | none => s.send (.uack sid core asid vl pa false)
  | some l =>
    if l.pending then
      s.modCore core fun c => c.setLine { l with held := l.held ++ [.upd core sid asid vl pa bs off tags ver own] }
    else (s.modCore core fun c => c.setLine (l.update off bs tags ver own)).send (.uack sid core asid vl pa true)

def execUpd (core sid asid vl pa : Nat) (bs : List Byte) (off : Nat) (tags : BitVec 8) (ver : W32) (own : Bool) (s : State) :
    Host.Outcome State Fault Refusal :=
  .next (s.onUpd core sid asid vl pa bs off tags ver own)

/-- An INV at its core: older lines go; while the fill of one that it covers is pending, it is held. -/
def State.onInv (s : State) (core slice iid asid lo hi : Nat) (ver : W32) : State :=
  let hit := (s.core core).lines.filter fun l => l.asid == asid && decide (lo ≤ l.va) && decide (l.va ≤ hi)
  let t := (hit.filter fun l => !l.pending && !olderEq ver l.ver).foldl (fun t l => t.loseLine core l) s
  match hit.find? (·.pending) with
  | some l => t.modCore core fun c => c.setLine { l with held := l.held ++ [.inv core slice iid asid (lo, hi) ver] }
  | none => t.send (.iack iid core)

def execInv (core slice iid asid : Nat) (lines : Nat × Nat) (ver : W32) (s : State) : Host.Outcome State Fault Refusal :=
  .next (s.onInv core slice iid asid lines.1 lines.2 ver)

/-- A held message is run again. -/
def State.rerun (core : Nat) (s : State) (i : Instr) : State :=
  match i with
  | .upd _ sid asid vl pa bs off tags ver own => s.onUpd core sid asid vl pa bs off tags ver own
  | .inv _ slice iid asid lines ver => s.onInv core slice iid asid lines.1 lines.2 ver
  | _ => s

/-- An acknowledgement, at whichever die waits for it. -/
def State.ackAny (s : State) (sid : Nat) : State :=
  match Store.findKey? s.dies fun d => d.pends.any (·.sid == sid) with
  | some d => (s.ack d sid).sweep
  | none => s

/-- UACK (02 R57, R61): an NP answer splits the entry or removes the record; the store's acknowledgement is counted. -/
def execUack (sid core asid vb pa : Nat) (applied : Bool) (s : State) : Host.Outcome State Fault Refusal :=
  .next ((if applied then s else s.onNp (dieOf core) pa core asid vb).ackAny sid)

/-- The home grants the lease of a line (02 R65). -/
def State.grantLease (s : State) (core asid va pa : Nat) : State :=
  let h := homeDie pa
  let t := (s.accountAt h pa 128 .ca).modDie h fun d => d.setLease pa (some core)
  t.send (.lgrant core asid va pa (lineOfBytes (t.read pa 128)) (t.lineTags pa) (match (t.die h).dirAt pa with | some e => e.ver | none => 0))

/-- Grants of a die whose IACKs have all come. -/
def State.grantReady (s : State) (die : Nat) : State :=
  let free (d : Die) (k : Lock) : Bool := !(d.leaving.any fun e => e.covers (sliceOf k.line) k.line)
  let ks := (s.die die).locks.filter (free (s.die die))
  ks.foldl (fun t k => t.grantLease k.core k.asid k.va k.line) (s.modDie die fun d => { d with locks := d.locks.filter fun k => !free d k })

/-- IACK: a core has dropped its copies. With the last one, the stores and the lease request that waited go on. -/
def execIack (iid core : Nat) (s : State) : Host.Outcome State Fault Refusal :=
  let die := dieOf core
  .next (match (s.die die).leaving.find? fun e => e.iid == iid && e.cores.contains core with
    | none => s
    | some e =>
      let rest := if e.acks ≤ 1 then [] else [{ e with acks := e.acks - 1, cores := e.cores.erase core }]
      let t := s.modDie die fun d => { d with leaving := (d.leaving.erase e) ++ rest }
      (if e.acks ≤ 1 then e.sids.foldl State.ackAny t else t).grantReady die)

/-! ### Fills (02 R49, R56) -/

/-- The version of an INV that a core holds for a line until its fill comes. -/
def State.heldInv (s : State) (core asid va : Nat) : Option W32 :=
  match (s.core core).line asid va with
  | none => none
  | some l => l.held.findSome? fun i => match i with | .inv _ _ _ _ _ v => some v | _ => none

/-- Prefetches that waited for a fill are complete once the slice has accepted it (12 R311). -/
def State.prefetched (s : State) (core asid va : Nat) : State :=
  match (s.core core).line asid va with
  | none => s
  | some l =>
    (l.loads.filter (·.len == 0)).foldl (fun t r => t.partAck r.op)
      (s.modCore core fun c => c.setLine { l with loads := l.loads.filter (·.len != 0) })

/-- FILLREQ: the slice adds a sharer record and answers with the line; a guest slice fills its guest line first. While the line
waits for the IACK of an INV that the core holds for this very fill, the fill is served as one accepted before the INV, so that
the INV drops the line (02 R62, R65; assumption 120). -/
def execFillreq (core asid va pa : Nat) (s : State) : Host.Outcome State Fault Refusal :=
  .next (
    let die := dieOf core
    let guest := homeDie pa != die
    match (if !guest && s.locked pa 128 then s.heldInv core asid va else none) with
    | some v => (s.prefetched core asid va).send (.fillrsp core asid va pa (lineOfBytes (s.read pa 128)) (s.lineTags pa) (v - 1))
    | none =>
      let (t, ok) := s.sliceReady die pa 128 guest false
      if !ok then t.again (.fillreq core asid va pa)
      else
        let (u, bs) := t.sliceRead die pa 128 guest .ca
        let tags := if guest then mask8 fun g => u.guestTag die (pa + 16 * g) else u.lineTags pa
        let w := (u.addSharer die pa core asid va).prefetched core asid va
        w.send (.fillrsp core asid va pa (lineOfBytes bs) tags (match (w.die die).dirAt pa with | some e => e.ver | none => 0)))

/-- A request that waited for a line is performed in it, or goes on if the line cannot serve it. -/
def State.serveWaiting (asid va core : Nat) (s : State) (r : Req) : State :=
  match (s.core core).line asid va with
  | some l => if !l.pending && (l.lease || !actWrites r.act) then s.performLine l r else s.route r
  | none => s.route r

/-- FILLRSP: the line is installed, the loads that waited are performed, and held messages are run again; a line that a purge or
an acquire has overtaken goes once its loads are served. -/
def execFillrsp (core asid va pa : Nat) (data : BitVec 1024) (tags : BitVec 8) (ver : W32) (s : State) :
    Host.Outcome State Fault Refusal :=
  .next (match (s.core core).line asid va with
    | none => s
    | some l =>
      if !l.pending || l.pa != pa then s
      else
        let t := s.modCore core fun c => c.setLine { l with data := data, tags := tags, ver := ver, pending := false, loads := [], held := [] }
        let t := l.loads.foldl (State.serveWaiting asid va core) t
        let t := if l.stale then t.modCore core fun c => c.dropLine asid va else t
        l.held.foldl (State.rerun core) t)

/-- L1_EVICTION (02 R49, R66; 04 R114): a line or an allowance entry leaves the L1 on its own. -/
def execL1Eviction (core asid va : Nat) (s : State) : Host.Outcome State Fault Refusal :=
  .next (match (s.core core).line asid va with
    | some l => if l.pending then s else s.loseLine core l
    | none =>
      match (s.core core).allowAt asid va with
      | some e => (s.modCore core fun c => { c with allow := c.allow.filter (· != e) }).send (.aret core e.pa e.amount)
      | none => s)

/-! ### Directory merges (02 R58) -/

/-- The records of two halves pair exactly. -/
def pairHalves (k : Nat) (lo hi : List Sharer) : Bool :=
  let up (r : Sharer) : Sharer := { r with vb := (r.vb + 2 ^ k) % 2 ^ 57 }
  lo.all (fun r => hi.contains (up r)) && hi.all fun r => lo.any fun q => up q == r

/-- DIRECTORY_MERGE: two quiet halves of an aligned region become one entry. -/
def execDirectoryMerge (die slice base k : Nat) (s : State) : Host.Outcome State Fault Refusal :=
  .next (
    let d := s.die die
    let half (b : Nat) : Option DirEntry := d.dirs.find? fun e => e.slice == slice && e.base == b && e.k == k
    match half base, half (base + 2 ^ k) with
    | some x, some y =>
      if k < 16 && base % 2 ^ (k + 1) == 0 && x.lease.isNone && y.lease.isNone &&
          !(d.locks.any fun l => x.covers slice l.line || y.covers slice l.line) && pairHalves k x.sharers y.sharers then
        s.setDie die { d with
          dirs := d.dirs.filter (fun e => e != x && e != y) ++
            [{ x with k := k + 1, ver := if olderEq x.ver y.ver then y.ver else x.ver }] }
      else s
    | _, _ => s)

/-! ### Leases (02 R65, R66) -/

/-- LREQ: the home splits the entry down to the line and invalidates every other record; it grants once they have answered, and
performs nothing else on the line before (02 R54, R65). -/
def execLreq (core asid va pa : Nat) (s : State) : Host.Outcome State Fault Refusal :=
  .next (
    let h := homeDie pa
    let (t, free) := s.recall pa 128
    if !free || !t.versionRoom h pa then t.again (.lreq core asid va pa)
    else
      let t := (t.addSharer h pa core asid va).splitLine h pa
      let mine (e : DirEntry) (r : Sharer) : Bool := r.core == core && r.asid == asid && r.vline e.base pa == va
      let (d, v, pre) := (t.die h).nextVer (sliceOf pa) pa
      let u := match (t.die h).dirAt pa, d.dirAt pa with
        | some e, some x =>
          if (e.sharers.filter fun r => !mine e r).isEmpty then t
          else
            let (d, msgs) := (d.dirSwap x [{ x with ver := v, sharers := x.sharers.filter (mine x) }]).invTo x (x.sharers.filter fun r => !mine x r) v
            (t.setDie h d).sendAll (pre ++ msgs)
        | _, _ => t
      (u.modDie h fun d => { d with locks := d.locks ++ [⟨lineOf pa, core, asid, va⟩] }).grantReady h)

/-- The line that a grant installs, in place of a copy if there is one. -/
def Line.granted (asid va pa : Nat) (data : BitVec 1024) (tags : BitVec 8) (ver : W32) : Line :=
  { Line.awaiting asid va pa [] with data := data, tags := tags, ver := ver, pending := false, lease := true }

/-- LGRANT: the leased line is installed and serves what waited for it. A lease that the core no longer wants goes back; so does one
of a line with own bytes on their way to the slice, which asks again behind them; and one of a line that a purge has overtaken, or
that has no frame, once its requests are served. -/
def execLgrant (core asid va pa : Nat) (data : BitVec 1024) (tags : BitVec 8) (ver : W32) (s : State) :
    Host.Outcome State Fault Refusal :=
  .next (
    let c := s.core core
    let mine (w : LWait) : Bool := w.asid == asid && w.va == va && w.pa == pa
    let ws := c.lwaits.filter mine
    let back := s.send (.lret core pa data 0 tags)
    let forget (s : State) : State := s.modCore core fun c => { c with lwaits := c.lwaits.filter fun w => !mine w }
    if ws.isEmpty then back
    else
      let (t, room) := if (c.line asid va).isSome then (s, true) else s.makeFrame core va
      match c.line asid va with
      | some l =>
        if l.pa ≠ pa then (ws.flatMap (·.reqs)).foldl (fun t r => t.send (.homeAtomic r)) (forget back)
        else if l.own.any (· != 0) then back.send (.lreq core asid va pa)
        else
          let t := forget (s.modCore core fun c => c.setLine (Line.granted asid va pa data tags ver))
          let t := (l.loads ++ ws.flatMap (·.reqs)).foldl (State.serveWaiting asid va core) t
          let t := if l.stale || ws.any (·.stale) then
              match (t.core core).line asid va with | some m => t.loseLine core m | none => t
            else t
          l.held.foldl (State.rerun core) t
      | none =>
        let t := forget (t.modCore core fun c => { c with lines := c.lines ++ [Line.granted asid va pa data tags ver] })
        let t := (ws.flatMap (·.reqs)).foldl (State.serveWaiting asid va core) t
        if !room || ws.any (·.stale) then
          match (t.core core).line asid va with | some m => t.loseLine core m | none => t
        else t)

/-- LRECALL: the core gives its lease back and keeps an ordinary copy. -/
def execLrecall (core pa : Nat) (s : State) : Host.Outcome State Fault Refusal :=
  .next (match (s.core core).lines.find? fun l => l.pa == pa && l.lease with
    | none => s
    | some l => (s.modCore core fun c => c.setLine { l with lease := false, dirty := 0 }).send (.lret core pa l.data l.dirty l.tags))

/-- LRET: the home writes the dirty bytes, and the lease is over. -/
def execLret (_core pa : Nat) (data : BitVec 1024) (dirty : BitVec 128) (tags : BitVec 8) (s : State) :
    Host.Outcome State Fault Refusal :=
  .next ((((s.accountAt (homeDie pa) pa 128 .ca).writeDirty pa data dirty tags 0).1.modDie (homeDie pa) fun d => d.setLease pa none).sweep)

/-! ### Atomics at the home, and banks (02 R64, R70, R71) -/

/-- HOME_ATOMIC: one indivisible operation at the home slice, or at the host's memory controller. -/
def execHomeAtomic (r : Req) (s : State) : Host.Outcome State Fault Refusal :=
  .next (
    let die := dieOf r.core
    let (t, ok) := if r.page.mt = 0 then s.sliceReady die r.pa r.len false true else (s, true)
    if !ok then t.again (.homeAtomic r)
    else
      let u := ((t.accountAt (homeDie r.pa) r.pa r.len r.page.pol).dropGuests die r.pa r.len).observe (t.gidOf r) r.core r.pa r.len false
      let d := u.performHome r (reqSid r) none
      (d.st.partGot r.op r.lane r.part d.bytes d.tag).performed (homeDie r.pa) r d.acks)

/-- A request performed at once at a bank. -/
def State.atBank (s : State) (r : Req) : State :=
  let d := s.performHome r (reqSid r) none
  d.st.partDone r.op r.lane r.part d.bytes d.tag

/-- BANK_ACCESS. -/
def execBankAccess (r : Req) (s : State) : Host.Outcome State Fault Refusal := .next (s.atBank r)

/-- BANK_ALU_OP. -/
def execBankAluOp (r : Req) (s : State) : Host.Outcome State Fault Refusal := .next (s.atBank r)

/-! ### Guest lines (02 R77, R78) -/

/-- GUEST_FLUSH: the home applies the dirty bytes as one write, any lease recalled first, and answers once its sharers
have. -/
def execGuestFlush (die line : Nat) (data : BitVec 1024) (dirty : BitVec 128) (tags : BitVec 8) (s : State) :
    Host.Outcome State Fault Refusal :=
  .next (
    let (t, free) := s.recall line 128
    if !free || !t.versionRoom (homeDie line) line then t.again (.guestFlush die line data dirty tags)
    else
      let sid := 1024 * t.fresh + 1023
      let (u, k) := (t.bump.accountAt (homeDie line) line 128 .ca).writeDirty line data dirty tags sid
      u.await (homeDie line) ⟨sid, line, 128, false, k, [.guestFlushAck die line dirty]⟩)

/-- GUEST_FLUSH_ACK: the guest slice clears the dirty mask of what it flushed; a line that it has evicted goes. -/
def execGuestFlushAck (die line : Nat) (dirty : BitVec 128) (s : State) : Host.Outcome State Fault Refusal :=
  .next ((match (s.die die).guest line with
    | some g =>
      let h := { g with dirty := g.dirty &&& ~~~dirty }
      if h.leaving && h.dirty == 0 then s.dropLine die line else s.modDie die fun d => d.setGuest h
    | none => s).sweep)

/-! ### Other packages and the host (02 R80, R82; 03 R103) -/

/-- Whether the writes from outside the package that a home has performed have reached every sharer; the next write waits for them,
so that a host's release finds its earlier writes performed (03 R103). -/
def State.outsideDone (s : State) : Bool := !(s.dies.any fun d => d.2.pends.any fun p => p.sid % 1024 == 1022)

/-- Whether an access from outside every die may be performed at its home slice or bank now (02 R66, R80, R82). -/
def State.outsideReady (s : State) (pa n : Nat) (writes : Bool) : State × Bool :=
  let (t, free) := if isCmem pa then (s, true) else s.recall pa n
  (t, free && (!writes || (t.outsideDone && (isCmem pa || t.versionRoom (homeDie pa) pa))))

/-- Such an access, like a .sl access (02 R80, R82). -/
def State.outside (s : State) (r : Req) : State × List Byte × Bool :=
  let sid := 1024 * s.fresh + 1022
  let d := (s.bump.accountAt (homeDie r.pa) r.pa r.len .sl).performHome r sid none
  (d.st.await (homeDie r.pa) ⟨sid, r.pa, r.len, false, d.acks, []⟩, d.bytes, d.tag)

/-- REMOTE_ACCESS: an MT 3 access leaves by a link and is performed at its home package; with no link it stays under way
(06 R170, R171). One by another package to this package's memory is performed
here, and answered (02 R80). -/
def execRemoteAccess (r : Req) (s : State) : Host.Outcome State Fault Refusal :=
  .next (
    if pkgOf r.pa ≠ s.pkg then if (s.linkFor (dieOf r.core) r.pa).isNone then s.again (.remoteAccess r) else s.atBank r
    else
      let (t, ready) := s.outsideReady r.pa r.len (actWrites r.act)
      if !ready then t.again (.remoteAccess r)
      else
        let (u, bs, tag) := t.outside { r with op := 0 }
        { u with replies := u.replies ++ [(r, bs, tag)] })

/-- HOST_ACCESS: an access by the host to this package's HBM or CMEM, or to its own memory. What a read returns goes to
`hostData`. -/
def execHostAccess (pa len : Nat) (write : Option (List Byte)) (s : State) : Host.Outcome State Fault Refusal :=
  .next (
    match mtOf (localOf pa) with
    | some 4 => s
    | none => s
    | some mt =>
      let n := match write with | some bs => bs.length | none => len
      if mt = 2 then
        match write with
        | some bs => s.write pa bs
        | none => { s with hostData := s.hostData ++ [(pa, s.read pa n)] }
      else
        let (t, ready) := s.outsideReady pa n write.isSome
        if !ready then t.later
        else
          let (u, bs, _) := t.outside
            { op := 0, lane := 0, part := 0, core := 0, asid := 0, va := pa, pa := pa, len := n, page := ⟨mt, 0, false, .sl⟩
              act := match write with | some bs => .store bs | none => .load
              rel := none, acq := none, early := false }
          if write.isSome then u else { u with hostData := u.hostData ++ [(pa, bs)] })

end Sys2Proof.Machine
end

