-- ==== Sys2Proof/Machine/EvAllow.lean ====
section
/-! DEFINITION. The messages of the allowance protocol (04 R113-R128). -/

namespace Sys2Proof.Machine

/-- Accepts a message of a core at a record's home: a lease on its line is recalled first, and so is a guest line of the core's
die flushed and dropped (02 R66, R75; 04 R111). -/
def State.atRecord (s : State) (core rec_ : Nat) (i : Instr) (act : State → State) : State :=
  let (t, free) := s.homeReady (dieOf core) rec_ 64
  if free then act ((t.accountAt (homeDie rec_) rec_ 64 .sl).dropGuests (dieOf core) rec_ 64) else t.again i

/-- AREQ (04 R118). One of a core that has failed gives back what it brings, and asks for nothing (04 R128). -/
def execAreq (core rec_ op : Nat) (k a : W64) (nw : Bool) (s : State) : Host.Outcome State Fault Refusal :=
  .next (s.atRecord core rec_ (.areq core rec_ op k a nw) fun t =>
    if (t.core core).failed then (t.poolAt rec_ a.toNat).settleAll rec_ else t.acceptReq core rec_ op k.toNat a.toNat nw)

/-- AOP (04 R118, R121, R122). -/
def execAop (core rec_ op : Nat) (o : AOp) (s : State) : Host.Outcome State Fault Refusal :=
  .next (s.atRecord core rec_ (.aop core rec_ op o) fun t => if (t.core core).failed then t else t.acceptOp core rec_ op o)

/-- ADECs of a core that waited for its one request on a record are tried again. -/
def State.retryAllow (s : State) (core rec_ : Nat) : State :=
  let mine := (s.core core).await.filter (·.1 == rec_)
  let t := s.modCore core fun c => { c with await := c.await.filter (·.1 != rec_) }
  mine.foldl (fun t e => t.adec core e.2.1 e.2.2.1.toNat e.2.2.2) t

/-- AGRANT (04 R117, R126): what a grant gives beyond k becomes an entry, or goes back from a halted core. The status of a group
that has been saved is held with its save area. A core that has failed takes nothing (04 R128). -/
def execAgrant (core rec_ op : Nat) (status : Nat) (g value : W64) (_rseq : W32) (s : State) :
    Host.Outcome State Fault Refusal :=
  .next (if (s.core core).failed then s else
    let s := s.modCore core fun c => { c with areqs := c.areqs.filter (· != (rec_, op)) }
    let (k, asid, va) := match Store.find s.ops op with
      | some o => (o.ctrK, (s.grp o.gid).asid, o.ctrVa)
      | none => (0, 0, 0)
    let t :=
      if status = ASt.ok ∧ k < g.toNat then
        if (s.core core).halted || !(Store.find s.ops op).isSome then s.send (.aret core rec_ (BitVec.ofNat 64 (g.toNat - k)))
        else s.installAllow core asid va rec_ (g.toNat - k)
      else s
    (t.ctrDone op status value.toNat).retryAllow core rec_)

/-- RCALL (04 R120): the core answers with all it holds of the record. -/
def execRcall (core rec_ : Nat) (rseq : W32) (s : State) : Host.Outcome State Fault Refusal :=
  .next ((s.modCore core fun c => c.dropAllow rec_).send
    (.rret core rec_ rseq (BitVec.ofNat 64 ((s.core core).allowSum rec_))))

/-- RRET (04 R118). -/
def execRret (core rec_ : Nat) (rseq : W32) (amount : W64) (s : State) : Host.Outcome State Fault Refusal :=
  .next (s.atRecord core rec_ (.rret core rec_ rseq amount) fun t => t.acceptAnswer core rec_ amount.toNat rseq)

/-- ARET (04 R118). -/
def execAret (core rec_ : Nat) (amount : W64) (s : State) : Host.Outcome State Fault Refusal :=
  .next (s.atRecord core rec_ (.aret core rec_ amount) fun t => t.acceptReturn core rec_ amount.toNat)

/-- DROP (04 R113): the holder's units count as consumed. -/
def execDrop (core rec_ : Nat) (s : State) : Host.Outcome State Fault Refusal :=
  .next (s.modCore core fun c => c.dropAllow rec_)

/-- Firmware's FORFEIT of one core at every home (04 R128): its requests that wait there are dropped with it. -/
def State.forfeitCore (s : State) (core : Nat) : State :=
  let drop (l : List AWait) : List AWait := l.filter (·.core != core)
  let t : State := { s with dies := s.dies.map fun (d : Nat × Die) => (d.1, { d.2 with
    homes := d.2.homes.map fun (h : Nat × AHome) => (h.1, { h.2 with opened := drop h.2.opened, closed := drop h.2.closed }) }) }
  (t.dies.flatMap fun d => d.2.pinned).foldl (fun t p => t.forfeitAt core p) t

def execForfeit (core : Nat) (s : State) : Host.Outcome State Fault Refusal := .next (s.forfeitCore core)

end Sys2Proof.Machine
end

