-- ==== Sys2Proof/Machine/EvEngine.lean ====
section
/-! DEFINITION. Commands start and complete, and entries are staged (05 R129-R148, 14 R363-R371). -/

namespace Sys2Proof.Machine

/-! ### The start of a command and its transfer units (05 R134, R138, R148) -/

/-- The policy of an engine's accesses. -/
def stPolicy (st : Bool) : Policy := if st then .st else .ca

/-- The engine that carries out a command of a core. -/
def Cmd.eng (c : Cmd) (core : Nat) : Eng :=
  let st := match c.ins with
    | .cpy st .. => st
    | .cpyt _ st .. => st
    | .stage st .. => st
    | .drain _ _ st .. => st
    | _ => false
  ⟨dieOf core, c.asid, stPolicy st, 1, c.ctx⟩

/-- What a command does at its start; none for those of the exchange engine. -/
def State.runCmd (s : State) (core sid : Nat) (c : Cmd) : Option EDone :=
  let e := c.eng core
  match c.ins with
  | .cpy .. => some (s.runCpy e sid (c.caps.getD 0 Cap.null) (c.caps.getD 1 Cap.null) (c.args.getD 0 0).toNat)
  | .cpyt store .. => some (s.runBox e core sid c store)
  | .stage .. => some (s.runBox e core sid c false)
  | .drain add i32 .. => some (s.runDrain e sid c add i32)
  | .bupd op ty .. => some (s.runBupd e sid c op (if ty.pair then 64 else 32))
  | .l2pf op .. => some (s.runL2pf e c op)
  | _ => none

def Cmd.isStage (c : Cmd) : Bool := match c.ins with | .stage .. => true | _ => false

/-- A command of the exchange engine, which a halt does not stop (06 R168). -/
def Cmd.isX (c : Cmd) : Bool := match c.ins with | .dpost .. => true | .xsend .. => true | _ => false

/-- Whether a command has transfer units to come. -/
def Cmd.moving (c : Cmd) : Bool := !c.started || !c.todo.isEmpty

/-- Whether a STAGE of the core waits or runs: automatic staging comes after it (14 R363). -/
def Core.staging (c : Core) : Bool := c.cmds.any fun x => x.isStage && x.moving

/-- Whether an earlier STAGE of the core waits or runs: the stage engine takes its commands in order (14 R363). -/
def Core.stageBehind (c : Core) (k : Cmd) : Bool :=
  k.isStage && (c.cmds.takeWhile fun x => !(x.ctx == k.ctx && x.n == k.n)).any fun x => x.isStage && x.moving

/-- Changes a command of a core. -/
def State.modCmd (s : State) (core ctx n : Nat) (f : Cmd → Cmd) : State :=
  s.modCore core fun k => { k with cmds := k.cmds.map fun y => if y.ctx = ctx ∧ y.n = n then f y else y }

/-- The start of a command of the exchange engine; false when it must wait. -/
def State.startX (s : State) (core : Nat) (c : Cmd) : State × Bool :=
  let die := dieOf core
  let k := (core, c.ctx, c.n)
  let cap (i : Nat) : Cap := c.caps.getD i Cap.null
  match c.ins with
  | .dpost .. =>
    match (s.die die).xposts.find? fun p => p.cmd == k with
    | some p => s.startDpost die p (cap 0) (cap 1)
    | none => (s, true)
  | .xsend .. =>
    match (s.die die).xctxs.find? fun x => x.xsend == some k with
    | some x => s.startXsend die x k c.asid (cap 1) (cap 2)
    | none => (s, true)
  | _ => (s, true)

/-- A transfer unit has been moved: what acknowledgements it adds are awaited, and the next one follows, or the command completes once
all have come. -/
def State.unitDone (s : State) (core ctx n sid acks : Nat) (rest : List Move) : State :=
  let t := (s.modCmd core ctx n fun c => { c with todo := rest }).modDie (dieOf core) fun d =>
    { d with pends := d.pends.map fun p => if p.sid = sid then { p with acks := p.acks + acks } else p }
  if rest.isEmpty then t.ack (dieOf core) sid else t.again (.commandStart core ctx n)

/-- A command starts: its checks, its reads, and its first transfer unit. -/
def State.startCmd (s : State) (core : Nat) (c : Cmd) : State :=
  let sid := 1024 * s.fresh + 1023
  match s.runCmd core sid c with
  | none =>
    let (t, ok) := s.startX core c
    if ok then t else t.again (.commandStart core c.ctx c.n)
  | some d =>
    match d.fin with
    | none => d.st.again (.commandStart core c.ctx c.n)
    | some x =>
      let t := d.st.bump.modCmd core c.ctx c.n fun y =>
        { y with status := x.st, eaddr := x.addr, skip := x.skip, started := true, sid := sid }
      if d.todo.isEmpty then t.send (.commandComplete core c.ctx c.n)
      else
        let (ms, rest) := nextUnit d.todo
        let t := t.modDie (dieOf core) fun k => { k with pends := k.pends ++ [⟨sid, 0, 0, false, 1, [.commandComplete core c.ctx c.n]⟩] }
        let (u, acks) := t.moveAll (c.eng core) (some (core, c)) d.pages sid ms
        u.unitDone core c.ctx c.n sid acks rest

/-- The pages of some moves, as they translate now, and the failures. -/
def State.unitXlate (s : State) (e : Eng) (ms : List Move) : State × List EPage × List EFail :=
  ms.foldl (fun (t : State × List EPage × List EFail) m =>
    let (u, ps, bad) := t.1.engXlate e m.acc [] m.parts
    (u, t.2.1 ++ ps, t.2.2 ++ bad)) (s, [], [])

/-- Whether a move is a line of an L2PF: those of a page that is gone are skipped. -/
def Move.isLine : Move → Bool
  | .line _ _ => true
  | .put _ => false
  | .rmw _ _ _ _ => false
  | .loc _ _ _ _ => false

/-- The next transfer unit of a command. A page that no longer answers ends it, or is skipped by an L2PF (05 R138). -/
def State.continueCmd (s : State) (core : Nat) (c : Cmd) : State :=
  let e := c.eng core
  let (ms, rest) := nextUnit c.todo
  let (t, ps, bad) := s.unitXlate e ms
  let skips (f : EFail) : Bool := f.st == ESt.page && ms.all Move.isLine
  match worstFail (bad.filter fun f => !skips f) with
  | some f =>
    ((t.engRecord e ((ms.head?.map Move.acc).getD .load) f).modCmd core c.ctx c.n fun y =>
      if y.status = ESt.ok then { y with status := f.st, eaddr := f.addr } else y).unitDone core c.ctx c.n c.sid 0 []
  | none =>
    let home := ms.any fun m => m.acc == .atomic
    let (t, ok) := t.engReady e (ms.any fun m => accWrites m.acc) home ps
    if !ok then t.again (.commandStart core c.ctx c.n)
    else
      let t := if bad.isEmpty then t else t.modCmd core c.ctx c.n fun y => { y with skip := true }
      let (u, acks) := t.moveAll e (some (core, c)) ps c.sid ms
      u.unitDone core c.ctx c.n c.sid acks rest

/-- Whether a halted core has given up its groups: its engines have stopped, and its contexts may stand in the context area
(16 R402). -/
def State.coreStopped (s : State) (core : Nat) : Bool := (s.core core).halted && (s.residents core).isEmpty

/-- COMMAND_START: the engine checks its capabilities over the whole extent and moves its data, 128 bytes in a step; the command
completes once its writes are performed. The engines of a halted core stop at the end of a unit, once every group has left it
(05 R148, 16 R402). -/
def execCommandStart (core ctx n : Nat) (s : State) : Host.Outcome State Fault Refusal :=
  .next (match (s.core core).cmds.find? fun c => c.ctx == ctx && c.n == n && c.moving with
    | none => if s.coreStopped core then s.again (.commandStart core ctx n) else s
    | some c =>
      if s.coreStopped core && !c.isX || (s.core core).stageBehind c then s.again (.commandStart core ctx n)
      else if c.started then s.continueCmd core c
      else s.startCmd core c)

/-! ### Completion (05 R131, R132, R145-R147) -/

/-- TL after the numbers of a set have completed. -/
def advanceTl : Nat → Nat → List Nat → Nat
  | 0, tl, _ => tl
  | fuel + 1, tl, done => if done.contains (tl + 1) then advanceTl fuel (tl + 1) done else tl

/-- A context after number `n` has completed with a status and an address. -/
def Ctx.complete (x : Ctx) (n status eaddr : Nat) : Ctx :=
  let done := n :: x.doneSet
  let tl := advanceTl done.length x.tl done
  let y := { x with tl := tl, doneSet := done.filter (tl < ·) }
  if status ≠ ESt.ok ∧ status ≠ ESt.skip ∧ (!y.ev ∨ n < y.enum) then
    { y with ev := true, ecode := status, enum := n, eaddr := eaddr }
  else y

/-- A command's number as its token holds it. -/
def Cmd.tokenVal (c : Cmd) : W64 :=
  BitVec.ofNat 64 (c.n + (if c.status ≠ ESt.ok ∧ c.status ≠ ESt.skip then 2 ^ 63 else 0) + (if c.skip then 2 ^ 62 else 0))

/-- Writes a token, if the group still stands and still holds it. -/
def State.writeToken (s : State) (core : Nat) (c : Cmd) : State :=
  match c.token with
  | none => s
  | some r => s.modGrp c.gid fun g =>
      let k : Token := ⟨core, c.ctx, c.n, r⟩
      if g.tokens.contains k then { g.setS r c.tokenVal with tokens := g.tokens.filter (· != k) } else g

/-- A path whose TWAIT is over goes on; a saved group is marked readied. -/
def State.wakeTwait (core ctx tl : Nat) (s : State) (w : Nat × Bool) : State :=
  let g := s.grp w.1
  match (g.path w.2).wait with
  | .twait k x n bytes =>
    if k = core ∧ x = ctx ∧ n ≤ tl then
      if g.resident then s.twaitEnd w.1 w.2 core ctx n bytes
      else s.readySaved w.1
    else s
  | _ => s

/-- Every path of every group. -/
def State.allPaths (s : State) : List (Nat × Bool) := s.groups.flatMap fun e => [(e.1, false), (e.1, true)]

/-- COMMAND_COMPLETE: token, timeline and error record in one step, and the TWAITs that it ends. One of the exchange on a core that has
stopped comes to its context at the swap-in. -/
def execCommandComplete (core ctx n : Nat) (s : State) : Host.Outcome State Fault Refusal :=
  .next (match (s.core core).cmds.find? fun c => c.ctx == ctx && c.n == n && c.started with
    | none => if s.coreStopped core then s.again (.commandComplete core ctx n) else s
    | some c =>
      if s.coreStopped core && c.isX then s.again (.commandComplete core ctx n) else
      let t := s.modCore core fun k =>
        { k.setCtx ctx ((k.ctx ctx).complete n c.status c.eaddr) with
          cmds := k.cmds.filter fun y => !(y.ctx == ctx && y.n == n) }
      let t := t.writeToken core c
      (t.allPaths.foldl (State.wakeTwait core ctx ((t.core core).ctx ctx).tl) t).sweep)

/-! ### Automatic staging (05 R142-R144) -/

/-- The lowest multiple of a unit at which `n` units' worth fits beside the intervals that are taken. -/
def firstFit (unit cap n : Nat) (taken : List (Nat × Nat)) : Option Nat :=
  if n = 0 then some 0
  else ((0 :: taken.map fun t => (t.1 + t.2 + unit - 1) / unit * unit).filter fun a =>
    a + n ≤ cap && taken.all fun t => a + n ≤ t.1 || t.1 + t.2 ≤ a || t.2 == 0).min?

def roundUp (n unit : Nat) : Nat := (n + unit - 1) / unit * unit

/-- The scratch windows and TOB slots of a core that groups and staged entries hold. -/
def State.scrTaken (s : State) (core : Nat) : List (Nat × Nat) :=
  ((s.residents core).map fun e => (e.2.scrBase, roundUp e.2.scrSize 128)) ++
    (s.core core).bufs.map fun b => (b.scrBase, b.scrSize)

def State.tobTaken (s : State) (core : Nat) : List (Nat × Nat) :=
  ((s.residents core).map fun e => (e.2.tobBase, e.2.tobCnt)) ++ (s.core core).bufs.map fun b => (b.tobBase, b.tobCnt)

/-- The entry record of a deque entry. -/
def State.entryRec (s : State) (e : Entry) : Option (Launch × EntryRec) :=
  (Store.find s.launches e.launch).bind fun l => (l.entries[bitsAt e.closure.toNat 0 16]?).map fun r => (l, r)

/-- Room for a window of `scr` bytes and `tob` TOB bytes: bases. -/
def State.windowFit (s : State) (core scr tob : Nat) : Option (Nat × Nat) :=
  let c := s.core core
  match firstFit 128 (roleCap c.brr 1) (roundUp scr 128) (s.scrTaken core),
      firstFit 1 (roleCap c.brr 2 / 2048) (roundUp tob 2048 / 2048) (s.tobTaken core) with
  | some a, some b => some (a, b)
  | _, _ => none

/-- AUTO_STAGE_START: the oldest entry that waits reserves its window, and its tiles set out. STAGE commands of the core go first
(14 R363). -/
def execAutoStageStart (core : Nat) (s : State) : Host.Outcome State Fault Refusal :=
  .next (
    let c := s.core core
    let waiting := c.deque.filter fun e => e.st == .pending && !e.staging
    match (waiting.map (·.eid)).min?.bind fun i => waiting.find? (·.eid == i) with
    | none => s
    | some e =>
      if c.halted then s
      else if c.staging || c.bufs.any (·.eid == e.eid) then s.again (.autoStageStart core)
      else match s.entryRec e with
        | none => s
        | some (_, r) =>
          match s.windowFit core r.scr r.tob with
          | none => s
          | some (a, b) =>
            let t := s.modCore core fun c => { c with
              bufs := c.bufs ++ [⟨e.eid, e, a, roundUp r.scr 128, b, roundUp r.tob 2048 / 2048⟩]
              deque := c.deque.map fun x => if x.eid = e.eid then { x with staging := true, tiles := [] } else x }
            (t.sendAll ((List.range (tileCount e)).map fun i => .tileLand core e.eid i)).poke core)

/-- One tile of an entry on its way to its buffer: none when it must wait, else what it moves and how it ends. R143 names the
status only of an offset outside the window that the entry declares, a whole number of 128 bytes (02 R51); that a box which runs
past the window ends with SCR_BOUNDS is the model's choice (assumption 129). -/
def State.stageTile (s : State) (core : Nat) (l : Launch) (lid : Nat) (r : EntryRec) (slot : Nat) : EDone :=
  let e : Eng := ⟨dieOf core, l.asid, .ca, 2, 0⟩
  let dest := bitsAt slot 64 32
  let scr := dest % 4 == 0
  let off := destOff dest
  let room := if scr then roundUp r.scr 128 else roundUp r.tob 2048
  let bad : EEnd := ⟨ESt.badTsr, 0, false⟩
  if 2 ≤ dest % 4 ∨ room ≤ off then EDone.fail s bad
  else match s.fetchTsr e lid (bitsAt slot 0 16) with
    | (s1, none) => EDone.wait s1
    | (s1, some (.error f)) => EDone.fail (s1.engRecord e .load f) ⟨f.st, f.addr, false⟩
    | (s1, some (.ok t)) =>
      let n := boxBytes (boxCount t.box) (efBits t.ef)
      if t.plane && (scr || !t.planeOk) then EDone.fail s1 bad
      else
        let origin := [bitsAt slot 16 16, bitsAt slot 32 16, bitsAt slot 48 16, 0].zipWith (· * ·) t.box
        match worseEnd (t.check .load (t.elems origin)) (if room < off + n then some ⟨ESt.scrBounds, 0, false⟩ else none) with
        | some x => EDone.fail s1 x
        | none =>
          match s1.readBox e t origin off (1024 * s1.fresh + 1023) with
          | (s2, none) => EDone.wait s2
          | (s2, some (ps, fin)) => ⟨s2.bump, some fin, ps.map fun p => .loc scr (off + p.off) p.bytes p.tag, []⟩

/-- Bytes of a tile into the buffers of an entry. -/
def State.bufWrite (core : Nat) (b : Buf) (s : State) : Move → State
  | .loc scr off bs tag => s.modCore core fun c =>
    let as := if scr then localAddrs c.brr 1 b.scrBase off bs.length else localAddrs c.brr 2 (2048 * b.tobBase) off bs.length
    let k := (c.clearTags as).writeLoc as bs
    match as with
    | a :: _ => if tag && scr then { k with ltags := insertNat k.ltags (a / 16) } else k
    | [] => k
  | .put _ => s
  | .rmw _ _ _ _ => s
  | .line _ _ => s

/-- A release on behalf of a core, at .die or at .pkg: its leases go home, its stores are performed, and for .pkg the die's dirty guest
lines are flushed (03 R89); what is missing is set in motion. -/
def State.coreRelease (s : State) (core : Nat) (pkg : Bool) : State × Bool :=
  let s1 := s.returnLeases core
  let ok := !s1.lretInFlight core && (s1.coreStores core).isEmpty
  if pkg then
    let (s2, clean) := s1.flushAll (dieOf core)
    (s2, ok && clean)
  else (s1, ok)

/-- An entry whose staging failed goes: its future becomes FAULT, and its launch counts it out (05 R143). -/
def State.stagingFault (s : State) (core : Nat) (l : Launch) (e : Entry) (x : EEnd) : State :=
  let t := s.fillTask (dieOf core) l.asid (closureFut e.closure.toNat e.ctags) none 2 (.fault (causeOf x.st) x.addr)
  ((t.modCore core fun c => c.dropEntry e.eid).taskGone e.launch).poke core

/-- A tile of an entry that waits for it has landed, and with the last one the entry is READY. A tile that fails ends the entry,
by a fill that is a release (05 R143). -/
def State.tileLanded (s : State) (core : Nat) (l : Launch) (e : Entry) (b : Buf) (tile : Nat) (d : EDone) (x : EEnd) : State :=
  if x.st = ESt.ok then
    let tiles := insertNat e.tiles tile
    let full := tileCount e ≤ tiles.length
    ((d.todo.foldl (State.bufWrite core b) d.st).modCore core fun c => { c with deque := c.deque.map fun y =>
      if y.eid = e.eid then { y with tiles := tiles, st := if full then .ready else .pending, staging := !full } else y }).poke core
  else
    let (t, ok) := s.coreRelease core true
    if ok then d.st.stagingFault core l e x else t.again (.tileLand core e.eid tile)

/-- The transfer of an entry that a steal has taken completes into the victim's buffers and is discarded with them, and a fault that
it meets is ignored; the buffers are free once the last has ended (05 R144). -/
def State.tileStolen (s : State) (core eid : Nat) (b : Buf) (d : EDone) (x : EEnd) : State :=
  let t := if x.st = ESt.ok then d.todo.foldl (State.bufWrite core b) d.st else s
  let more := t.agenda.any fun i => match i with | .tileLand k y _ => k == core && y == eid | _ => false
  if more then t else (t.modCore core fun c => { c with bufs := c.bufs.filter (·.eid != eid) }).poke core

/-- TILE_LAND: a tile's transfer into the buffers of its entry. -/
def execTileLand (core eid tile : Nat) (s : State) : Host.Outcome State Fault Refusal :=
  .next (
    let c := s.core core
    if c.halted || c.staging then s.again (.tileLand core eid tile)
    else match c.bufs.find? (·.eid == eid) with
      | none => s
      | some b =>
        match s.entryRec b.entry with
        | none => s
        | some (l, r) =>
          let d := s.stageTile core l b.entry.launch r (bitsAt b.entry.closure.toNat (8 * (32 + 16 * tile)) 128)
          match d.fin with
          | none => d.st.again (.tileLand core eid tile)
          | some x =>
            match c.deque.find? fun e => e.eid == eid && e.staging with
            | some e => s.tileLanded core l e b tile d x
            | none => s.tileStolen core eid b d x)

end Sys2Proof.Machine
end

