-- ==== Sys2Proof/Machine/EvSave.lean ====
section
/-! DEFINITION. Saves and restores of groups, the pager, pre-emption, partition halts, the watchdog and debug
(16 R395-R405, 07 R191, 13 R341, 15 R386, R388). -/

namespace Sys2Proof.Machine

/-! ### The reset of a partition (16 R403) -/

/-- The cores of a partition's dies. -/
def Part.cores (p : Part) : List Nat := p.dies.flatMap fun d => (List.range 32).map (32 * d + ·)

/-- Commands of a core that have not completed end ABORT (05 R148). -/
def Core.abortCmds (c : Core) : Core :=
  { c.cmds.foldl (fun c k => c.setCtx k.ctx ((c.ctx k.ctx).complete k.n ESt.abort 0)) c with cmds := [] }

/-- The firmware's reset of a partition. -/
def State.resetPartition (s : State) (n : Nat) : State :=
  let p := s.part n
  let mine (g : Group) : Bool := (Store.find s.launches g.launch).elim false (·.part == n)
  let gone := (s.groups.filter fun e => mine e.2).map (·.1)
  -- the first unfinished core
  let first := (p.cores.find? fun k => !(s.residents k).isEmpty).getD ((p.cores.head?).getD 0)
  let t := { s with
    groups := s.groups.filter fun e => !mine e.2
    ops := s.ops.filter fun o => !gone.contains o.2.gid
    dies := s.dies.map fun (d : Nat × Die) =>
      (d.1, { d.2 with monitors := d.2.monitors.filter fun m => !gone.contains m.gid, faults := if p.dies.contains d.1 then [] else d.2.faults
                       roots := d.2.roots.filter fun r => (Store.find s.launches r.lid).elim true (·.part != n) }) }
  let t := p.cores.foldl (fun t k => t.modCore k fun c =>
    { c.abortCmds with deque := [], overflow := [], bufs := [], allow := [], areqs := [], await := [], halted := true }) t
  let t := p.dies.foldl (fun t d =>
    (((t.die d).xctxs.filter XCtx.isOpen).foldl (fun t x => t.xEarly d x (x.desc.map fun f => if x.stbyOnly then f.stby else f.arb) 5) t).modDie d
      fun k => { k with xposts := k.xposts.filter fun x => !p.cores.contains x.cmd.1 }) t
  let t := p.cores.foldl State.forfeitCore t
  let t := t.modPart n fun p =>
    { p with lost := true, halted := true, queues := p.queues.map fun (q : Nat × Queue) => (q.1, { q.2 with state := 2 }) }
  let open_ := t.launches.filter fun l => l.2.part == n && !l.2.done
  let t := open_.foldl (fun t l =>
    ({ t with launches := Store.put t.launches l.1 { l.2 with done := true, aborted := true } }).send
      (.packetComplete n l.2.queue l.2.num .aborted 0)) t
  t.event n 1 (dieOf first * 256 + first % 32) (p.dies.foldl (fun a d => a + 2 ^ d) 0)

/-! ### What may be saved (16 R398) -/

/-- A path does not hold its group back from being parked: it is free, or it waits (07 R179). -/
def Path.parkedNow (p : Path) : Bool := !p.live || (p.wait != .none && p.wait != .wake)

def Group.parked (g : Group) : Bool := g.pa.parkedNow && g.pb.parkedNow

/-- A path stands at its hint (16 R398). -/
def Path.hinted (p : Path) : Bool := !p.live || p.atHint

def Group.hinted (g : Group) : Bool := g.pa.hinted && g.pb.hinted

/-- A command writes the group's scratch or TOB: a CPYT.ld or a STAGE (14 R364). A CPYT.st, which reads them, runs on past the save
with what they held (assumption 123). -/
def Cmd.local_ (c : Cmd) : Bool :=
  match c.ins with
  | .cpyt store .. => !store
  | .stage .. => true
  | _ => false

/-- An ADEC that waits for its AGRANT: the status of one whose core halts comes to the save area (04 R126). -/
def OpRec.isAdec (o : OpRec) : Bool := o.ctrK != 0

/-- Whether a group has nothing in flight that its save waits for: counted operations that are not parked, lanes of parked ones on
their way, and commands that write its window or slots (09 R227, 14 R364, 16 R398). -/
def State.quiet (s : State) (gid : Nat) (halt : Bool) : Bool :=
  !(s.ops.any fun o => o.2.gid == gid && (!o.2.parked || o.2.out != 0) && !(halt && o.2.isAdec)) &&
    !((s.core (s.grp gid).core).cmds.any fun c => c.gid == gid && c.local_)

/-- Whether a group may be saved: it is quiet, and the release at .pkg that its save includes has been performed (03 Table 3.4). What
is missing is set in motion. -/
def State.saveReady (s : State) (gid : Nat) (halt : Bool) : State × Bool :=
  let (t, ok) := s.releaseAt gid false .pkg true
  (t, ok && s.quiet gid halt)

/-- The lowest free save record of a die (16 R400). -/
def State.freeRecord (s : State) (die : Nat) : Option Nat :=
  (List.range 16384).find? fun n => !(s.groups.any fun e => e.2.place == .saved die n)

/-- The vector and scalar registers that the hints of a group's live paths name (13 R341). -/
def Hint.keepsV (h : Hint) (k : Nat) : Bool :=
  (h.d.toNat ≤ k && k ≤ h.a.toNat) || (h.b.toNat ≤ k && k ≤ h.c.toNat)

def Group.hints (g : Group) : List Hint :=
  (if g.pa.live then g.pa.hint.toList else []) ++ (if g.pb.live then g.pb.hint.toList else [])

/-- Gongs that were on their way to a group's paths follow it to its new name. -/
def State.followGongs (s : State) (gid : Nat) : State :=
  [false, true].foldl (fun t b => if ((t.grp gid).path b).wait = .wake then t.gongPath gid b else t) s

/-- Whether a path of a saved group can run once it is restored. -/
def Path.canRun (p : Path) : Bool := p.live && (p.wait == .none || p.wait == .delay)

/-- The name of a group follows it to a save record and back: in the WHEAD that names it, in the links of the waiters behind it,
and in the regroup cell that records it (07 R184, R185, R191). -/
def State.rename (s : State) (gid old : Nat) : State :=
  let g := s.grp gid
  let new := bytesOf 2 g.wid
  [g.pa, g.pb].foldl (fun (t : State) p =>
    match if p.live then p.wait else .none with
    | .gong pa =>
      let relink (q : Path) : Path := if q.live && q.wait == .gong pa && q.link.toNat == old then { q with link := BitVec.ofNat 16 g.wid } else q
      let u : State := { t with groups := t.groups.map fun (e : Nat × Group) => (e.1, { e.2 with pa := relink e.2.pa, pb := relink e.2.pb }) }
      if u.readNat p.whead 2 = old then u.homeWrite p.whead new else u
    | .regroup pa => t.homeWrite (pa + 4) new
    | _ => t) s

/-- Writes a group's save record: all of it, or what its hints name, and frees its slot; the place of its entry in the deque stays
taken until its task ends (07 R186, 16 R400). -/
def State.saveGroup (s : State) (gid rec_ : Nat) (full halt : Bool) : State :=
  let s := s.snapCmds gid
  let g := s.grp gid
  let die := dieOf g.core
  let hs := g.hints
  let keepV (k : Nat) : Bool := full || hs.any fun h => h.keepsV k
  let keepS (k : Nat) : Bool := full || hs.any fun h => h.smask.getLsbD (k / 2)
  let scr := if full then g.scrSize else min g.scrSize ((hs.map fun h => 128 * h.scrx.toNat).foldl max 0)
  let tob := if full || hs.any (·.tobl) then 2048 * g.tobCnt else 0
  let t := s.modGrp gid fun g =>
    { g with
      place := .saved die rec_, saved := { s.localImage gid scr tob with halted := halt }, preempt := false, deadline := false
      vregs := g.vregs.filter fun e => keepV e.1
      sregs := g.sregs.filter fun e => keepS e.1 }
  let t := ((t.rename gid g.wid).followGongs gid).poke g.core
  if g.pa.canRun || g.pb.canRun then t.readySaved gid else t

/-- A save or a restore of a group whose write or read faults is unrecoverable: its partition is reset (16 R400, R403). -/
def State.recordLost (s : State) (gid : Nat) : State :=
  match s.launchOf (s.grp gid) with
  | some l => s.resetPartition l.part
  | none => s

/-- A group's save, whose write may fault (16 R400; assumption 136). -/
def State.trySave (s : State) (gid rec_ : Nat) (full halt : Bool) : State :=
  if Config.saveFails s.fresh then s.bump.recordLost gid else s.bump.saveGroup gid rec_ full halt

/-- Whether the hints do not bound a group's save: HFULL is set, or a live path does not stand at its hint (16 R398, R399). -/
def State.savesFull (s : State) (gid : Nat) : Bool :=
  (s.die (dieOf (s.grp gid).core)).prectl.getLsbD 32 || !(s.grp gid).hinted

/-! ### Restores (15 R386; 16 R398; 05 R147) -/

/-- Room for a group or entry on a core: slot, and the bases of its registers, window and TOB slots; a staged entry's
window is the one reserved for it. -/
def State.fit (s : State) (core v scr tob : Nat) (staged : Option Buf) : Option (Nat × Nat × Nat × Nat) :=
  let slot := (List.range 64).find? fun n => (s.inSlot core n).isNone
  let regs := firstFit 8 8192 v ((s.residents core).map fun e => (e.2.vbase, e.2.v))
  let win := match staged with
    | some b => some (b.scrBase, b.tobBase)
    | none => s.windowFit core scr tob
  match slot, regs, win with
  | some n, some r, some w => some (n, r, w.1, w.2)
  | _, _, _ => none

/-- A core may hold a kernel's work: its split is the kernel's, or it is empty and takes it (02 R48); a saved group's entry keeps its
deque from being empty (07 R186). -/
def State.takesBrr (s : State) (core : Nat) (brr : W64) : Bool :=
  let c := s.core core
  !c.halted && !c.failed && (c.brr == brr || ((s.residents core).isEmpty && c.deque.isEmpty && c.overflow.isEmpty))

/-- The cache bank that holds a frame of a set: each bank holds 16 sets (02 R49; assumption 25). -/
def Core.frameBank (c : Core) (va : Nat) : Nat := (banksOf c.brr 0).getD (c.l1set va / 16) 32

/-- An empty core takes a split (02 R48). Banks whose role changes are zeroed, lose their tags and drop the frames that they held; the
others keep what they hold, with the frames in the sets that they now belong to. A frame that finds its set full goes as at an eviction
(assumption 25). -/
def State.setBrr (s : State) (core : Nat) (brr : W64) : State :=
  let c := s.core core
  if c.brr = brr then s
  else
    let changed (b : Nat) : Bool := bitsAt c.brr.toNat (2 * b) 2 != bitsAt brr.toNat (2 * b) 2
    let goes (va : Nat) : Bool := changed (c.frameBank va)
    let k : Core := { c with
      brr := brr
      loc := c.loc.filter fun e => !changed (e.1 / 16384)
      ltags := c.ltags.filter fun g => !changed (g / 1024)
      lpoison := c.lpoison.filter fun g => !changed (g / 1024)
      lines := (c.lines.filter (·.pending)).map fun l => if goes l.va then { l with stale := true } else l
      allow := [] }
    let addLine (r : Core × List Instr) (l : Line) : Core × List Instr :=
      if !goes l.va && decide (r.1.framesUsed l.va < 8) then ({ r.1 with lines := r.1.lines ++ [l] }, r.2)
      else (r.1, if l.lease then r.2 ++ [.lret core l.pa l.data l.dirty l.tags] else r.2)
    let addEntry (r : Core × List Instr) (e : AEntry) : Core × List Instr :=
      if !goes e.va && decide (r.1.framesUsed e.va < 8) then ({ r.1 with allow := r.1.allow ++ [e] }, r.2)
      else (r.1, r.2 ++ [.aret core e.pa e.amount])
    let r := c.allow.foldl addEntry ((c.lines.filter fun l => !l.pending).foldl addLine (k, []))
    (s.setCore core r.1).sendAll r.2

/-- A context raised to the numbers that a restored group has been given: those skipped count as complete. -/
def Ctx.raise (x : Ctx) (n : Nat) : Ctx :=
  if n ≤ x.issue then x
  else
    let done := (List.range (n - x.issue)).map (x.issue + 1 + ·) ++ x.doneSet
    let tl := advanceTl done.length x.tl done
    { x with issue := n, tl := tl, doneSet := done.filter (tl < ·) }

/-- A TWAIT of a restored group waits on its new core's context. -/
def State.moveTwait (core gid : Nat) (s : State) (b : Bool) : State :=
  match ((s.grp gid).path b).wait with
  | .twait _ ctx n bytes =>
    let t := s.modPath gid b fun p => { p with wait := .twait core ctx n bytes }
    if n ≤ ((t.core core).ctx ctx).tl then t.twaitEnd gid b core ctx n bytes else t
  | .delay => s.send (.pollDelayEnd ⟨core, (s.grp gid).slot, b⟩)
  | _ => s

/-- The place of a restored group's entry: the core that holds it keeps it, and another takes it over (07 R186, R187); none where that
core's deque and overflow area are full. -/
def State.takeEntry (s : State) (core : Nat) (g : Group) : Option State :=
  if (s.core core).deque.any (·.eid == g.eid) then some s
  else
    let old := s.entryCore g
    let t := (s.modCore old fun c => { c with deque := c.deque.filter (·.eid != g.eid) }).poke old
    ((t.core core).pushHot ⟨g.eid, g.launch, g.closure, g.ctags, .running, false, []⟩).map fun c => t.setCore core c

/-- Puts a saved group into a slot of a core, whose restore is an acquire at .pkg (03 Table 3.4). What its save left out reads as 0. A
context that is raised ends the TWAITs of every group that it passes (05 R131, R147). -/
def State.restoreGroup (s : State) (gid core slot vbase scrBase tobBase : Nat) : State :=
  let sv := (s.grp gid).saved
  let old := (s.grp gid).wid
  let t := s.modGrp gid fun g =>
    { g with place := .res core slot, vbase := vbase, scrBase := scrBase, tobBase := tobBase, saved := {} }
  let g := t.grp gid
  let t := t.scrWrite gid 0 ((List.range g.scrSize).map fun i => Store.get 0 sv.scr i)
  let t := sv.tags.foldl (fun t i => t.scrSetTag gid (16 * i)) t
  let t := t.tobWrite gid 0 ((List.range (2048 * g.tobCnt)).map fun i => Store.get 0 sv.tob i)
  let t := t.modCore core fun c => { g.nums.foldl (fun c n => c.setCtx n.1 ((c.ctx n.1).raise n.2)) c with fed := t.clock }
  let t := ((t.rename gid old).acquireFor gid .pkg).followGongs gid
  let t := [false, true].foldl (State.moveTwait core gid) t
  g.nums.foldl (fun t n => t.allPaths.foldl (State.wakeTwait core n.1 ((t.core core).ctx n.1).tl) t) t

/-- Whether every command of a group has completed (05 R147). -/
def State.cmdsDone (s : State) (gid : Nat) : Bool := !(s.cores.any fun c => c.2.cmds.any (·.gid == gid))

/-- Whether the early tasks of a launch hold its share of a core's slots (07 R192). A launch that gives no share bounds no task
(assumption 132). -/
def State.shareHeld (s : State) (core lid : Nat) : Bool :=
  match Store.find s.launches lid with
  | some l => decide (0 < l.es) && decide (l.es ≤ ((s.residents core).filter fun g => g.2.early && g.2.launch == lid).length)
  | none => false

/-- Restores a readied group on a core, if it fits there; the read of its record may fault (16 R400; assumption 136). -/
def State.tryRestore (s : State) (core gid : Nat) : Option State :=
  let g := s.grp gid
  let brr := match s.launchOf g with | some l => l.brr | none => (s.core core).brr
  if s.takesBrr core brr && s.cmdsDone gid && !g.saved.halted && !(g.early && s.shareHeld core g.launch) then
    -- an empty core takes the group's split first
    ((s.setBrr core brr).takeEntry core g).bind fun t =>
      (t.fit core g.v g.scrSize (2048 * g.tobCnt) none).map fun r =>
        if Config.saveFails t.fresh then t.bump.recordLost gid else t.bump.restoreGroup gid core r.1 r.2.1 r.2.2.1 r.2.2.2
  else none

/-- The readied groups of a die's save pool, in the order in which they were readied. -/
def State.readied (s : State) (die : Nat) : List Nat :=
  let l := s.groups.filterMap fun e => match e.2.place, e.2.saved.ready with
    | .saved d _, some t => if d = die then some (t, e.1) else none
    | _, _ => none
  (l.foldl (fun a x => insertKey x a) []).map (·.2)

/-- The group that a core whose resident groups are all parked gives up: the one parked longest (15 R388). -/
def State.longestParked (s : State) (core : Nat) : Option Nat :=
  let rs := s.residents core
  if rs.isEmpty || !(rs.all fun e => e.2.parked && e.2.ending.isNone) then none
  else
    let since (g : Group) : Nat := max (if g.pa.live then g.pa.parkedAt else 0) (if g.pb.live then g.pb.parkedAt else 0)
    (rs.foldl (fun a e => insertKey (since e.2, e.1) a) []).head?.map (·.2)

/-- Swaps out the group parked longest, and says whether it has gone: not before nothing of it is in flight, and not while no record is
free (16 R398, R400). -/
def State.swapOne (s : State) (core : Nat) : State × Bool :=
  match s.longestParked core with
  | none => (s, false)
  | some gid =>
    match s.freeRecord (dieOf core) with
    | none => (s, false)
    | some r =>
      let (t, ok) := s.saveReady gid false
      if ok then (t.trySave gid r (t.savesFull gid) false, true) else (t, false)

/-- GROUP_RESTORE: the first readied group that fits goes back on a core; where none fits and every resident group is
parked, one is swapped out. A request that finds no room passes to the next core of the die. -/
def execGroupRestore (core die rec_ : Nat) (s : State) : Host.Outcome State Fault Refusal :=
  .next (match Store.findKey? s.groups fun g => g.place == .saved die rec_ with
    | none => s
    | some gid =>
      if (s.grp gid).saved.ready.isNone then s
      else match (s.readied die).findSome? fun k => (s.tryRestore core k).map fun t => (k, t) with
        | some (k, t) => if k = gid then t else t.again (.groupRestore core die rec_)
        | none =>
          let (t, ok) := s.swapOne core
          t.again (.groupRestore (if ok then core else 32 * die + (core + 1) % 32) die rec_))

/-- Whether an early entry stays READY: the early tasks of its launch hold the launch's share of the core (07 R192). -/
def State.earlyFull (s : State) (core : Nat) (e : Entry) : Bool := e.closure.getLsbD 18 && s.shareHeld core e.launch

/-- The entry at the head of dispatch: the hot-most READY entry of the most urgent class (07 R187), past early ones whose launch holds
its share (07 R192, R193). -/
def State.nextReady (s : State) (core : Nat) : Option Entry :=
  (List.range 4).findSome? fun p => (s.core core).deque.find? fun e =>
    e.st == .ready && bitsAt e.closure.toNat 19 2 == p && !s.earlyFull core e

/-- Whether an entry fits on a core now. -/
def State.entryFits (s : State) (core : Nat) (e : Entry) : Bool :=
  match s.entryRec e with
  | none => false
  | some (_, r) => (s.fit core r.regs r.scr r.tob ((s.core core).bufs.find? (·.eid == e.eid))).isSome

/-- SWAP_OUT (15 R388): a core on which every group is parked, and for which work waits, gives one up; one that cannot go yet is tried
again (07 R193, 16 R400). -/
def execSwapOut (core : Nat) (s : State) : Host.Outcome State Fault Refusal :=
  .next (
    let waits := !(s.readied (dieOf core)).isEmpty || match s.nextReady core with
      | some e => !s.entryFits core e
      | none => false
    if waits && !(s.core core).halted && (s.longestParked core).isSome then
      let (t, ok) := s.swapOne core
      if ok then t else t.later
    else s)

/-! ### Fault records and the pager (16 R395-R397) -/

/-- Whether a die's pager ring is full (16 R396). -/
def Die.pagerFull (d : Die) : Bool :=
  (d.fseq + 2 ^ 64 - d.pgack.toNat - 1) % 2 ^ 64 == 2 ^ (bitsAt d.pgbase.toNat 0 4 + 4)

/-- The path that waits for its fault record to be written. -/
def State.heldPath (s : State) (f : FaultRec) : Option (Nat × Bool) := (s.waitersOn (.faultHeld f)).head?

/-- FAULT_RECORD: a record goes to the die's ring. On a full ring one of a group waits, any other is dropped. A die that
has lost its pager delivers the fault to the handler. -/
def execFaultRecord (die : Nat) (f : FaultRec) (s : State) : Host.Outcome State Fault Refusal :=
  .next (
    let d := s.die die
    let who := s.heldPath f
    if d.pgbase = 0 then
      match who with
      | some (gid, b) => (s.ready gid b).trapOn gid b f.cause (BitVec.ofNat 64 f.va) (((s.grp gid).path b).replay.getD 0)
      | none => s
    else if d.pagerFull then
      if f.orig = 0 then s.again (.faultRecord die f) else s.setDie die { d with pglost := d.pglost + 1 }
    else
      let base := bitsAt d.pgbase.toNat 12 40 * 4096
      let log := bitsAt d.pgbase.toNat 0 4 + 4
      -- the group's name as it stands, or as it stood when its task ended (13 R332)
      let wid := match who with
        | some (gid, _) => (s.grp gid).wid
        | none => if f.orig = 0 then (f.wid.map Waiter.wid).getD 0xFFFF else 0xFFFF
      let t := (s.homeWriteNow (base + d.fseq % 2 ^ log * 32) (FaultRec.bytes f d.fseq wid)).modDie die fun d =>
        { d with fseq := d.fseq + 1, faults := if who.isSome then d.faults ++ [(d.fseq, f)] else d.faults }
      match who with
      | some (gid, b) => t.modPath gid b fun p => { p with wait := .fault die d.fseq }
      | none => t)

/-- PGACK (16 R396). -/
def execPgack (die : Nat) (v : W64) (s : State) : Host.Outcome State Fault Refusal :=
  .next (s.modDie die fun d => { d with pgack := v })

/-- A record of a range-hint table (01 Table 1.7). -/
structure RangeHint where
  base : Nat
  len  : Nat
  home : Nat
  mu   : Bool
  keep : List Nat
  deriving DecidableEq, Repr

/-- A processor identifier with its reserved bits 0, and for the host its die field too (01 R41). -/
def hintIdOk (x : Nat) : Bool := x / 512 % 8 == 0 && (!x.testBit 15 || x / 4096 % 8 == 0)

/-- A valid record with VAL set; none otherwise (01 R40). -/
def RangeHint.parse (n : Nat) : Option RangeHint :=
  let h : RangeHint := ⟨bitsAt n 0 64, bitsAt n 64 64, bitsAt n 128 16, n.testBit 145, (List.range (bitsAt n 146 4)).map fun i => bitsAt n (160 + 16 * i) 16⟩
  if h.base % 0x8000 = 0 ∧ h.len ≠ 0 ∧ h.len % 0x8000 = 0 ∧ h.keep.length ≤ 8 ∧ bitsAt n 150 10 = 0 ∧ n / 2 ^ 288 = 0 ∧ n.testBit 144 ∧
      hintIdOk h.home ∧ h.keep.all hintIdOk then some h
  else none

/-- Record `i` of an address space's table, if it is valid and covers an address. That nonzero low bits of RHTB are masked off, and that
the table of an invalid context is still used, are the model's choices (01 R34; assumption 130). -/
def State.hintAt (s : State) (c : AsCtx) (va i : Nat) : Option RangeHint :=
  if i < c.rhtn then
    (RangeHint.parse (s.readNat (c.rhtb.toNat / 64 * 64 + 64 * i) 64)).filter fun h => decide (h.base ≤ va) && decide (va < h.base + h.len)
  else none

/-- The hint that applies to a fault (01 R42). -/
def State.hintFor (s : State) (asid va : Nat) : Option RangeHint :=
  match s.asctx asid with
  | none => none
  | some c =>
    let own := match s.walk asid va with
      | .ok w => if bitsAt w.2.2 68 16 = 0xFFFF then none else s.hintAt c va (bitsAt w.2.2 68 16)
      | .error _ => none
    match own with
    | some h => some h
    | none => (List.range (min c.rhtn 4096)).findSome? (s.hintAt c va)

/-- Whether a frame lies in the memory that a processor identifier names (01 R41). -/
def inMemory (home frame : Nat) : Bool :=
  if home.testBit 15 then mtOf (localOf frame) == some 2
  else pkgOf frame == home % 512 && mtOf (localOf frame) == some 0 && homeDie frame == home / 4096 % 8

/-! ### Placing a page (01 R38, R43, R44) -/

/-- The pager's entries, written at their homes. -/
def State.placeWrites (s : State) (p : Placement) : State := p.writes.foldl (fun t w => t.homeWriteNow w.1 (bytesOf 16 w.2.toNat)) s

/-- The leaf that a placement gives the page of a fault: its level, and the entry before and after, which a move leaves unmapped but
for its V bit. -/
def State.placedLeaf (s : State) (f : FaultRec) (p : Placement) : Option (Nat × Pte × Pte) :=
  match (s.placeWrites p).walk f.asid f.va with
  | .ok (lvl, at_, n) => some (lvl, Pte.ofNat (s.readNat at_ 16), Pte.ofNat n)
  | .error _ => none

/-- Whether a placement copies its page: the entry has named another frame of the same owner, and the new one is not to be zeroed. -/
def pageMoves (old new : Pte) : Bool := old.leaf && old.own == new.own && old.pa != new.pa && !new.zp

/-- Whether an entry write obeys 01 R44 and R45: a frame that an entry newly maps, or that changes its owner, is zero pending, and what is
zero pending stays so. -/
def zeroed (old new : Pte) : Bool := !new.v || !new.leaf || (if old.leaf && old.pa == new.pa && old.own == new.own then new.zp || !old.zp else new.zp)

/-- Whether a hint of the address space names this package among those that keep an address mapped (01 R43). -/
def State.kept (s : State) (asid va : Nat) : Bool :=
  match s.asctx asid with
  | some c => (List.range (min c.rhtn 4096)).any fun i => match s.hintAt c va i with
    | some h => h.keep.any fun x => !x.testBit 15 && x % 512 == s.pkg
    | none => false
  | none => false

/-- Whether a write leaves mapped the pages that a KEEP names: it is unmapped only during a move, which this placement is not (01 R43). -/
def State.keepsMapped (s : State) (w : Nat × W128) : Bool :=
  (Pte.ofNat w.2.toNat).v || s.dies.all fun d => d.2.tcache.all fun e => e.pteAt != w.1 || !s.kept e.asid e.va

/-- Whether an address of an address space may still be translated as it was: it is cached somewhere, or its shootdown runs. -/
def State.stillMapped (s : State) (asid va : Nat) : Bool :=
  s.dies.any (fun d => (d.2.cached asid va).isSome) || s.shoots.any fun k => k.asid == asid && decide (k.lo ≤ va) && decide (va < k.hi)

/-- Whether the leaf of a placement fits the fault and its hint (01 R43): a page goes to its home memory or is recorded as displaced, for
want of a free frame there, as the pager says; it moves only once it is unmapped and shot down (01 R38); and a replica, which answers a
read of a mostly unwritten range by another processor, is a copy without W that is else like the page that it copies. -/
def State.leafOk (s : State) (f : FaultRec) (write : Bool) (p : Placement) (old new : Pte) : Bool :=
  new.pa == p.frame && (if p.replica then pageMoves old new && !new.w && new.ord == old.ord && new.tags == old.tags
      else !pageMoves old new || (!old.v && !s.stillMapped f.asid f.va)) &&
    match s.hintFor f.asid f.va with
    | none => !p.replica
    | some h =>
      if p.replica then !write && h.mu && (h.home.testBit 15 || h.home % 512 != s.pkg) && pkgOf p.frame == s.pkg && mtOf (localOf p.frame) == some 0
      else p.displaced || inMemory h.home p.frame

/-- A write fault under a hint waits until its page has no replica (01 R43). -/
def State.replicaHolds (s : State) (f : FaultRec) : Bool :=
  (f.acc == 1 || f.acc == 2 || f.acc == 4 || f.acc == 6) && s.replicas.contains (f.asid, f.va / 0x8000 * 0x8000)

/-- Whether a placement obeys 01 R43 and R44. -/
def State.placementOk (s : State) (f : FaultRec) (p : Placement) : Bool :=
  let write := f.acc == 1 || f.acc == 2 || f.acc == 4 || f.acc == 6
  match s.placedLeaf f p with
  | none => false
  | some (_, old, new) =>
    s.leafOk f write p old new && p.writes.all fun w =>
      let o := Pte.ofNat (s.readNat w.1 16)
      let n := Pte.ofNat w.2.toNat
      s.keepsMapped w && (zeroed o n || (n == new && o == old && pageMoves old new))

/-- Copies `n` bytes with their tags to a frame, which holds nothing else then (01 R19, R38). -/
def State.copyFrame (s : State) (src dst n : Nat) : State :=
  let inside (a : Nat) : Bool := decide (src ≤ a) && decide (a < src + n)
  let t := s.zeroRange dst n
  let t := (s.mem.filter fun e => inside e.1).foldl (fun (t : State) e => t.writeByte (dst + (e.1 - src)) e.2) t
  { t with tags := ((s.tags.filter fun g => inside (16 * g)).map fun g => g + dst / 16 - src / 16).foldl insertNat t.tags }

/-- The pager's entries are written, a page that moves is copied, and its monitors gong (12 R322); and what the pager keeps in mind of
the page. -/
def State.placePage (s : State) (f : FaultRec) (p : Placement) : State :=
  let page := (f.asid, f.va / 0x8000 * 0x8000)
  let t := match s.placedLeaf f p with
    | some (lvl, old, new) =>
      if pageMoves old new then (s.copyFrame old.pa new.pa (2 ^ (15 + 10 * lvl))).dropMonitors allDies f.asid page.2 (page.2 + 0x8000) else s
    | none => s
  let t := t.placeWrites p
  { t with
    displaced := if p.displaced then page :: t.displaced.filter (· != page) else t.displaced.filter (· != page)
    replicas := if p.replica then page :: t.replicas else t.replicas }

/-- PAGER_SETTLE (16 R397): DONE readies the path, LONG makes it wait on a pager-owned future and swaps its group out once
it is parked, FAIL delivers the trap. The fill of a long fault's future arrives as DONE, its cancelling as FAIL. -/
def execPagerSettle (die fseq : Nat) (r : Settle) (s : State) : Host.Outcome State Fault Refusal :=
  .next (
    let ws := s.waitersOn (.fault die fseq) ++ s.waitersOn (.pager die fseq)
    match ws.head?, ((s.die die).faults.find? (·.1 == fseq)).map (·.2) with
    | some (gid, b), some f =>
      let settled (t : State) : State := t.modDie die fun d => { d with faults := d.faults.filter (·.1 != fseq) }
      match r with
      | .done none => if s.replicaHolds f then s else (settled s).ready gid b
      | .done (some p) => if s.replicaHolds f || !s.placementOk f p then s else ((settled s).placePage f p).ready gid b
      | .long =>
        let t := s.modPath gid b fun p => { p with wait := .pager die fseq }
        match (t.grp gid).place with
        | .res c n => t.send (.groupSave ⟨c, n⟩)
        | .saved _ _ => t
      | .fail => ((settled s).ready gid b).trapOn gid b f.cause (BitVec.ofNat 64 f.va) (((s.grp gid).path b).replay.getD 0)
    | _, _ => s)

/-! ### Pre-emption and restart (16 R398, R401) -/

/-- A restartable group's attempt is abandoned: its entry goes back at the hot end (16 R401). -/
def State.restartGroup (s : State) (gid : Nat) : State :=
  let g := s.grp gid
  let e := unstaged ⟨g.eid, g.launch, g.closure, g.ctags, .ready, false, []⟩
  let t := { s with
    groups := Store.del s.groups gid
    ops := s.ops.filter fun o => o.2.gid != gid
    dies := s.dies.map fun (d : Nat × Die) => (d.1, { d.2 with monitors := d.2.monitors.filter fun m => m.gid != gid }) }
  let c := t.core g.core
  let c := { c with deque := c.deque.filter (·.eid != g.eid) }
  (t.setCore g.core ((c.pushHot e).getD { c with deque := e :: c.deque })).poke g.core

/-- PREEMPT_REQUEST (16 R398): ready paths run to their hints; with PDL = 0 the group stops at once. -/
def execPreemptRequest (g : GrpId) (s : State) : Host.Outcome State Fault Refusal :=
  .next (match s.inSlot g.core g.slot with
    | none => s
    | some gid =>
      if (s.grp gid).preempt then s
      else
        let now := bitsAt (s.die (dieOf g.core)).prectl.toNat 0 32 == 0
        (s.modGrp gid fun x => { x with preempt := true, deadline := now }).send (.groupSave g))

/-- PREEMPT_DEADLINE: the group stops where it stands. -/
def execPreemptDeadline (g : GrpId) (s : State) : Host.Outcome State Fault Refusal :=
  .next (match s.inSlot g.core g.slot with
    | none => s
    | some gid => if (s.grp gid).preempt then s.modGrp gid fun x => { x with deadline := true } else s)

/-! ### Halts (16 R402) -/

/-- Whether everything of a halted partition has come to rest: no group resident, and nothing of its cores in flight but commands of
the exchange, which run on, and commands that have stopped at the end of a unit (05 R148, 06 R168). -/
def State.atRest (s : State) (p : Part) : Bool :=
  p.cores.all fun k =>
    let c := s.core k
    (s.residents k).isEmpty && c.areqs.isEmpty && c.lwaits.isEmpty && c.lines.all (fun l => !l.pending && !l.lease) &&
      c.cmds.all (fun x => x.isX || x.moving) && c.allow.isEmpty

/-- What the cores of a halted partition hold moves to shadow SRAM and the context area; the exchange keeps its commands. -/
def State.finishHalt (s : State) (n : Nat) : State :=
  let p := s.part n
  if p.halted && !p.swapped && s.atRest p then
    let mine (k : Nat) : Bool := p.dies.contains (dieOf k)
    let mons := (s.dies.filter fun d => p.dies.contains d.1).flatMap fun d => d.2.monitors.map fun m => (d.1, m)
    let t := s.setPart n { p with
      swapped := true
      area := (s.cores.filter fun e => mine e.1).map fun e => (e.1, { e.2 with lines := [], cmds := e.2.cmds.filter fun c => !c.isX })
      areaMon := mons }
    { t with
      cores := t.cores.map fun (e : Nat × Core) =>
        if mine e.1 then (e.1, ({ cycle := e.2.cycle, failed := e.2.failed, halted := true, cmds := e.2.cmds.filter Cmd.isX } : Core)) else e
      dies := t.dies.map fun (d : Nat × Die) => if p.dies.contains d.1 then (d.1, { d.2 with monitors := [] }) else d }
  else s

/-- GROUP_SAVE: a group that is pre-empted, whose partition is halted or whose pager wait is long is saved or restarted
once nothing of it is in flight (16 R398, R400-R402). -/
def execGroupSave (g : GrpId) (s : State) : Host.Outcome State Fault Refusal :=
  .next (match s.inSlot g.core g.slot with
    | none => s
    | some gid =>
      let x := s.grp gid
      let halt := (s.core g.core).halted
      let long := (match x.pa.wait with | .pager _ _ => x.pa.live | _ => false) ||
        match x.pb.wait with | .pager _ _ => x.pb.live | _ => false
      let again := s.again (.groupSave g)
      let part := (Store.find s.launches x.launch).elim 8 (·.part)
      let save (full : Bool) : State :=
        match s.freeRecord (dieOf g.core) with
        | none => again
        | some r =>
          let (t, ok) := s.saveReady gid halt
          if ok then (t.trySave gid r full halt).finishHalt part else t.again (.groupSave g)
      if x.ending.isSome then s
      else if halt || x.preempt then
        if x.restart then
          if s.drained gid && s.cmdsDone gid then (s.restartGroup gid).finishHalt part else again
        else if halt then save (s.savesFull gid)
        else if x.deadline then save true
        else if x.pa.hinted && x.pb.hinted then save (s.savesFull gid)
        else if (x.pa.hinted || x.pa.parkedNow) && (x.pb.hinted || x.pb.parkedNow) then save true
        else again
      else if long then if x.parked then save (s.savesFull gid) else again
      else s)

/-- PARTITION_HALT: the front end and the cores stop, groups are saved or restarted, allowances and leases go home. -/
def execPartitionHalt (n : Nat) (s : State) : Host.Outcome State Fault Refusal :=
  .next (
    let p := s.part n
    if p.halted then s
    else
      let t := s.setPart n { p with halted := true }
      let t := (t.plat.toSpare.filter fun e => p.dies.contains e.1.die).foldl (fun t e => t.spare e.1 e.2) t
      let t := p.cores.foldl (fun t k => t.modCore k fun c => { c with halted := true }) t
      let t := p.cores.foldl (fun t k =>
        let c := t.core k
        ((t.returnLeases k).modCore k fun c => { c with allow := [] }).sendAll (c.allow.map fun e => .aret k e.pa e.amount)) t
      let saves := t.groups.filterMap fun e => match e.2.place with
        | .res k m => if p.dies.contains (dieOf k) then some (Instr.groupSave ⟨k, m⟩) else none
        | .saved _ _ => none
      (t.sendAll saves).finishHalt n)

/-- PARTITION_SWAP_IN: the steps of a halt in reverse. -/
def execPartitionSwapIn (n : Nat) (s : State) : Host.Outcome State Fault Refusal :=
  .next (
    let p := s.part n
    let free := p.dies.all fun d => s.groups.all fun e => match e.2.place with | .res k _ => dieOf k != d | .saved _ _ => true
    let t := s.finishHalt n
    let p := if (t.part n).swapped then t.part n else p
    if !p.swapped || p.lost || !free then t
    else
      let t := t.setPart n { p with halted := false, swapped := false, area := [], areaMon := [] }
      let t := p.cores.foldl (fun t k =>
        let c := t.core k
        let a := Store.get {} p.area k
        t.setCore k { a with halted := false, fed := t.clock, cycle := c.cycle, failed := c.failed, cmds := a.cmds ++ c.cmds }) t
      let t := p.areaMon.foldl (fun t e => t.modDie e.1 fun d => { d with monitors := d.monitors ++ [e.2] }) t
      let mine := t.groups.filter fun e => e.2.saved.halted && (Store.find t.launches e.2.launch).elim false (·.part == n)
      let t := mine.foldl (fun t e =>
        let u := t.modGrp e.1 fun g => { g with saved := { g.saved with halted := false, ready := none } }
        u.readySaved e.1) t
      p.cores.foldl (fun t k => t.poke k) t)

/-! ### The watchdog (16 R403) -/

/-- Whether a save, halt or swap is under way on a partition. -/
def State.savesUnderway (s : State) (n : Nat) : Bool :=
  let p := s.part n
  (p.halted && !p.swapped) || s.agenda.any fun i => match i with
    | .groupSave g => p.dies.contains (dieOf g.core)
    | _ => false

/-- WATCHDOG_EXPIRY: WLIM ticks have passed since a save, halt or swap began on a die whose watchdog is enabled. -/
def execWatchdogExpiry (n : Nat) (s : State) : Host.Outcome State Fault Refusal :=
  .next (if s.savesUnderway n && ((s.part n).dies.any fun d => (s.die d).wdctl.getLsbD 32) && !(s.part n).lost then
      s.resetPartition n
    else s)

/-- EVACK (20 R430). -/
def execEvack (n : Nat) (v : W64) (s : State) : Host.Outcome State Fault Refusal :=
  .next (s.modPart n fun p => { p with evack := v })

/-! ### Regroup time-outs (07 R191) -/

/-- REGRP_TIMEOUT: a group recorded for 65,536 cycles goes on alone. -/
def execRegrpTimeout (pa : Nat) (s : State) : Host.Outcome State Fault Refusal :=
  .next (if (s.recorded pa).isSome then s.regrpRelease pa else s)

/-! ### Debug (16 R404, R405) -/

/-- Whether a path stands in debug halt. -/
def Path.debugHalted (p : Path) : Bool := p.live && (p.wait == .debug || (p.wait == .none && p.steps == some 0))

/-- What firmware writes of a halted group (16 R404). No tag is set with E above 33 (01 R10). The writes are not the group's own, and the undo log has none of them. -/
def State.debugWrite (s : State) (gid : Nat) (b : Bool) : DebugAct → State
  | .mark => s
  | .step => s
  | .sreg r v => s.modGrp gid fun g => g.setS r v
  | .vreg r m v => s.modGrp gid fun g => g.setV r m (mkLanes fun l => v.getD l 0)
  | .creg r v => s.modGrp gid fun g => g.setC r { v with tag := v.tag && decide (v.e ≤ 33) }
  | .kreg r v => s.modGrp gid fun g => g.setK r v
  | .special r v => s.modGrp gid fun g => (g.writeSr r v).getD g
  | .pc a => s.modPath gid b fun p => { p with pc := a, left := 0 }
  | .mask m => s.modPath gid b fun p => { p with mask := m }
  | .scratch off bs => if off + bs.length ≤ (s.grp gid).scrSize then s.scrWrite gid off bs else s
  | .tob off bs => if off + bs.length ≤ 2048 * (s.grp gid).tobCnt then s.tobWrite gid off bs else s

/-- DEBUG_STEP: firmware sets the debug bit of a group; or the path of a halted group may issue one instruction; or a part
of its saved state is written. -/
def execDebugStep (p : PathId) (what : DebugAct) (s : State) : Host.Outcome State Fault Refusal :=
  .next (match s.inSlot p.core p.slot with
    | none => s
    | some gid =>
      if what = .mark then s.modGrp gid fun g => { g with debug := true }
      else if (s.grp gid).debug && ((s.grp gid).path p.b).debugHalted then
        if what = .step then s.modPath gid p.b fun x => { x with wait := .none, steps := some 1 }
        else s.debugWrite gid p.b what
      else s)

/-- Puts back what an undo entry holds. -/
def State.undoOne (gid : Nat) (s : State) (u : Undo) : State :=
  if u.mem then if u.addr < 2 ^ 57 then s.homeWriteNow u.addr u.old else s.scrWrite gid (u.addr - 2 ^ 57) u.old
  else s.modGrp gid fun g =>
    if u.addr < 64 then g.setS (BitVec.ofNat 6 u.addr) (BitVec.ofNat 64 (natOf u.old))
    else if u.addr < 512 then
      g.setV (BitVec.ofNat 8 (u.addr - 256)) u.lanes (mkLanes fun l => BitVec.ofNat 32 (natOf ((u.old.drop (4 * l)).take 4)))
    else if u.addr < 528 then
      g.setC (BitVec.ofNat 4 (u.addr - 512)) ⟨BitVec.ofNat 128 (natOf (u.old.take 16)), u.old.getD 16 0 != 0⟩
    else g.setK (BitVec.ofNat 3 (u.addr - 528)) (BitVec.ofNat 32 (natOf u.old))

/-- DEBUG_STEP_BACK: the writes of the last instruction are put back, newest first, and the path stands at it. -/
def execDebugStepBack (p : PathId) (s : State) : Host.Outcome State Fault Refusal :=
  .next (match s.inSlot p.core p.slot with
    | none => s
    | some gid =>
      let g := s.grp gid
      match g.undo with
      | [] => s
      | u :: _ =>
        if g.debug && (g.path p.b).debugHalted then
          let mine := g.undo.takeWhile (·.ia == u.ia)
          let t := mine.foldl (State.undoOne gid) s
          (t.modGrp gid fun g => { g with undo := g.undo.drop mine.length }).modPath gid p.b fun x => { x with pc := u.ia, left := 0 }
        else s)

end Sys2Proof.Machine
end

