-- ==== Sys2Proof/Machine/EvDeque.lean ====
section
/-! DEFINITION. Dispatch, the return of entries from the overflow area, and stealing (07 R174, R186-R190, R192; 15 R384,
R386). -/

namespace Sys2Proof.Machine

/-! ### Dispatch (07 R174, R187; 15 R386) -/

/-- A closure word, and a closure granule with its tag. -/
def entryWord (e : Entry) (i : Nat) : W64 := e.closure.extractLsb' (64 * i) 64

def entryGranule (e : Entry) (i : Nat) : Cap := ⟨e.closure.extractLsb' (128 * i) 128, e.ctags.getLsbD i⟩

/-- The group that an entry starts as (07 R174). -/
def entryGroup (e : Entry) (l : Launch) (r : EntryRec) (core slot vbase scr tob born : Nat) : Group :=
  let h := e.closure.toNat
  { Group.blank with
    place := .res core slot, launch := e.launch, entry := bitsAt h 0 16, asid := l.asid, v := r.regs, s := r.scal
    vbase := vbase, scrBase := scr, scrSize := roundUp r.scr 128, tobBase := tob, tobCnt := roundUp r.tob 2048 / 2048
    pri := bitsAt h 19 2, born := born, eid := e.eid, closure := e.closure, ctags := e.ctags, early := h.testBit 18
    restart := h.testBit 17, debug := r.flags.testBit 2
    sregs := (List.range 16).map fun i => (i, entryWord e i)
    cregs := (List.range 8).map fun i => (i, if (entryGranule e i).tag then entryGranule e i else Cap.null)
    fut := entryGranule e 1
    pa := { live := true, pc := BitVec.ofNat 57 (l.code.cursor + r.off), mask := 0xFFFFFFFF } }

/-- Whether an entry's future is filled already; one that cannot be read counts as EMPTY, and what keeps it out of reach is told
(07 R187, 13 R332). -/
def State.futureGone (s : State) (core : Nat) (l : Launch) (e : Entry) : State × Bool × Option TFault :=
  let f := entryGranule e 1
  if !f.tag then (s, false, none)
  else match s.futCell (dieOf core) l.asid f with
    | (t, .ok pa) => (t, (t.fut pa).st != futEmpty, none)
    | (t, .error x) => (t, false, some x)

/-- An entry becomes a group in a free slot: its buffers become its window, whose tags are cleared (02 R51). Its first instruction is an
acquire of what its parent did on the core (03 Table 3.4). -/
def State.startEntry (s : State) (core : Nat) (e : Entry) (l : Launch) (r : EntryRec) (at_ : Nat × Nat × Nat × Nat) : State :=
  let g := entryGroup e l r core at_.1 at_.2.1 at_.2.2.1 at_.2.2.2 s.fresh
  let t : State := { s with groups := Store.put s.groups s.fresh g, fresh := s.fresh + 1 }
  (t.modCore core fun c =>
    let c := c.clearTags (localAddrs c.brr 1 g.scrBase 0 g.scrSize)
    { c with
      fed := t.clock
      bufs := c.bufs.filter (·.eid != e.eid)
      deque := c.deque.map fun x => if x.eid = e.eid then { x with st := .running, staging := false } else x }).inherit s.fresh

/-- The record of a future that a dispatch could not read, with the name of the group that starts (13 R332). -/
def State.futureRecord (s : State) (core slot asid : Nat) (e : Entry) (x : Option TFault) : State :=
  match x with
  | none => s
  | some t => s.send (.faultRecord (dieOf core) ⟨asid, some (.res ⟨core, slot, false⟩), t.code, t.kind, 2, 0, 0, (entryGranule e 1).cursor⟩)

/-- DISPATCH: readied groups of the die come first; then the entry at the head of dispatch, if it fits. When it does not and every
resident group is parked, one is swapped out (15 R386, R388). -/
def execDispatch (core : Nat) (s : State) : Host.Outcome State Fault Refusal :=
  .next (
    let c := s.core core
    if c.halted || c.failed then s
    else match (s.readied (dieOf core)).findSome? fun k => s.tryRestore core k with
    | some t => t.poke core
    | none =>
      match s.nextReady core with
      | none => if c.deque.any (·.st == .ready) then s.again (.dispatch core) else s
      | some e =>
        match s.entryRec e with
        | none => s
        | some (l, r) =>
          let (t, gone, bad) := s.futureGone core l e
          if gone then ((t.modCore core fun c => c.dropEntry e.eid).taskGone e.launch).poke core
          else match t.fit core r.regs r.scr r.tob (c.bufs.find? (·.eid == e.eid)) with
            | some at_ => ((t.startEntry core e l r at_).futureRecord core at_.1 l.asid e bad).poke core
            | none => (t.swapOne core).1.again (.dispatch core))

/-- DEQUE_REFILL: entries return at the cold end, in order, until 1024 stand on chip. -/
def execDequeRefill (core : Nat) (s : State) : Host.Outcome State Fault Refusal :=
  .next (
    let c := s.core core
    let n := 1024 - c.deque.length
    (s.setCore core { c with deque := c.deque ++ c.overflow.take n, overflow := c.overflow.drop n }).poke core)

/-! ### Stealing (07 R188-R190) -/

/-- A core has no group, and nothing in its deque. -/
def State.idleCore (s : State) (core : Nat) : Bool :=
  let c := s.core core
  (s.residents core).isEmpty && c.deque.isEmpty && c.overflow.isEmpty

/-- The distance between two dies on the interposer, which lays them out in two rows of four. -/
def dieDistance (a b : Nat) : Nat :=
  (if a / 4 = b / 4 then 0 else 1) + (if a % 4 ≤ b % 4 then b % 4 - a % 4 else a % 4 - b % 4)

/-- The dies that a thief's LTH and its hunger let it try now, nearest first (07 R189). -/
def State.stealDies (s : State) (core : Nat) : List Nat :=
  let d := dieOf core
  let t := (s.die d).lth
  if t.getLsbD 48 && decide (bitsAt t.toNat 0 16 ≤ s.hunger core) then
    let l := (List.range 8).filter fun v => v != d && t.getLsbD (56 + v)
    ((l.foldl (fun a v => insertKey (8 * dieDistance d v + v, v) a) []).map (·.2))
  else []

/-- The attempt of a core is over. -/
def State.stealEnd (s : State) (core : Nat) : State := s.modCore core fun c => { c with victims := [], xvictims := [] }

/-- Sends the next request of an attempt: within the die first, then across dies. A core whose hunger no longer asks for one ends its
attempt, and each request across dies meets the conditions on the thief when it is sent (07 R188, R189). -/
def State.nextVictim (s : State) (core : Nat) : State :=
  let c := s.core core
  if s.hunger core < 64 then s.stealEnd core
  else match c.victims, (s.stealDies core).filter c.xvictims.contains with
  | v :: r, _ =>
    (s.setCore core { c with victims := r, ptr := (v + 1) % 32 }).send (.stealRequest v core c.brr (s.idleCore core) none)
  | [], d :: _ =>
    let v := 32 * d + (s.die d).stealPtr
    ((s.setCore core { c with xvictims := c.xvictims.filter (· != d) }).modDie d fun x => { x with stealPtr := (x.stealPtr + 1) % 32 }).send
      (.stealRequest v core c.brr (s.idleCore core) (some (bitsAt (s.die (dieOf core)).lth.toNat 32 16)))
  | [], [] => s.stealEnd core

/-- A request or answer of a core's attempt is on its way. -/
def State.stealing (s : State) (core : Nat) : Bool :=
  s.agenda.any fun i => match i with
    | .stealRequest _ t .. => t == core
    | .stealAnswer t .. => t == core
    | _ => false

/-- STEAL_ATTEMPT: a core whose hunger is at least 64 tries the eight cores after its pointer, and then the dies that its LTH admits. -/
def execStealAttempt (core : Nat) (s : State) : Host.Outcome State Fault Refusal :=
  .next (if s.hunger core < 64 || s.stealing core then s
    else
      let c := s.core core
      let base := core / 32 * 32
      let vs := (((List.range 32).map fun i => base + (c.ptr + i) % 32).filter (· != core)).take 8
      (s.setCore core { c with victims := vs, xvictims := (List.range 8).filter (· != dieOf core) }).nextVictim core)

/-- The local bytes of an entry's tile boxes (07 R189). -/
def State.stagedBytes (s : State) (e : Entry) : Nat :=
  match Store.find s.launches e.launch with
  | none => 0
  | some l => ((List.range (tileCount e)).map fun i =>
      match (l.tsrs[bitsAt e.closure.toNat (8 * (32 + 16 * i)) 16]?).bind fun r => Tsr.parse r.1.toNat true with
      | some t => boxBytes (boxCount t.box) (efBits t.ef)
      | none => 0).foldl (· + ·) 0

/-- Whether a victim may answer with an entry (07 R188, R189; 15 R384). -/
def State.mayGive (s : State) (brr : W64) (idle : Bool) (kib : Option Nat) (e : Entry) : Bool :=
  let h := e.closure.toNat
  e.st != .running && h.testBit 16
    && (idle || (match Store.find s.launches e.launch with | some l => l.brr == brr | none => false))
    && match kib with
      | none => true
      | some k => !h.testBit 24 && decide (s.stagedBytes e ≤ 1024 * k)

/-- STEAL_REQUEST: the victim answers with its cold-most eligible entry of the most urgent class, which leaves its deque;
a transfer under way for it ends in the victim's buffers (05 R144). -/
def execStealRequest (victim thief : Nat) (brr : W64) (idle : Bool) (kib : Option Nat) (s : State) :
    Host.Outcome State Fault Refusal :=
  .next (
    let c := s.core victim
    let ok := if c.halted || c.failed then [] else c.deque.filter (s.mayGive brr idle kib)
    match (List.range 4).findSome? fun p => ok.reverse.find? fun e => bitsAt e.closure.toNat 19 2 == p with
    | none => s.send (.stealAnswer thief victim none)
    | some e =>
      let (t, ready) := s.coreRelease victim kib.isSome
      if !ready then t.again (.stealRequest victim thief brr idle kib)
      else
        let moving := t.agenda.any fun i => match i with | .tileLand k x _ => k == victim && x == e.eid | _ => false
        let u := t.modCore victim fun c => { c with
          deque := c.deque.filter (·.eid != e.eid)
          bufs := if moving then c.bufs else c.bufs.filter (·.eid != e.eid) }
        (u.poke victim).send (.stealAnswer thief victim (some e)))

/-- STEAL_ANSWER: a stolen entry goes to the cold end of the thief's deque and is staged again, once the thief has room for it and its
split; an answer of none makes the thief try its next victim. -/
def execStealAnswer (thief victim : Nat) (e : Option Entry) (s : State) : Host.Outcome State Fault Refusal :=
  .next (match e with
    | none => s.nextVictim thief
    | some e =>
      let brr := match Store.find s.launches e.launch with | some l => l.brr | none => (s.core thief).brr
      let t := s.setBrr thief brr
      match if s.takesBrr thief brr then (t.core thief).pushCold (unstaged { e with eid := t.fresh }) else none with
      | none => s.again (.stealAnswer thief victim (some e))
      | some c =>
        let t := ((t.bump.setCore thief c).stealEnd thief).poke thief
        if dieOf thief = dieOf victim then t else t.acquireAt (dieOf thief) .pkg)

end Sys2Proof.Machine
end

