-- ==== Sys2Proof/Machine/EvFront.lean ====
section
/-! DEFINITION. Command queues, packets, the validator, launches and the placement of roots (15 R375-R385, R436; 13 R345,
R346; 07 R192). -/

namespace Sys2Proof.Machine

/-! ### Queues (15 R375, R376) -/

/-- The die whose front end serves a partition. -/
def State.feDie (s : State) (part : Nat) : Nat := ((s.part part).dies.min?).getD 0

def Queue.asid (x : Queue) : Nat := bitsAt x.qcfg.toNat 0 16
def Queue.qlog (x : Queue) : Nat := bitsAt x.qcfg.toNat 16 4 + 4
def Queue.base (x : Queue) : Nat := bitsAt x.qbase.toNat 12 40 * 4096
def Queue.cplAt (x : Queue) : Nat := bitsAt x.cplbase.toNat 12 40 * 4096
def Queue.cplLog (x : Queue) : Nat := bitsAt x.cplbase.toNat 0 4 + 4

/-- A ring lies whole in package-local HBM or in the host window. -/
def State.ringOk (s : State) (base n : Nat) : Bool :=
  let place (a : Nat) : Option Nat := if pkgOf a = s.pkg then mtOf (localOf a) else none
  place base == place (base + n - 1) && (place base == some 0 || place base == some 2)

/-- Firmware enables a queue; one whose rings stand elsewhere stays stopped. -/
def State.enableQueue (s : State) (part q : Nat) : State :=
  let x := s.queue part q
  let ok := decide (x.qlog ≤ 16) && decide (x.cplLog ≤ 16) && s.ringOk x.base (64 * 2 ^ x.qlog) && s.ringOk x.cplAt (32 * 2 ^ x.cplLog)
  s.setQueue part q { x with
    qcfg := x.qcfg ||| 0x200000, consumed := 1, doorbell := 1, qtl := 0, cseq := 1, fetched := 0, lastl := 0, fences := false
    packets := [], records := [], state := if ok then 1 else 0 }

/-- Sets the fetch of the next packet in motion. -/
def State.kick (s : State) (part q : Nat) : State :=
  let x := s.queue part q
  if x.state = 1 ∧ x.consumed ≠ x.doorbell ∧ !s.agenda.contains (.packetFetch part q) then s.send (.packetFetch part q) else s

def execQueueEnable (part q : Nat) (s : State) : Host.Outcome State Fault Refusal := .next (s.enableQueue part q)

/-- DOORBELL. -/
def State.ring (s : State) (part q : Nat) (v : W32) : State :=
  (s.modQueue part q fun x => { x with doorbell := v }).kick part q

/-- The host's write of the doorbell is a release: the writes that it made to the package before have reached every sharer (03 R103). -/
def execDoorbell (part q : Nat) (v : W32) (s : State) : Host.Outcome State Fault Refusal :=
  .next (if s.outsideDone then s.ring part q v else s.later)

/-- CPLACK. -/
def execCplack (part q : Nat) (v : W32) (s : State) : Host.Outcome State Fault Refusal :=
  .next (s.modQueue part q fun x => { x with cplack := v })

/-- Every packet numbered `n` or less has completed when none that is left has such a number (15 R378). -/
def Queue.timeline (x : Queue) : Nat := match (x.packets.map (·.num)).min? with | some n => n - 1 | none => x.fetched

/-- A write of CTRL with RESUME: packets up to NEXT count as completed, and the queue runs (15 R381). -/
def State.resume (s : State) (part q : Nat) (v : W64) : State :=
  let x := s.queue part q
  let next : W32 := v.truncate 32
  let k := (next - x.consumed).toNat
  let s := s.setQueue part q { x with ctrl := v }
  if v.getLsbD 32 && x.state == 2 && decide (k < 2 ^ 31) then
    (s.modQueue part q fun x =>
      let y := { x with consumed := next, fetched := x.fetched + k, state := 1 }
      { y with qtl := y.timeline }).kick part q
  else s

def execQueueResume (part q : Nat) (v : W64) (s : State) : Host.Outcome State Fault Refusal := .next (s.resume part q v)

/-! ### Completion records (15 R379, R380, R436) -/

def statusCode : PStatus → Nat
  | .ok => 0
  | .haltSeq => 1
  | .haltField => 2
  | .haltOpcode => 3
  | .haltRange => 4
  | .baddesc => 5
  | .notroot => 6
  | .closed => 7
  | .fault => 8
  | .aborted => 9
  | .skipped => 0

/-- A record without its CSEQ takes its place among those to be written (15 Table 15.3). -/
def State.addRecord (s : State) (part q : Nat) (head : Nat) (st : PStatus) (detail : Nat) : State :=
  let x := s.queue part q
  let rec_ : BitVec 256 := BitVec.ofNat 256 (bitsAt head 0 32 * 2 ^ 32 + bitsAt head 32 8 * 2 ^ 64 + statusCode st * 2 ^ 72 +
    q * 2 ^ 80 + x.qtl % 2 ^ 64 * 2 ^ 128 + detail % 2 ^ 64 * 2 ^ 192)
  (s.setQueue part q { x with records := x.records ++ [(rec_, head.testBit 42 && head.testBit 41)] }).send (.completionRecord part q)

/-- The IRQ write of 15 R380. -/
def State.irq (s : State) (x : Queue) : State :=
  let a := x.irqaddr.toNat / 4 * 4
  if 0x40000000000 ≤ a ∧ a < 0x80000000000 then s.write (s.pkg * 2 ^ 43 + a) (bytesOf 4 x.irqdata.toNat) else s

/-- COMPLETION_RECORD: the oldest record that waits is written once the ring has room. -/
def execCompletionRecord (part q : Nat) (s : State) : Host.Outcome State Fault Refusal :=
  .next (
    let x := s.queue part q
    match x.records with
    | [] => s
    | (r, irq) :: rest =>
      let full := (x.cseq - x.cplack - 1).toNat == 2 ^ x.cplLog
      let at_ := x.cplAt + x.cseq.toNat % 2 ^ x.cplLog * 32
      let (t, ok) := s.homeReady (s.feDie part) at_ 32
      if full || !ok then t.again (.completionRecord part q)
      else
        let t := (t.homeWrite at_ (bytesOf 32 (r.toNat + x.cseq.toNat))).setQueue part q
          { x with records := rest, cseq := x.cseq + 1 }
        if irq then t.irq x else t)

/-- A packet completes: QTL advances, and a record is written where 15 R379 asks for one. -/
def State.completePacket (s : State) (part q num : Nat) (st : PStatus) (detail : Nat) : State :=
  match (s.queue part q).packets.find? (·.num == num) with
  | none => s
  | some p =>
    let t := s.modQueue part q fun x =>
      let y := { x with packets := x.packets.filter (·.num != num) }
      { y with qtl := y.timeline }
    if p.bits.getLsbD 41 || (st != .ok && st != .skipped) then t.addRecord part q (p.bits.toNat % 2 ^ 64) st detail else t

def execPacketComplete (part q num : Nat) (status : PStatus) (detail : W64) (s : State) : Host.Outcome State Fault Refusal :=
  .next (s.completePacket part q num status detail.toNat)

/-! ### Fetch and the validator (15 R376, R377, R381) -/

/-- `n` bytes of a packet. -/
def pktField (b off n : Nat) : Nat := bitsAt b (8 * off) (8 * n)

/-- Bytes of a range that are not 0. -/
def pktReserved (b lo hi : Nat) : List Nat := ((List.range (hi - lo)).map (lo + ·)).filter fun i => pktField b i 1 != 0

/-- The offsets at which a packet breaks check 2. -/
def fieldBad (b : Nat) : List Nat :=
  let f := pktField b
  let bad (c : Bool) (o : Nat) : List Nat := if c then [o] else []
  let ty := f 4 1
  bad (ty == 0 || decide (8 < ty)) 4 ++ bad (decide (8 ≤ f 5 1) || (b.testBit 42 && !b.testBit 41)) 5 ++ pktReserved b 6 8 ++
    match ty with
    | 1 => bad (f 16 8 % 16 != 0) 16 ++ bad (f 26 2 == 0 || decide (4096 < f 26 2)) 26 ++
        bad (f 28 1 == 0 || decide (7 < f 28 1)) 28 ++ bad (decide (3 < f 29 1)) 29 ++ pktReserved b 30 64
    | 2 => bad (f 16 8 % 64 != 0) 16 ++ bad (f 24 1 == 0 || decide (64 < f 24 1)) 24 ++ pktReserved b 25 64
    | 3 => bad (f 24 8 == 0 || decide (2 ^ 32 < f 24 8)) 24 ++ pktReserved b 32 64
    | 4 => bad (f 8 8 % 8 != 0) 8 ++ pktReserved b 24 64
    | 5 => bad (decide (63 < f 8 1)) 8 ++ pktReserved b 9 16 ++ pktReserved b 24 64
    | 6 => bad (f 16 8 == 0 || decide (2 ^ 40 < f 16 8)) 16 ++ pktReserved b 24 64
    | 7 => bad (decide (2 < f 24 1)) 24 ++ pktReserved b 25 64
    | 8 => pktReserved b 16 64
    | _ => []

/-- The extents that check 4 covers: the field's offset, and a number of bytes. -/
def pktExtents (b : Nat) : List (Nat × Nat) :=
  let f := pktField b
  match f 4 1 with
  | 1 => [(8, 64), (16, 112 * f 26 2)]
  | 2 => [(8, 64), (16, 64 * f 24 1)]
  | 3 => [(8, f 24 8), (16, f 24 8)]
  | 4 => [(8, 8)]
  | 6 => [(8, f 16 8)]
  | 7 => [(8, f 16 8)]
  | _ => []

/-- Whether every byte of an extent lies within one enabled range. -/
def Queue.inRange (x : Queue) (a n : Nat) : Bool :=
  n == 0 || (List.range 8).any fun i =>
    let base := bitsAt (Store.get 0 x.ranges (2 * i)).toNat 15 49 * 2 ^ 15
    let len := bitsAt (Store.get 0 x.ranges (2 * i + 1)).toNat 15 49 * 2 ^ 15
    len != 0 && decide (base ≤ a) && decide (a + n ≤ base + len)

/-- The validator: the first check that fails, with its DETAIL. -/
def Queue.validate (x : Queue) (b : Nat) : Option (PStatus × Nat) :=
  if pktField b 0 4 ≠ x.consumed.toNat then some (.haltSeq, 0)
  else match (fieldBad b).min? with
    | some o => some (.haltField, o)
    | none =>
      if !x.opmask.getLsbD (pktField b 4 1) then some (.haltOpcode, 4)
      else ((pktExtents b).find? fun e => !x.inRange (pktField b e.1 8) e.2).map fun e => (.haltRange, e.1)

def Packet.ty (p : Packet) : Nat := pktField p.bits.toNat 4 1
def Packet.at (p : Packet) (off n : Nat) : Nat := pktField p.bits.toNat off n

/-- A WAITTL or a QFENCE. -/
def Packet.fence (p : Packet) : Bool := p.ty == 5 || p.ty == 8

/-- PACKET_FETCH. -/
def execPacketFetch (part q : Nat) (s : State) : Host.Outcome State Fault Refusal :=
  .next (
    let x := s.queue part q
    if x.state ≠ 1 ∨ x.consumed = x.doorbell then s
    else if (s.part part).halted then s.again (.packetFetch part q)
    else
      let fd := s.feDie part
      let at_ := x.base + x.consumed.toNat % 2 ^ x.qlog * 64
      let (t, ok) := (s.acquireAt fd .sys).homeReady fd at_ 64
      if !ok then t.again (.packetFetch part q)
      else
        let b := t.readNat at_ 64
        match x.validate b with
        | some (st, detail) => (t.modQueue part q fun x => { x with state := 2 }).addRecord part q (b % 2 ^ 64) st detail
        | none =>
          let num := x.fetched + 1
          let others := ((List.range 64).filter fun i => i != q && b.testBit (64 + i)).map fun i => (i, (s.queue part i).fetched)
          let p : Packet :=
            { num := num, bits := BitVec.ofNat 512 b, fenced := x.fences, pred := x.lastl
              snap := if pktField b 4 1 = 8 then (q, x.fetched) :: others else [] }
          ((t.modQueue part q fun x => { x with
            consumed := x.consumed + 1, fetched := num, packets := x.packets ++ [p]
            lastl := if p.ty = 1 then num else x.lastl, fences := x.fences || p.fence }).send (.packetStart part q num)).kick part q)

/-! ### The start of a packet (15 R378, 07 R192) -/

def Queue.packet (x : Queue) (num : Nat) : Option Packet := x.packets.find? (·.num == num)

/-- ORDER, as which SIGNAL always acts. -/
def Packet.ordered (p : Packet) : Bool := p.bits.getLsbD 40 || p.ty == 4

/-- The event that carries a packet out. -/
def packetWork (part q : Nat) (p : Packet) : Instr :=
  match p.ty with
  | 1 => .launch part q p.num
  | 2 => .feed part q p.num
  | 3 => .copy part q p.num
  | 4 => .signal part q p.num
  | 5 => .waittl part q p.num
  | 6 => .zero part q p.num
  | 7 => .inval part q p.num
  | _ => .qfence part q p.num

/-- Changes a packet. -/
def State.modPacket (s : State) (part q num : Nat) (f : Packet → Packet) : State :=
  s.modQueue part q fun x => { x with packets := x.packets.map fun y => if y.num = num then f y else y }

/-- A packet starts: with the acquire of 03 Table 3.4 where it waits on another, by ORDER or behind a WAITTL or QFENCE of its
queue. -/
def State.startPacket (s : State) (part q : Nat) (p : Packet) (early : Bool) : State :=
  let t := if p.ordered || p.fenced then (s.part part).dies.foldl (fun t d => t.acquireAt d .sys) s else s
  (t.modPacket part q p.num fun y => { y with started := true, early := early }).send (packetWork part q p)

/-- PACKET_START. -/
def execPacketStart (part q num : Nat) (s : State) : Host.Outcome State Fault Refusal :=
  .next (
    let x := s.queue part q
    match x.packet num with
    | none => s
    | some p =>
      let before := x.packets.filter fun y => decide (y.num < num)
      if p.started then s
      else if (s.part part).halted || before.any (fun y => !y.started || y.fence) || (p.ordered && !before.isEmpty) then
        s.again (.packetStart part q num)
      else s.startPacket part q p false)

/-! ### The front end's accesses (15 R378) -/

/-- The front end as an engine of its die: its accesses are performed at the home, and its fault records carry ORIG 4. -/
def State.fe (s : State) (part q : Nat) : Eng := ⟨s.feDie part, (s.queue part q).asid, .sl, 4, 0⟩

/-- Bytes that the front end reads, with the tags of the granules from the first on: none when it must wait, or the
address of a fault. An address above 57 bits faults, unless no byte is read. -/
def State.feRead (s : State) (e : Eng) (va n : Nat) : State × Option (Except Nat (List Byte × List Bool)) :=
  if n ≠ 0 ∧ 2 ^ 57 < va + n then (s, some (.error (max va (2 ^ 57))))
  else
    let (s1, ps, bad) := s.engXlate e .load [(va, n)] (pageList va n)
    match worstFail bad with
    | some f => (s1.engRecord e .load f, some (.error f.addr))
    | none =>
      let (s2, ok) := s1.engReady e false false ps
      if !ok then (s2, none)
      else
        let s3 := s2.engFill e ps
        (s3, some (.ok ((List.range n).map fun i => s3.engByte e ps (va + i),
          (List.range (n / 16)).map fun i => va % 16 == 0 && s3.engTag e ps (va + 16 * i))))

/-- Writes by the front end that end a packet: the packet completes once they are performed, or with FAULT. -/
def State.feMove (s : State) (part q num : Nat) (src dst : List (Nat × Nat)) (again : Instr)
    (f : Nat → State → List EPage → List EPage → List Move) : State :=
  match (src ++ dst).find? fun x => decide (2 ^ 57 < x.1 + x.2) with
  | some x => s.send (.packetComplete part q num .fault (BitVec.ofNat 64 (max x.1 (2 ^ 57))))
  | none =>
    let sid := 1024 * s.fresh + 1023
    let d := s.engMove (s.fe part q) src src dst .store sid (f sid)
    match d.fin with
    | none => d.st.again again
    | some x =>
      let st : PStatus := if x.st = ESt.ok then .ok else .fault
      let (t, acks) := d.st.bump.moveAll (s.fe part q) none d.pages sid d.todo
      t.await (s.feDie part) ⟨sid, 0, 0, false, acks, [.packetComplete part q num st (BitVec.ofNat 64 x.addr)]⟩

/-- A started packet of a queue. -/
def State.work (s : State) (part q num : Nat) (f : Packet → State) : State :=
  match ((s.queue part q).packet num).filter (·.started) with
  | some p => f p
  | none => s

def execCopy (part q num : Nat) (s : State) : Host.Outcome State Fault Refusal :=
  .next (s.work part q num fun p =>
    let dst := p.at 8 8
    let src := p.at 16 8
    let n := p.at 24 8
    let at_ (a : Nat) : Cap := ⟨BitVec.ofNat 128 a, false⟩
    s.feMove part q num (pageList src n) (pageList dst n) (.copy part q num) fun sid t ps qs =>
      t.copyWrites (s.fe part q) sid (at_ dst) (at_ src) n ps qs)

def execSignal (part q num : Nat) (s : State) : Host.Outcome State Fault Refusal :=
  .next (s.work part q num fun p =>
    s.feMove part q num [] [(p.at 8 8, 8)] (.signal part q num) fun _ _ _ _ =>
      [.put ⟨p.at 8 8, bytesOf 8 (p.at 16 8), false, none⟩])

def execZero (part q num : Nat) (s : State) : Host.Outcome State Fault Refusal :=
  .next (s.work part q num fun p =>
    let ps := pageList (p.at 8 8) (p.at 16 8)
    s.feMove part q num [] ps (.zero part q num) fun _ _ _ _ => ps.map fun x => .put ⟨x.1, bytesOf x.2 0, false, none⟩)

def execWaittl (part q num : Nat) (s : State) : Host.Outcome State Fault Refusal :=
  .next (s.work part q num fun p =>
    if p.at 16 8 ≤ (s.queue part (p.at 8 1)).qtl then s.send (.packetComplete part q num .ok 0) else s.again (.waittl part q num))

def execQfence (part q num : Nat) (s : State) : Host.Outcome State Fault Refusal :=
  .next (s.work part q num fun p =>
    if p.snap.all fun e => decide (e.2 ≤ (s.queue part e.1).qtl) then s.send (.packetComplete part q num .ok 0)
    else s.again (.qfence part q num))

/-- INVAL: a shootdown of the package waits behind the number that `snap` takes; the instruction caches of the package are
flushed at once. -/
def execInval (part q num : Nat) (s : State) : Host.Outcome State Fault Refusal :=
  .next (s.work part q num fun p =>
    let va := p.at 8 8
    let n := p.at 16 8
    let kind := p.at 24 1
    let asid := (s.queue part q).asid
    match p.snap with
    | (_, sid) :: _ =>
      if s.shoots.any (·.sid == sid) then s.again (.inval part q num) else s.send (.packetComplete part q num .ok 0)
    | [] =>
      let t := if kind = 0 then s else s.flushCode (s.coresOf allDies) asid va n
      if kind = 1 ∨ n = 0 then t.send (.packetComplete part q num .ok 0)
      else
        let (u, sid) := t.shootdown asid (va / 0x8000 * 0x8000) ((va + n + 0x7FFF) / 0x8000 * 0x8000) allDies 0 false
        (u.modPacket part q num fun y => { y with snap := [(q, sid)] }).again (.inval part q num))

/-! ### FEED (15 R385) -/

/-- The header's place, or the fault: it must be a valid feed queue on an MT 1 page (13 R334). -/
def State.feedAt (s : State) (part q va : Nat) : State × Option Nat :=
  if 2 ^ 57 < va + 64 then (s, none)
  else
    let e := s.fe part q
    let (t, ps, bad) := s.engXlate e .atomic [] [(va, 64)]
    match bad, ps with
    | f :: _, _ => (t.engRecord e .atomic f, none)
    | [], p :: _ => (t, if va % 64 = 0 ∧ p.t.page.mt = 1 ∧ (t.feed p.t.pa).valid then some p.t.pa else none)
    | [], [] => (t, none)

def execFeed (part q num : Nat) (s : State) : Host.Outcome State Fault Refusal :=
  .next (s.work part q num fun p =>
    match s.feedAt part q (p.at 8 8) with
    | (t, none) => t.send (.packetComplete part q num .fault (BitVec.ofNat 64 (p.at 8 8)))
    | (t, some _) => t.send (.feedAppend part q num 0))

/-- FEED_APPEND: record `i` as QAPP appends it; a full queue makes it wait. -/
def execFeedAppend (part q num i : Nat) (s : State) : Host.Outcome State Fault Refusal :=
  .next (s.work part q num fun p =>
    let fin (t : State) (st : PStatus) (d : Nat) : State := t.send (.packetComplete part q num st (BitVec.ofNat 64 d))
    if p.at 24 1 ≤ i then fin s .ok 0
    else match s.feedAt part q (p.at 8 8) with
    | (t, none) => fin t .fault (p.at 8 8)
    | (t, some pa) =>
      let f := t.feed pa
      if f.closed then fin t .closed 8
      else if (f.tail + 2 ^ 64 - f.head) % 2 ^ 64 = 2 ^ f.capl then t.again (.feedAppend part q num i)
      else match t.feRead (t.fe part q) (p.at 16 8 + 64 * i) 64 with
        | (u, none) => u.again (.feedAppend part q num i)
        | (u, some (.error a)) => fin u .fault a
        | (u, some (.ok (bs, _))) =>
          let v := (u.homeWrite (feedRecord pa f.capl f.tail) bs).homeWrite (pa + 8) (bytesOf 8 (f.tail + 1))
          let w := v.gongChain pa (pa + 20) (pa + 18)
          if i + 1 < p.at 24 1 then w.send (.feedAppend part q num (i + 1)) else fin w .ok 0)

/-! ### LAUNCH (13 R345, R346; 15 R382) -/

/-- A BRR that a kernel may name (02 R47). -/
def brrOk (brr : W64) : Bool := (banksOf brr 3).isEmpty && [0, 2, 4, 8, 16, 32].contains (banksOf brr 0).length

/-- A kernel descriptor, from its 64 bytes (13 Table 13.7). -/
structure Desc where
  code : Cap
  entt : Nat
  tsrt : Nat
  nent : Nat
  ntsr : Nat
  hent : Nat
  es   : Nat
  brr  : W64
  resv : Bool
  deriving DecidableEq, Repr

def parseDesc (n : Nat) (tag : Bool) : Desc :=
  { code := ⟨BitVec.ofNat 128 n, tag⟩, entt := bitsAt n 128 64, tsrt := bitsAt n 192 64, nent := bitsAt n 256 16
    ntsr := bitsAt n 272 16, hent := bitsAt n 288 16, es := bitsAt n 304 8, brr := BitVec.ofNat 64 (bitsAt n 320 64)
    resv := bitsAt n 312 8 != 0 || bitsAt n 384 128 != 0 }

/-- Step 2 of 15 R382. -/
def Desc.ok (d : Desc) : Bool :=
  !d.resv && d.code.tag && d.code.x && brrOk d.brr && decide (d.es ≤ 63) && d.nent != 0 &&
    (decide (d.hent < d.nent) || d.hent == 0xFFFF) && d.entt % 32 == 0 && d.tsrt % 64 == 0 && decide (d.ntsr ≤ 1024)

/-- An entry record, from its 32 bytes; none when it is invalid (13 Table 13.8). -/
def parseEntry (d : Desc) (n : Nat) : Option EntryRec :=
  let r : EntryRec :=
    ⟨bitsAt n 0 32, bitsAt n 48 16, bitsAt n 64 16, bitsAt n 80 16, bitsAt n 96 32, bitsAt n 128 32⟩
  let b := d.code.bounds
  let a : Int := d.code.cursor + r.off
  if bitsAt n 32 16 = 0 ∧ bitsAt n 160 96 = 0 ∧ r.flags < 8 ∧ r.regs % 8 = 0 ∧ 8 ≤ r.regs ∧ r.regs ≤ 256 ∧ r.scal % 8 = 0 ∧
      16 ≤ r.scal ∧ r.scal ≤ 64 ∧ r.scr ≤ roleCap d.brr 1 ∧ r.tob ≤ roleCap d.brr 2 ∧ r.off % 8 = 0 ∧ b.base ≤ a ∧ a < b.top then some r
  else none

/-- A record of the launch copy (15 R382), the tag of its base, and whether that base is late-bound, as only a zero base of the
kernel's table is: a placeholder takes a granule of the first root's arguments, whatever it holds. -/
def launchTsr (arg : BitVec 896 × BitVec 7) (n : Nat) (tag : Bool) : Option (BitVec 512 × Bool × Bool) :=
  let base := bitsAt n 0 128
  if !tag && base / 8 == 4096 then
    let k := base % 8
    if k = 0 ∨ k = 7 then none
    else some (BitVec.ofNat 512 (n - base + (arg.1.extractLsb' (128 * k) 128).toNat), arg.2.getLsbD k, false)
  else some (BitVec.ofNat 512 n, tag, !tag && base == 0)

/-- What a launch's reads give: wait, refuse, or go on. -/
inductive FeGot (α : Type) where
  | wait (s : State)
  | fail (s : State) (st : PStatus) (detail : Nat)
  | ok (s : State) (x : α)

/-- Reads `n` bytes and goes on with them. -/
def State.feGet {α : Type} (s : State) (e : Eng) (va n : Nat) (k : State → List Byte → List Bool → FeGot α) : FeGot α :=
  match s.feRead e va n with
  | (t, none) => .wait t
  | (t, some (.error a)) => .fail t .fault a
  | (t, some (.ok (bs, tags))) => k t bs tags

/-- Bytes cut into records. -/
def cutRecords (n k : Nat) (bs : List Byte) : List Nat := (List.range k).map fun i => natOf ((bs.drop (n * i)).take n)

/-- The tag of a home argument's granule. -/
def homeGranule (ha : Nat) (a : BitVec 896 × BitVec 7) : Cap := ⟨a.1.extractLsb' (128 * ha) 128, a.2.getLsbD ha⟩

/-- Where the home argument of each root lies, in order: a fault refuses the launch. -/
def State.homesOf (e : Eng) (ha : Nat) : List (BitVec 896 × BitVec 7) → State → FeGot (List (Option Nat))
  | [], s => .ok s []
  | a :: r, s =>
    let g := homeGranule ha a
    if ha = 7 ∨ !g.tag then
      match State.homesOf e ha r s with
      | .ok t l => .ok t (none :: l)
      | x => x
    else match s.translate e.die e.asid g.cursor .load with
      | (t, .error f) => .fail (t.engRecord e .load ⟨statusOf f.code, g.cursor, some f⟩) .fault g.cursor
      | (t, .ok x) =>
        match State.homesOf e ha r t with
        | .ok u l => .ok u (some x.pa :: l)
        | y => y

/-- Reads a launch's descriptor, or takes it as an early start read it (13 R345). -/
def State.feDesc (s : State) (part q : Nat) (p : Packet) (k : State → Desc → FeGot Launch) : FeGot Launch :=
  match p.desc with
  | some (n, tag) => k s (parseDesc n tag)
  | none => s.feGet (s.fe part q) (p.at 8 8) 64 fun s bs tags =>
    k (s.modPacket part q p.num fun y => { y with desc := some (natOf bs, tags.getD 0 false) }) (parseDesc (natOf bs) (tags.getD 0 false))

/-- Reads a launch's entry table, once. -/
def State.feEntt (s : State) (part q : Nat) (p : Packet) (d : Desc) (k : State → List Byte → FeGot Launch) : FeGot Launch :=
  match p.entt with
  | some bs => k s bs
  | none => s.feGet (s.fe part q) d.entt (32 * d.nent) fun s bs _ =>
    k (s.modPacket part q p.num fun y => { y with entt := some bs }) bs

/-- The nine steps of 15 R382. -/
def State.readLaunch (s : State) (part q : Nat) (p : Packet) : FeGot Launch :=
  let e := s.fe part q
  let ent := p.at 24 2
  let nroot := p.at 26 2
  let ha := p.at 28 1
  s.feDesc part q p fun s d =>
    if !d.ok then .fail s .baddesc 8
    else if d.nent ≤ ent then .fail s .notroot 24
    else s.feEntt part q p d fun s bs =>
      match (cutRecords 32 d.nent bs).mapM (parseEntry d) with
      | none => .fail s .baddesc 8
      | some entries =>
        match entries[ent]? with
        | none => .fail s .notroot 24
        | some r =>
          if !r.flags.testBit 0 then .fail s .notroot 24
          else s.feGet e (p.at 16 8) (112 * nroot) fun s bs tags =>
            let tagok := (s.queue part q).qcfg.getLsbD 20
            let args := (cutRecords 112 nroot bs).zipIdx.map fun x =>
              (BitVec.ofNat 896 x.1, BitVec.ofNat 7 ((List.range 7).foldl (fun a g =>
                if tagok && tags.getD (7 * x.2 + g) false then a + 2 ^ g else a) 0))
            s.feGet e d.tsrt (64 * d.ntsr) fun s bs tags =>
              match (cutRecords 64 d.ntsr bs).zipIdx.mapM fun x =>
                  launchTsr (args.getD 0 (0, 0)) x.1 (tags.getD (4 * x.2) false) with
              | none => .fail s .baddesc 8
              | some tsrs =>
                match State.homesOf e ha args s with
                | .wait t => .wait t
                | .fail t st a => .fail t st a
                | .ok t homes =>
                  .ok t
                    { part := part, queue := q, num := p.num, asid := e.asid, code := d.code, brr := d.brr, es := d.es
                      hent := d.hent, entries := entries, tsrt := d.tsrt, tsrs := tsrs, args := args, homes := homes
                      ent := ent, pri := p.at 29 1, ha := ha, early := p.early
                      pred := ((t.launches.filter fun l => l.2.part == part && l.2.queue == q && l.2.num == p.pred).getLast?).map (·.1)
                      unplaced := List.range nroot, tasks := nroot }

/-- LAUNCH: refused, or its roots are placed one after another. -/
def execLaunch (part q num : Nat) (s : State) : Host.Outcome State Fault Refusal :=
  .next (s.work part q num fun p =>
    match s.readLaunch part q p with
    | .wait t => t.again (.launch part q num)
    | .fail t st d => t.send (.packetComplete part q num st (BitVec.ofNat 64 d))
    | .ok t l =>
      -- the first LAUNCH ends the boot (20 Table 20.1)
      { t with
        launches := Store.put t.launches t.fresh l, fresh := t.fresh + 1
        plat := { t.plat with stage := if t.plat.stage = 4 then 5 else t.plat.stage } }.send (.rootPlace t.fresh 0))

/-- EARLY_START: a LAUNCH with ORDER and a share starts while its predecessor alone is unfinished, once a task of the
predecessor has executed LHINT. -/
def execEarlyStart (part q num : Nat) (s : State) : Host.Outcome State Fault Refusal :=
  .next (
    let x := s.queue part q
    match x.packet num with
    | none => s
    | some p =>
      let before := x.packets.filter fun y => decide (y.num < num)
      let hinted := s.launches.any fun l =>
        l.2.part == part && l.2.queue == q && l.2.num == p.pred && l.2.lhinted && !l.2.done
      if p.started || p.ty != 1 || !p.ordered || (s.part part).halted || before.map (·.num) != [p.pred] || !hinted then s
      else
        let go (t : State) (n : Nat) (tag : Bool) : State :=
          let d := parseDesc n tag
          if d.ok && decide (1 ≤ d.es) then t.startPacket part q p true else t
        match p.desc with
        | some (n, tag) => go s n tag
        | none => match s.feRead (s.fe part q) (p.at 8 8) 64 with
          | (t, some (.ok (bs, tags))) =>
            let g := (natOf bs, tags.getD 0 false)
            go (t.modPacket part q num fun y => { y with desc := some g }) g.1 g.2
          | (t, some (.error _)) => t
          | (t, none) => t.later)

/-! ### Placement of roots (15 R383) -/

/-- The closure of a root, and its tags (15 R382). -/
def Launch.closure (l : Launch) (r : Nat) : BitVec 1024 × BitVec 8 :=
  let a := l.args.getD r (0, 0)
  let flags := match l.entries[l.ent]? with | some e => e.flags | none => 0
  let head := l.ent + (if flags.testBit 1 then 2 ^ 16 else 0) + (if l.early then 2 ^ 18 else 0) + l.pri * 2 ^ 19 + 12 * 2 ^ 32
  (BitVec.ofNat 1024 (head + a.1.toNat * 2 ^ 128), BitVec.ofNat 8 (2 * a.2.toNat))

/-- The die of a root, and the partition's die pointer after it. -/
def State.rootDie (s : State) (l : Launch) (r : Nat) : Nat × Nat :=
  let p := s.part l.part
  let n := max 1 p.dies.length
  let at_ (i : Nat) : Nat := p.dies.getD i (s.feDie l.part)
  match (l.homes.getD r none) with
  | none => (at_ (p.diePtr % n), (p.diePtr + 1) % n)
  | some pa =>
    if l.args.length = 1 then
      (if pkgOf pa == s.pkg && (mtOf (localOf pa) == some 0 || isCmem pa) && p.dies.contains (homeDie pa) then homeDie pa
        else s.feDie l.part, p.diePtr)
    else (at_ (bitsAt pa 25 27 % 65521 % n), p.diePtr)

/-- The core that takes a root on a die: from the die's core pointer upward. -/
def State.rootCore (s : State) (die : Nat) (l : Launch) (e : Entry) : Option Nat :=
  ((List.range 32).map fun i => 32 * die + ((s.die die).corePtr + i) % 32).find? fun k =>
    s.takesBrr k l.brr && ((s.core k).pushCold e).isSome

/-- Places the roots that wait on a die, in order, as long as a core takes the first. -/
def State.drainRoots (die : Nat) : Nat → State → State
  | 0, s => s
  | fuel + 1, s =>
    match (s.die die).roots with
    | [] => s
    | r :: rest =>
      match Store.find s.launches r.lid with
      | none => State.drainRoots die fuel (s.modDie die fun d => { d with roots := rest })
      | some l =>
        let c := l.closure r.root
        let e : Entry := ⟨s.fresh, r.lid, c.1, c.2, .ready, false, []⟩
        match s.rootCore die l e with
        | none => s
        | some k =>
          let t := s.bump.setBrr k l.brr
          let t := t.modCore k fun c => (c.pushCold e).getD c
          let t := t.modDie die fun d => { d with roots := rest, corePtr := (k + 1) % 32 }
          let t := { t with launches := Store.put t.launches r.lid { l with unplaced := removeNat l.unplaced r.root } }
          State.drainRoots die fuel (t.poke k)

/-- ROOT_PLACE: a root joins its die's root queue, from which roots go to cores in order; the launch's next root follows. A
root that still waits is tried again. -/
def execRootPlace (lid root : Nat) (s : State) : Host.Outcome State Fault Refusal :=
  .next (match Store.find s.launches lid with
    | none => s
    | some l =>
      if !l.unplaced.contains root then s
      else
        let queued := s.dies.find? fun d => d.2.roots.contains (⟨lid, root⟩ : Root)
        let (t, die) := match queued with
          | some d => (s, d.1)
          | none =>
            let (d, ptr) := s.rootDie l root
            let t := (s.modPart l.part fun p => { p with diePtr := ptr }).modDie d fun x => { x with roots := x.roots ++ [(⟨lid, root⟩ : Root)] }
            (if root + 1 < l.args.length then t.send (.rootPlace lid (root + 1)) else t, d)
        let u := State.drainRoots die (t.die die).roots.length t
        if (u.die die).roots.contains (⟨lid, root⟩ : Root) then u.again (.rootPlace lid root) else u)

end Sys2Proof.Machine
end

