-- ==== Sys2Proof/Machine/EvExchange.lean ====
section
/-! DEFINITION. Exchange messages at endpoints, the arbiter and the standby (06 R149-R168). -/

namespace Sys2Proof.Machine

/-! ### Delivery -/

/-- A message for a die of this package reaches it; any other leaves over the links (06 R151). -/
def State.deliver (s : State) (id : Nat) (i : Instr) (f : State → Nat → State) : State :=
  if id % 512 = s.pkg then f s (xdie id) else { s with outbox := s.outbox ++ [i] }

/-- What an endpoint's open round `k` makes of a message; nothing when that round is not open there. -/
def State.atEndpoint (s : State) (d : Nat) (xid : W64) (k : Nat) (f : XCtx → XDesc → State) : State :=
  match (s.xctx d xid).filter fun x => x.isOpen && x.round == k with
  | some x => match x.desc with | some g => f x g | none => s
  | none => s

/-- Sets the context and lets the endpoint go on. -/
def State.xGo (s : State) (d : Nat) (x : XCtx) : State := (s.setX d x).xStep d x.xid

/-! ### The arbiter's records -/

/-- The record of a round in one role, over or not. -/
def State.arbOf (s : State) (d : Nat) (xid : W64) (k : Nat) (standby : Bool) : Option XArb :=
  (s.die d).xarbs.find? fun r => r.xid == xid && r.round == k && r.standby == standby

/-- The record of a round that is not over and satisfies a test. -/
def State.arb (s : State) (d : Nat) (xid : W64) (k : Nat) (p : XArb → Bool) : Option XArb :=
  (s.die d).xarbs.find? fun r => r.xid == xid && r.round == k && r.gone.isNone && p r

def XArb.same (a b : XArb) : Bool := a.xid == b.xid && a.round == b.round && a.standby == b.standby

def State.setArb (s : State) (d : Nat) (r : XArb) : State :=
  s.modDie d fun x =>
    { x with xarbs := if x.xarbs.any r.same then x.xarbs.map fun a => if a.same r then r else a else x.xarbs ++ [r] }

/-- A round is over at its arbiter or standby: 0, or the reason of its abort. The record stays for what may still come of the
round, without a context: after an abort until every endpoint has been heard of, and at an arbiter where the round ended normally
until a DEMAND of another round (06 R149, R154). -/
def State.delArb (s : State) (d : Nat) (r : XArb) (reason : Nat) (heard : List Nat) : State :=
  let heard := heard.filter r.desc.eps.contains
  let keep := if reason = 0 then !r.standby else decide (heard.length < r.desc.n)
  (s.modDie d fun x => { x with xarbs := (x.xarbs.filter fun a => !a.same r) ++
    if keep then [{ xid := r.xid, round := r.round, standby := r.standby, desc := r.desc, gone := some reason, heard := heard }] else [] }).freeX d r.xid

/-- The endpoints whose rows a record holds. -/
def XArb.from_ (r : XArb) : List Nat := r.rows.map fun e => nth r.desc.eps e.1

/-- Whether a record's holder leads the round. -/
def XArb.leads (r : XArb) : Bool := !r.standby || r.acting

/-- Every demand row has arrived. -/
def XArb.full (r : XArb) : Bool := r.rows.length == r.desc.n

def XArb.demand (r : XArb) (s d : Nat) : Nat := nth (Store.get [] r.rows s) d

/-- Sends a message to every endpoint. -/
def State.toAll (s : State) (f : XDesc) (m : Nat → Instr) : State := s.sendAll (f.eps.map m)

/-- XABORT to every endpoint, and to a standby that is none of them: without it its record would never end (06 R149, R154;
assumption 127). -/
def State.sendAbort (s : State) (d : Nat) (f : XDesc) (round reason : Nat) : State :=
  let me := s.xself d
  let t := s.toAll f fun e => .xabort e me f.xid round reason false
  if f.stby = me ∨ f.eps.contains f.stby then t else t.send (.xabort f.stby me f.xid round reason false)

/-- The arbiter, or the standby that acts as one, aborts a round (06 R154); `src` is the endpoint that asked for it. -/
def State.abortRound (s : State) (d : Nat) (r : XArb) (reason : Nat) (src : List Nat) : State :=
  (s.sendAbort d r.desc r.round reason).delArb d r reason (src.foldl insertNat (r.from_.foldl insertNat []))

/-! ### The peal (06 R155, R156) -/

def at2 (m : List (List Nat)) (i j : Nat) : Nat := nth (m.getD i []) j
def set2 (m : List (List Nat)) (i j v : Nat) : List (List Nat) := m.set i ((m.getD i []).set j v)

/-- The receive offset of a source at a destination. -/
def XArb.roff (r : XArb) (s d : Nat) : Nat := ((List.range s).map fun i => r.demand i d).foldl (· + ·) 0

/-- The destination that source `s` takes in a change. -/
def pealBest (n s : Nat) (q : List (List Nat)) (taken : List Nat) : Option Nat :=
  (List.range n).foldl (fun best d =>
    if d = s ∨ taken.contains d ∨ at2 q s d = 0 then best
    else match best with
      | none => some d
      | some b =>
        if at2 q s b < at2 q s d ∨ (at2 q s d = at2 q s b ∧ (d + n - s) % n < (b + n - s) % n) then some d else best) none

/-- Change `r.j` of the peal: its grants, and what is left. -/
def XArb.change (r : XArb) : XArb :=
  let n := r.desc.n
  let z := (List.range n).foldl (fun (t : List (List Nat) × List (List Nat) × List Nat × List XGrant) i =>
    let (q, y, taken, gs) := t
    let s := (r.j + i) % n
    match pealBest n s q taken with
    | none => t
    | some d =>
      let g := min r.desc.cs (at2 q s d)
      let b := min (g * 4096) (at2 y s d)
      let done := r.demand s d - at2 y s d
      (set2 q s d (at2 q s d - g), set2 y s d (at2 y s d - b), d :: taken, gs ++ [⟨r.j, s, d, b, r.roff s d + done, done⟩]))
    (r.q, r.y, [], [])
  { r with q := z.1, y := z.2.1, current := z.2.2.2, gacks := 2 * z.2.2.2.length }

/-- The peal before its first change. -/
def XArb.begin (r : XArb) : XArb :=
  let n := r.desc.n
  let mat (f : Nat → Nat → Nat) : List (List Nat) := (List.range n).map fun s => (List.range n).map fun d => f s d
  { r with started := true, j := 0, q := mat fun s d => (r.demand s d + 4095) / 4096, y := mat r.demand }

/-- Computes the change that is next and sends its grants to both ends (06 R157). -/
def State.grantNext (s : State) (d : Nat) (r : XArb) : State :=
  let c := r.change
  let me := s.xself d
  (s.sendAll (c.current.flatMap fun g =>
    [.grant ⟨nth r.desc.eps g.src, me⟩ r.xid r.round g r.standby, .grant ⟨nth r.desc.eps g.dst, me⟩ r.xid r.round g r.standby])).setArb d c

/-- RING to every endpoint, and to the standby when it is none of them. -/
def State.sendRing (s : State) (d : Nat) (r : XArb) (j : Nat) (fin : Bool) : State :=
  let me := s.xself d
  let t := s.toAll r.desc fun e => .ring ⟨e, me⟩ r.xid r.round j fin r.standby
  if r.standby || r.desc.eps.contains r.desc.stby then t else t.send (.ring ⟨r.desc.stby, me⟩ r.xid r.round j fin false)

/-- RING(j) once every GRANT of change j has been answered and every endpoint has completed change j - 1; after the last
change, RING END (06 R157). -/
def State.advance (s : State) (d : Nat) (r : XArb) : State :=
  if r.gacks = 0 ∧ (r.ringed.isNone ∨ r.chdone.length = r.desc.n) then
    if r.current.isEmpty then (s.sendRing d r r.j true).delArb d r 0 []
    else (s.sendRing d r r.j false).grantNext d { r with ringed := some r.j, chdone := [], j := r.j + 1 }
  else s.setArb d r

/-- The arbiter starts a round that it holds every row of (06 R154, R155). -/
def State.startRound (s : State) (d : Nat) (r : XArb) : State :=
  let t := s.sendAll (r.desc.eps.zipIdx.map fun e =>
    .layout ⟨e.1, s.xself d⟩ r.xid r.round (((List.range r.desc.n).map fun i => r.demand i e.2).foldl (· + ·) 0))
  let u := t.grantNext d r.begin
  match u.arb d r.xid r.round fun a => !a.standby with
  | some a => u.advance d a
  | none => u

/-! ### Demand (06 R149, R152-R155) -/

/-- The fields that a DEMAND carries (06 Table 6.2). -/
def carried (f : XDesc) : Nat × Nat × Nat × Bool × Nat × Nat × W64 := (f.n, f.cs, f.segc, f.carry, f.arb, f.stby, f.xid)

/-- The first DEMAND of a round at its arbiter or standby: it binds a context, or aborts the round with NOCTX (06 R149). -/
def State.openArb (s : State) (d src round : Nat) (stby : Bool) (i : Nat) (row : List Nat) (f : XDesc) : State :=
  let r : XArb := { xid := f.xid, round := round, standby := stby, desc := f, rows := [(i, row)] }
  let (t, bound) := s.bindX d f.xid
  if bound then t.setArb d r
  else if stby then (t.send (.xabort f.arb (s.xself d) f.xid round 6 true)).delArb d r 6 [src]
  else t.abortRound d r 6 [src]

/-- A DEMAND of a round that has been aborted: its endpoint is told (06 R154). The first one brings the fields that the record of an
XABORT which came before it lacks, and with them every endpoint is told. -/
def State.lateDemand (s : State) (d src : Nat) (r : XArb) (reason : Nat) (f : XDesc) : State :=
  let t := if r.standby then s
    else if r.desc.n = 0 then s.sendAbort d f r.round reason
    else s.send (.xabort src (s.xself d) r.xid r.round reason false)
  t.delArb d { r with desc := if r.desc.n = 0 then f else r.desc } reason (insertNat r.heard src)

/-- DEMAND: the die answers, and takes the row into its record of the round. A second DEMAND of one endpoint for a round that is over
is of a group that has been bound anew. -/
def execDemand (die src round : Nat) (row : List Nat) (f : XDesc) (s : State) : Host.Outcome State Fault Refusal :=
  .next (s.deliver die (.demand die src round row f) fun s d =>
    let s := s.send (.dack src die f.xid round)
    let stby := die != f.arb
    -- what stands of other rounds is over, but for an abort that an endpoint has yet to hear of
    let old (a : XArb) : Bool := a.standby == stby && a.xid == f.xid && a.round != round &&
      (match a.gone with | some e => e == 0 | none => a.standby)
    let s := s.modDie d fun x => { x with xarbs := x.xarbs.filter fun a => !old a }
    match f.eps.findIdx? (· == src) with
    | none => s
    | some i =>
      match s.arbOf d f.xid round stby with
      | none => s.openArb d src round stby i row f
      | some r =>
        match r.gone with
        | some e =>
          if e = 0 || r.heard.contains src then
            (s.modDie d fun x => { x with xarbs := x.xarbs.filter fun a => !a.same r }).openArb d src round stby i row f
          else s.lateDemand d src r e f
        | none =>
          if carried r.desc ≠ carried f then if stby then s else s.abortRound d r 1 [src]
          else if r.started then s
          else
            let r := { r with rows := Store.put r.rows i row }
            if !r.full then s.setArb d r
            else if stby then s.setArb d r.begin
            else s.startRound d r)

/-- DACK: the second completes the DPOST that waits for it, whatever has become of its round. -/
def execDack (die src : Nat) (xid : W64) (round : Nat) (s : State) : Host.Outcome State Fault Refusal :=
  .next (s.deliver die (.dack die src xid round) fun s d =>
    match (s.die d).xposts.find? fun p => p.xid == xid && p.round == round && p.dacks.contains src with
    | none => s
    | some p =>
      let left := p.dacks.filter (· != src)
      if left.isEmpty then (s.modDie d fun x => { x with xposts := x.xposts.erase p }).finishSome (some p.cmd) ESt.ok
      else s.modDie d fun x => { x with xposts := x.xposts.map fun q => if q = p then { p with dacks := left } else q })

/-- LAYOUT: the receive area is checked over what will arrive. -/
def execLayout (w : Way) (xid : W64) (round total : Nat) (s : State) : Host.Outcome State Fault Refusal :=
  .next (s.deliver w.die (.layout w xid round total) fun s d => s.atEndpoint d xid round fun x _ =>
    s.setX d { x with recvBad := if total = 0 then none else (engCheck x.recv .store x.recv.cursor total).map (·.st) })

/-- POSTT_EXPIRY: the round aborts with MISSING. -/
def execPosttExpiry (die : Nat) (xid : W64) (round : Nat) (s : State) : Host.Outcome State Fault Refusal :=
  .next (match s.arb (xdie die) xid round fun r => !r.standby && !r.started && r.desc.postt != 0 with
    | some r => s.abortRound (xdie die) r 3 []
    | none => s)

/-- An XABORT at the arbiter, or at the standby that acts as one: it aborts the round. Before the round's first DEMAND, it is kept
for it; where the round is over, the endpoint has been heard of. -/
def State.abortAsked (s : State) (d src : Nat) (xid : W64) (round reason : Nat) : State :=
  -- the standby asks for NOCTX, and is not heard of as an endpoint by it
  let who := if reason = 6 then [] else [src]
  match s.arb d xid round XArb.leads with
  | some r => s.abortRound d r reason who
  | none =>
    match (s.die d).xarbs.find? fun r => r.xid == xid && !r.standby && (r.gone.isNone || r.round == round) with
    | none =>
      s.setArb d { xid := xid, round := round, standby := false, gone := some reason, heard := who
                   desc := ⟨0, 0, 0, false, 0, 0, xid, 0, 0, []⟩ }
    | some r =>
      match r.gone with
      | some 0 => s
      | some e => if r.desc.n = 0 then s.setArb d { r with heard := who.foldl insertNat r.heard } else s.delArb d r e (who.foldl insertNat r.heard)
      | none => s

/-- XABORT: at the arbiter it aborts the round; at an endpoint, and at a standby, the round ends. -/
def execXabort (die src : Nat) (xid : W64) (round reason : Nat) (toArb : Bool) (s : State) :
    Host.Outcome State Fault Refusal :=
  .next (s.deliver die (.xabort die src xid round reason toArb) fun s d =>
    if toArb then s.abortAsked d src xid round reason
    else
      let s := match s.arb d xid round fun r => r.standby && !r.acting with
        | some r => s.delArb d r reason (r.from_.foldl insertNat [])
        | none => s
      match (s.xctx d xid).filter fun x => x.isOpen && x.round == round with
      | some x =>
        let fromStby := match x.desc with | some f => src == f.stby | none => false
        if x.stbyOnly && !fromStby then s else s.xEndRound d x (some reason)
      | none => s)

/-! ### Grants and rings (06 R157, R159) -/

/-- GRANT: queued, unless it repeats a queued grant or a change already completed; answered in any case. -/
def execGrant (w : Way) (xid : W64) (round : Nat) (g : XGrant) (stby : Bool) (s : State) : Host.Outcome State Fault Refusal :=
  .next (s.deliver w.die (.grant w xid round g stby) fun s d => s.atEndpoint d xid round fun x f =>
    if x.stbyOnly && !stby then s
    else
      let old := x.grants.contains g || match x.last with | some l => decide (g.change ≤ l) | none => false
      (s.send (.gack (if stby then f.stby else f.arb) w.die xid round g.change)).setX d
        { x with grants := if old then x.grants else x.grants ++ [g] })

/-- GACK. -/
def execGack (die src : Nat) (xid : W64) (round change : Nat) (s : State) : Host.Outcome State Fault Refusal :=
  .next (s.deliver die (.gack die src xid round change) fun s d =>
    match s.arb d xid round fun r => r.leads && r.started && r.j == change && decide (0 < r.gacks) with
    | some r => s.advance d { r with gacks := r.gacks - 1 }
    | none => s)

/-- CHDONE. -/
def execChdone (die src : Nat) (xid : W64) (round change : Nat) (s : State) : Host.Outcome State Fault Refusal :=
  .next (s.deliver die (.chdone die src xid round change) fun s d =>
    match s.arb d xid round fun r => r.leads && r.ringed == some change with
    | some r =>
      match r.desc.eps.findIdx? (· == src) with
      | some i => if r.chdone.contains i then s else s.advance d { r with chdone := insertNat r.chdone i }
      | none => s
    | none => s)

/-- A RING as the standby sees it: the count of RINGT starts again, and with END its record goes. -/
def State.ringStandby (s : State) (d : Nat) (xid : W64) (round change : Nat) (fin : Bool) : State :=
  match s.arb d xid round fun r => r.standby && !r.acting with
  | some r => if fin then s.delArb d r 0 [] else s.setArb d { r with ringed := some change }
  | none => s

/-- RING: change `j` starts at the endpoint, or with END the round ends there, once an XSEND that has been issued has
started. An endpoint that has completed the change answers the standby at once (06 R166). -/
def execRing (w : Way) (xid : W64) (round change : Nat) (fin stby : Bool) (s : State) : Host.Outcome State Fault Refusal :=
  .next (s.deliver w.die (.ring w xid round change fin stby) fun s d =>
    let s := if stby then s else s.ringStandby d xid round change fin
    s.atEndpoint d xid round fun x f =>
      if x.stbyOnly && !stby then s
      else if fin then
        if x.xsend.isSome && x.acts.isNone then s.again (.ring w xid round change fin stby)
        else s.xEndRound d { x with failover := stby } none
      else if stby && (match x.last with | some l => decide (change ≤ l) | none => false) then
        s.send (.chdone f.stby w.die xid round change)
      else s.xGo d { x with rung := some change, suspected := false })

/-! ### Segments (06 R159-R164) -/

/-- The receive slot of a grant. -/
def XCtx.slotOf (x : XCtx) (g : XGrant) : XSlot :=
  match x.recvSlot with
  | some k => if k.g = g then k else ⟨g, 0, 0, 0, false⟩
  | none => ⟨g, 0, 0, 0, false⟩

/-- Bytes of a receive slot are accounted for. -/
def XCtx.accept (x : XCtx) (g : XGrant) (n : Nat) : XCtx :=
  let k := x.slotOf g
  { x with recvSlot := some { k with acct := k.acct + n, ended := k.ended || decide (g.bytes ≤ k.acct + n) } }

/-- The receiver refuses a segment. -/
def State.refuse (s : State) (d : Nat) (x : XCtx) (f : XDesc) (g : XGrant) (off len ecode : Nat) : State :=
  (s.send (.snak ⟨nth f.eps g.src, s.xself d⟩ x.xid x.round g off len ecode)).xGo d { x.accept g len with partSt := true }

/-- Whether a message between two packages is lost: no link stands (06 R171). -/
def State.lost (s : State) (a b : Nat) : Bool := (a % 512 != s.pkg || b % 512 != s.pkg) && (s.linkFor 0 0).isNone

/-- A segment that no link can carry is refused with ECODE 0x08, at its sender and at its receiver (06 R171). -/
def State.deliverSeg (s : State) (die src : Nat) (i no : Instr) (f : State → Nat → State) : State :=
  if die % 512 ≠ s.pkg ∧ s.lost die src then s.send no else s.deliver die i f

/-- SEG: the receiving die's exchange engine writes the segment. Once its bytes are performed, they are accounted for and
answered as those of a SKIPSEG are. -/
def execSeg (w : Way) (xid : W64) (round : Nat) (g : XGrant) (off : Nat) (bytes : List Byte) (s : State) :
    Host.Outcome State Fault Refusal :=
  .next (s.deliverSeg w.die w.src (.seg w xid round g off bytes) (.snak ⟨w.src, w.die⟩ xid round g off bytes.length ESt.ecc) fun s d =>
    s.atEndpoint d xid round fun x f =>
      if !x.grants.contains g then s
      else if s.lost w.die w.src then s.refuse d x f g off bytes.length ESt.ecc
      else match x.recvBad with
        | some e => s.refuse d x f g off bytes.length e
        | none =>
          let va := x.recv.cursor + g.roff + off
          let sid := 1024 * s.fresh + 1023
          let e := xeng d x.asid
          let r := s.engMove e [] [] (pageList va bytes.length) .store sid fun _ _ qs =>
            (pageList va bytes.length).filterMap fun p =>
              if (engPa qs p.1).isSome then some (.put ⟨p.1, (bytes.drop (p.1 - va)).take p.2, false, none⟩) else none
          match r.fin with
          | none => r.st.again (.seg w xid round g off bytes)
          | some y =>
            let (t, acks) := r.st.bump.moveAll e none r.pages sid r.todo
            if y.st ≠ ESt.ok then t.refuse d x f g off bytes.length y.st
            else
              let x := { x with recvSlot := some (x.slotOf g), rcvd := Store.put x.rcvd g.src (Store.get 0 x.rcvd g.src + bytes.length) }
              (t.setX d x).await d ⟨sid, 0, 0, false, acks, [.skipseg w xid round g off bytes.length]⟩)

/-- SKIPSEG. -/
def execSkipseg (w : Way) (xid : W64) (round : Nat) (g : XGrant) (off count : Nat) (s : State) :
    Host.Outcome State Fault Refusal :=
  .next (s.deliver w.die (.skipseg w xid round g off count) fun s d => s.atEndpoint d xid round fun x f =>
    if !x.grants.contains g then s
    else (s.send (.sack ⟨nth f.eps g.src, w.die⟩ xid round g off count)).xGo d (x.accept g count))

/-- One more segment of a send slot has been answered. -/
def XCtx.answered (x : XCtx) (g : XGrant) : XCtx :=
  match x.send with
  | some k => if k.g = g then { x with send := some { k with wait := k.wait - 1 } } else x
  | none => x

/-- SACK. -/
def execSack (w : Way) (xid : W64) (round : Nat) (g : XGrant) (off len : Nat) (s : State) :
    Host.Outcome State Fault Refusal :=
  .next (s.deliver w.die (.sack w xid round g off len) fun s d => s.atEndpoint d xid round fun x _ => s.xGo d (x.answered g))

/-- SNAK: the sender logs the segment. -/
def execSnak (w : Way) (xid : W64) (round : Nat) (g : XGrant) (off len ecode : Nat) (s : State) :
    Host.Outcome State Fault Refusal :=
  .next (s.deliver w.die (.snak w xid round g off len ecode) fun s d => s.atEndpoint d xid round fun x _ =>
    s.xGo d ((x.answered g).logFault ⟨len, g.poff + off, g.roff + off, ecode, false, g.dst⟩))

/-- SHORT: the pair's receive slot ends, once what has been written for it is performed. -/
def execShort (w : Way) (xid : W64) (round : Nat) (g : XGrant) (s : State) : Host.Outcome State Fault Refusal :=
  .next (s.deliver w.die (.short w xid round g) fun s d => s.atEndpoint d xid round fun x _ =>
    let writing := (s.die d).pends.any fun p => p.next.any fun i => match i with
      | .skipseg ⟨e, _⟩ y k h _ _ => e == w.die && y == xid && k == round && h == g
      | _ => false
    if !x.grants.contains g then s
    else if writing then s.again (.short w xid round g)
    else s.xGo d { x with recvSlot := some { x.slotOf g with ended := true } })

/-! ### Failover (06 R166, R167) -/

/-- RINGT_EXPIRY: an endpoint that has completed a change and has seen no next RING tells the standby. -/
def execRingtExpiry (die : Nat) (xid : W64) (round : Nat) (s : State) : Host.Outcome State Fault Refusal :=
  .next (s.atEndpoint (xdie die) xid round fun x f =>
    if x.last.isSome && x.last == x.rung && !x.suspected && !x.stbyOnly then
      (s.setX (xdie die) { x with suspected := true }).send (.suspect f.stby die xid round x.last)
    else s)

/-- The standby takes over: it stops the arbiter and asks every endpoint for its last change. -/
def State.takeover (s : State) (d : Nat) (r : XArb) : State :=
  let me := s.xself d
  ((s.send (.arbstop ⟨r.desc.arb, me⟩ r.xid r.round)).toAll r.desc fun e => .lastq ⟨e, me⟩ r.xid r.round).setArb d { r with acting := true, lastas := [] }

/-- STANDBY_RINGT_EXPIRY. -/
def execStandbyRingtExpiry (die : Nat) (xid : W64) (round : Nat) (s : State) : Host.Outcome State Fault Refusal :=
  .next (match s.arb (xdie die) xid round fun r => r.standby && !r.acting && r.started && r.ringed.isSome with
    | some r => s.takeover (xdie die) r
    | none => s)

/-- SUSPECT: the first makes the standby take over; it waits for rows still on their way. -/
def execSuspect (die src : Nat) (xid : W64) (round : Nat) (last : Option Nat) (s : State) : Host.Outcome State Fault Refusal :=
  .next (s.deliver die (.suspect die src xid round last) fun s d =>
    match s.arb d xid round fun r => r.standby && !r.acting with
    | some r => if r.started then s.takeover d r else s.again (.suspect die src xid round last)
    | none => s)

/-- ARBSTOP. -/
def execArbstop (w : Way) (xid : W64) (round : Nat) (s : State) : Host.Outcome State Fault Refusal :=
  .next (s.deliver w.die (.arbstop w xid round) fun s d =>
    match s.arb d xid round fun r => !r.standby with
    | some r => s.delArb d r 0 []
    | none => s)

/-- LASTQ: answered once the endpoint's current slots have ended; by an endpoint at which the round has ended, at once. -/
def execLastq (w : Way) (xid : W64) (round : Nat) (s : State) : Host.Outcome State Fault Refusal :=
  .next (s.deliver w.die (.lastq w xid round) fun s d =>
    match (s.xctx d xid).filter fun x => x.endpoint && x.round == round with
    | none => s
    | some x =>
      if x.isOpen then s.xGo d { x with lastq := true }
      else match x.abort, x.desc with
        | none, some f => s.send (.lasta f.stby w.die xid round x.last)
        | _, _ => s)

/-- The peal is replayed below change `m`, and goes on from there. -/
def XArb.replayTo : Nat → XArb → XArb
  | 0, r => r
  | n + 1, r => XArb.replayTo n { r.change with j := r.j + 1 }

/-- LASTA: with the last answer the standby acts as arbiter from the first change that some endpoint has not completed. -/
def execLasta (die src : Nat) (xid : W64) (round : Nat) (last : Option Nat) (s : State) : Host.Outcome State Fault Refusal :=
  .next (s.deliver die (.lasta die src xid round last) fun s d =>
    match s.arb d xid round fun r => r.standby && r.acting && decide (r.lastas.length < r.desc.n) with
    | none => s
    | some r =>
      match r.desc.eps.findIdx? (· == src) with
      | none => s
      | some i =>
        let r := { r with lastas := Store.put r.lastas i last }
        if r.lastas.length < r.desc.n then s.setArb d r
        else
          let m := ((r.lastas.map fun e => match e.2 with | some l => l + 1 | none => 0).min?).getD 0
          let t := s.grantNext d { XArb.replayTo m r.begin with ringed := none, chdone := [] }
          match t.arb d xid round (·.standby) with
          | some a => t.advance d a
          | none => t)

/-- ARBLOST_EXPIRY: neither RING nor LASTQ has come from the standby. -/
def execArblostExpiry (die : Nat) (xid : W64) (round : Nat) (s : State) : Host.Outcome State Fault Refusal :=
  .next (s.atEndpoint (xdie die) xid round fun x f =>
    if x.suspected && !x.lastq then s.xEarly (xdie die) x (some f.arb) 4 else s)

end Sys2Proof.Machine
end

