-- ==== Sys2Proof/Machine/EvPlatform.lean ====
section
/-! DEFINITION. Device registers, the loader, boot, leases, errors, wear and the sideband (02 R67-R69, R81; 13 R347-R351;
15 R375; 16 R396, R399, R403; 20 R421-R434). -/

namespace Sys2Proof.Machine

/-! ### Device registers (02 R67, 07 R189, 15 R375, 16 R396, R399, R403, 20 R430) -/

/-- A register of the map. -/
inductive DReg where
  | l2ctl (die : Nat)
  | res (die n : Nat) (hi : Bool)
  | lth (die : Nat)
  | prectl (die : Nat)
  | wdctl (die : Nat)
  | pgbase (die : Nat)
  | pgack (die : Nat)
  | pglost (die : Nat)
  | queue (part q off : Nat)
  | range (part q n : Nat)
  | evbase (part : Nat)
  | evack (part : Nat)
  | evlost (part : Nat)
  deriving DecidableEq, Repr

/-- The register at a local address, a multiple of 8; none where the manual describes none. -/
def regAt (a : Nat) : Option DReg :=
  if 0x20000000000 ≤ a ∧ a < 0x20008000000 then
    let d := (a - 0x20000000000) / 0x1000000
    let o := a % 0x1000000
    if o = 0 then some (.l2ctl d)
    else if 0x100 ≤ o ∧ o < 0x180 then some (.res d ((o - 0x100) / 16) (o % 16 == 8))
    else if o = 0x200 then some (.lth d)
    else if o = 0x300 then some (.prectl d)
    else if o = 0x308 then some (.wdctl d)
    else if o = 0x310 then some (.pgbase d)
    else if o = 0x318 then some (.pgack d)
    else if o = 0x320 then some (.pglost d)
    else none
  else if 0x20040000000 ≤ a ∧ a < 0x20040020000 then
    let p := (a - 0x20040000000) / 0x4000
    let q := a % 0x4000 / 0x100
    let o := a % 0x100
    if 0x80 ≤ o then some (.range p q ((o - 0x80) / 8))
    else if [0x00, 0x08, 0x10, 0x18, 0x28, 0x30, 0x38, 0x40, 0x48, 0x50, 0x58].contains o then some (.queue p q o)
    else none
  else if 0x20040080000 ≤ a ∧ a < 0x20040080800 then
    let p := (a - 0x20040080000) / 0x100
    let o := a % 0x100
    if o = 0 then some (.evbase p) else if o = 8 then some (.evack p) else if o = 16 then some (.evlost p) else none
  else none

/-- The value that a register reads as. -/
def State.regRead (s : State) : DReg → W64
  | .l2ctl d => (s.die d).l2ctl
  | .res d n hi => (Store.get 0 (s.die d).res n).extractLsb' (if hi then 64 else 0) 64
  | .lth d => (s.die d).lth
  | .prectl d => (s.die d).prectl
  | .wdctl d => (s.die d).wdctl
  | .pgbase d => (s.die d).pgbase
  | .pgack d => (s.die d).pgack
  | .pglost d => (s.die d).pglost
  | .range p q n => Store.get 0 (s.queue p q).ranges n
  | .evbase p => (s.part p).evbase
  | .evack p => (s.part p).evack
  | .evlost p => (s.part p).evlost
  | .queue p q o =>
    let x := s.queue p q
    match o with
    | 0x00 => x.qbase
    | 0x08 => x.qcfg
    | 0x10 => x.opmask
    | 0x18 => x.doorbell.zeroExtend 64
    | 0x28 => BitVec.ofNat 64 (x.consumed.toNat + x.state * 2 ^ 32)
    | 0x30 => x.cplbase
    | 0x38 => x.cplack.zeroExtend 64
    | 0x40 => x.ctrl
    | 0x48 => BitVec.ofNat 64 x.qtl
    | 0x50 => x.irqaddr
    | _ => x.irqdata

/-- The bits that a write reaches: nonzero writes to reserved fields are ignored (00 R7), and read-only registers have
none. -/
def DReg.mask : DReg → W64
  | .l2ctl _ => 0x1F
  | .res _ _ false => 0x000FFFFFFFFF8001
  | .res _ _ true => 0x000FFFFFFFFF8F0F
  | .lth _ => 0xFF01FFFF0000FFFF
  | .prectl _ => 0x1FFFFFFFF
  | .wdctl _ => 0x1FFFFFFFF
  | .pgbase _ => 0x000FFFFFFFFFF00F
  | .pgack _ => 0xFFFFFFFFFFFFFFFF
  | .pglost _ => 0
  | .range _ _ n => if n % 2 = 0 then 0xFFFFFFFFFFFF8000 else 0xFFFFFFFFFFFFFFFF
  | .evbase _ => 0x000FFFFFFFFFF00F
  | .evack _ => 0xFFFFFFFFFFFFFFFF
  | .evlost _ => 0
  | .queue _ _ o =>
    match o with
    | 0x00 => 0x000FFFFFFFFFF000
    | 0x08 => 0x3FFFFF
    | 0x10 => 0xFFFFFFFFFFFFFFFF
    | 0x18 => 0xFFFFFFFF
    | 0x30 => 0x000FFFFFFFFFF00F
    | 0x38 => 0xFFFFFFFF
    | 0x40 => 0x1FFFFFFFF
    | 0x50 => 0xFFFFFFFFFFFFFFFC
    | 0x58 => 0xFFFFFFFF
    | _ => 0

/-- Retained lines turn to the normal class where they stand (02 R68). -/
def Die.unretain (d : Die) (p : Nat → Bool) : Die :=
  { d with l2 := d.l2.map fun e => match e.cls with
      | .retained n => if p n then ⟨e.pa, .normal⟩ else e
      | .first => e
      | .normal => e }

/-- A write of L2CTL: when RESMODE changes, the lines that the old mode retained turn to the normal class (02 R68). -/
def State.writeL2ctl (s : State) (d : Nat) (v : W64) : State :=
  s.modDie d fun x => { (if x.l2ctl.getLsbD 4 = v.getLsbD 4 then x else x.unretain fun n => (n == 8) != v.getLsbD 4) with l2ctl := v }

/-- EN, BASE, LEN and WAYS of a range, and whether S disables it. -/
def resShape (r : BitVec 128) : Nat × Bool :=
  (bitsAt r.toNat 0 72, decide (bitsAt r.toNat 72 4 ≤ 8) && r.getLsbD 0)

/-- A write of half of RESn: a range that is disabled, or whose BASE, LEN or WAYS change, gives up its lines. -/
def State.writeRes (s : State) (d n : Nat) (hi : Bool) (v : W64) : State :=
  s.modDie d fun x =>
    let old := Store.get 0 x.res n
    let new := BitVec.ofNat 128 (setBits old.toNat (if hi then 64 else 0) 64 v.toNat)
    let same := resShape old == resShape new && bitsAt old.toNat 79 37 == bitsAt new.toNat 79 37
    { (if same then x else x.unretain (· == n)) with res := Store.put x.res n new }

/-- A write to a register. QCFG with EN newly set enables the queue, and without it the queue stops. -/
def State.regWrite (s : State) (r : DReg) (w : W64) : State :=
  let v := (s.regRead r &&& ~~~r.mask) ||| (w &&& r.mask)
  match r with
  | .l2ctl d => s.writeL2ctl d v
  | .res d n hi => s.writeRes d n hi v
  | .lth d => s.modDie d fun x => { x with lth := v }
  | .prectl d => s.modDie d fun x => { x with prectl := v }
  | .wdctl d => s.modDie d fun x => { x with wdctl := v }
  | .pgbase d => s.modDie d fun x => { x with pgbase := v }
  | .pgack d => s.modDie d fun x => { x with pgack := v }
  | .pglost _ => s
  | .range p q n => s.modQueue p q fun x => { x with ranges := Store.put x.ranges n v }
  | .evbase p => s.modPart p fun x => { x with evbase := v }
  | .evack p => s.modPart p fun x => { x with evack := v }
  | .evlost _ => s
  | .queue p q o =>
    match o with
    | 0x00 => s.modQueue p q fun x => { x with qbase := v }
    | 0x08 =>
      let was := (s.queue p q).qcfg.getLsbD 21
      let t := s.modQueue p q fun x => { x with qcfg := v }
      if v.getLsbD 21 then (if was then t else t.enableQueue p q) else t.modQueue p q fun x => { x with state := 0 }
    | 0x10 => s.modQueue p q fun x => { x with opmask := v }
    | 0x18 => s.ring p q (v.truncate 32)
    | 0x30 => s.modQueue p q fun x => { x with cplbase := v }
    | 0x38 => s.modQueue p q fun x => { x with cplack := v.truncate 32 }
    | 0x40 => s.resume p q v
    | 0x50 => s.modQueue p q fun x => { x with irqaddr := v }
    | 0x58 => s.modQueue p q fun x => { x with irqdata := v }
    | _ => s

/-- The registers of the 64-bit words that `n` bytes at an address touch: the first word that has none, or all. -/
def regsAt (pa n : Nat) : Except Nat (List (Nat × DReg)) :=
  ((List.range ((pa % 8 + n + 7) / 8)).map fun i => pa / 8 * 8 + 8 * i).mapM fun a =>
    match regAt a with
    | some r => .ok (a, r)
    | none => .error a

/-- MMIO_ACCESS (02 R81): a load or store at the registers that hold its bytes. An access of less than a word takes part of
the word. -/
def execMmioAccess (r : Req) (s : State) : Host.Outcome State Fault Refusal :=
  let pa := localOf r.pa
  match regsAt pa r.len with
  | .error a => .refused (.unknownRegister a)
  | .ok regs =>
    let bs := (actBytes r.act).1
    if bs.isEmpty then
      let all := regs.flatMap fun e => bytesOf 8 (s.regRead e.2).toNat
      .next (s.partDone r.op r.lane r.part ((all.drop (pa % 8)).take r.len) false)
    else
      .next ((regs.foldl (fun t e =>
        let old := bytesOf 8 (t.regRead e.2).toNat
        let new := old.zipIdx.map fun x => if pa ≤ e.1 + x.2 then bs.getD (e.1 + x.2 - pa) x.1 else x.1
        t.regWrite e.2 (BitVec.ofNat 64 (natOf new))) s).partAck r.op)

/-- Whether a register is the doorbell of a queue: the host's write of it is a release, which covers the writes that the host made to
the package before it (03 R103). -/
def DReg.isDoorbell : DReg → Bool
  | .queue _ _ o => o == 0x18
  | .l2ctl _ => false
  | .res _ _ _ => false
  | .lth _ => false
  | .prectl _ => false
  | .wdctl _ => false
  | .pgbase _ => false
  | .pgack _ => false
  | .pglost _ => false
  | .range _ _ _ => false
  | .evbase _ => false
  | .evack _ => false
  | .evlost _ => false

/-- REGISTER_WRITE: a write of a whole register by firmware or the host. -/
def execRegisterWrite (addr : Nat) (v : W64) (s : State) : Host.Outcome State Fault Refusal :=
  match regAt addr with
  | none => .refused (.unknownRegister addr)
  | some r => .next (if r.isDoorbell && !s.outsideDone then s.later else s.regWrite r v)

def execL2ctlWrite (die : Nat) (v : W64) (s : State) : Host.Outcome State Fault Refusal := .next (s.regWrite (.l2ctl die) v)

def execResWrite (die n : Nat) (hi : Bool) (v : W64) (s : State) : Host.Outcome State Fault Refusal :=
  .next (s.regWrite (.res die n hi) v)

/-! ### The loader (13 R347-R351) -/

/-- A segment of an image as the loader finds it. -/
structure Segment where
  entry : List Byte
  bytes : List Byte
  sig   : List Byte
  caps  : List Nat
  deriving DecidableEq, Repr

/-- Fields of a segment entry (13 Table 13.10). -/
structure SegInfo where
  kind : Nat
  algn : Nat
  kern : Nat
  size : Nat
  voff : Nat
  foff : Nat
  sigo : Nat
  resv : Bool
  deriving DecidableEq, Repr

def entryInfo (entry : List Byte) : SegInfo :=
  let n := natOf (entry.take 128)
  ⟨bitsAt n 0 8, bitsAt n 8 8, bitsAt n 16 16, bitsAt n 32 32, bitsAt n 64 64, bitsAt n 128 64, bitsAt n 192 64,
    bitsAt n 256 256 != 0 || entry.length != 128⟩

def segInfo (g : Segment) : SegInfo := entryInfo g.entry

/-- The length of a signature for a parameter set (13 R347). -/
def sigSize (pset : Nat) : Nat := if pset = 1 then 7856 else if pset = 2 then 16224 else 29792

def imgHeader (img : Image) : List Byte := img.file.take 256
def imgSegCount (img : Image) : Nat := bitsAt (natOf (imgHeader img)) 96 16
def imgPset (img : Image) : Nat := bitsAt (natOf (imgHeader img)) 112 8

/-- The segments of an image in table order: the bytes and the signature of each stand in the file where its entry says. -/
def imgSegs (img : Image) : List Segment :=
  (List.range (imgSegCount img)).map fun i =>
    let entry := (img.file.drop (256 + 128 * i)).take 128
    let g := entryInfo entry
    ⟨entry, (img.file.drop g.foff).take g.size, (img.file.drop g.sigo).take (sigSize (imgPset img)), img.caps.getD i []⟩

/-- The page class of a kind: 0 code, 1 read-only, 2 writable (13 R348). -/
def kindClass (k : Nat) : Nat := if k = 0 then 0 else if k = 2 ∨ k = 5 then 2 else 1

def kindAlign (k : Nat) : Nat := if k = 0 then 15 else if k = 3 ∨ k = 5 then 6 else if k = 4 then 5 else 4

/-- An entry is in order (13 R347, R348); one whose bytes or signature run past the file makes the image invalid (assumption 135). -/
def SegInfo.ok (g : SegInfo) (pset file : Nat) : Bool :=
  !g.resv && decide (g.kind ≤ 5) && decide (kindAlign g.kind ≤ g.algn) && decide (g.algn ≤ 35) && g.voff % 2 ^ g.algn == 0 &&
    decide (g.foff + g.size ≤ file) && decide (g.sigo + sigSize pset ≤ file)

/-- Two segments stand apart: they do not overlap, and of two classes they meet no common page. -/
def SegInfo.apart (a b : SegInfo) : Bool :=
  let unit := if kindClass a.kind = kindClass b.kind then 1 else 0x8000
  a.size == 0 || b.size == 0 || decide ((a.voff + a.size - 1) / unit < b.voff / unit) || decide ((b.voff + b.size - 1) / unit < a.voff / unit)

/-- Every pair of a list satisfies a test. -/
def pairwiseOk {α : Type} (p : α → α → Bool) : List α → Bool
  | [] => true
  | a :: r => r.all (p a) && pairwiseOk p r

/-- The size of a public key for a parameter set. -/
def pkSize (pset : Nat) : Nat := 16 + 16 * pset

/-- The header and the layout are in order, and firmware trusts the key (13 R347, R348, R349). -/
def State.imageOk (s : State) (img : Image) : Bool :=
  let n := natOf (imgHeader img)
  let pset := (imgPset img)
  let pk := ((imgHeader img).drop 16).take 64
  let gs := (imgSegs img).map segInfo
  decide (256 ≤ img.file.length) && bitsAt n 0 64 == 0x01000049524F4556 && bitsAt n 64 32 == 1
    && decide (1 ≤ (imgSegCount img)) && decide ((imgSegCount img) ≤ 1024) && decide (1 ≤ pset) && decide (pset ≤ 3)
    && bitsAt n 120 8 == 0 && n / 2 ^ 640 == 0 && (pk.drop (pkSize pset)).all (· == 0) && s.plat.trust.contains (pk.take (pkSize pset))
    && gs.all (·.ok pset img.file.length) && pairwiseOk SegInfo.apart gs

/-- Firmware installs the context of an address space that has none (01 R34). -/
def State.installCtx (s : State) (part asid ctx : Nat) : State :=
  match Store.find s.asids asid with
  | some _ => s
  | none =>
    let t := s.homeWriteNow ctx (bytesOf 64 (asid * 2 ^ 336 + part * 2 ^ 360))
    { t with asids := Store.put t.asids asid ctx }

/-- A new table, in a zeroed frame, and the frames that are left; `value` is what names it. -/
def State.newTable (s : State) (tables : List Nat) (at_ n : Nat) (value : Nat → Nat) : State × List Nat × Option Nat :=
  match tables with
  | [] => (s, [], none)
  | f :: r => ((s.zeroRange f 0x4000).homeWriteNow at_ (bytesOf n (value (f / 2 ^ 14 % 2 ^ 38))), r, some (f / 2 ^ 14 * 2 ^ 14))

/-- The level-0 entry of an address below a table, with the tables that are missing on the way (01 R26, R27). -/
def State.tableSlot (va : Nat) : Nat → Nat → List Nat → State → State × List Nat × Option Nat
  | 0, tbl, fs, s => (s, fs, some (tbl + bitsAt va 15 10 * 16))
  | l + 1, tbl, fs, s =>
    let at_ := tbl + bitsAt va (25 + 10 * l) 10 * 16
    let (s, n) := s.readNow at_ 16
    let p := Pte.ofNat n
    if p.v then (if p.leaf then (s, fs, none) else State.tableSlot va l p.npa fs s)
    else match s.newTable fs at_ 16 fun k => 1 + k * 2 ^ 16 with
      | (t, r, some tbl) => State.tableSlot va l tbl r t
      | (t, r, none) => (t, r, none)

/-- The level-0 entry of an address, with the tables that are missing, the T3 table among them: its TTB is then enabled (01 R24). -/
def State.pteSlot (s : State) (asid va : Nat) (fs : List Nat) : State × List Nat × Option Nat :=
  match Store.find s.asids asid with
  | none => (s, fs, none)
  | some ctx =>
    let at_ := ctx + 8 * bitsAt va 55 2
    let (s, n) := s.readNow at_ 8
    if n.testBit 0 then State.tableSlot va 3 (bitsAt n 14 38 * 2 ^ 14) fs s
    else match s.newTable fs at_ 8 fun k => 1 + k * 2 ^ 14 with
      | (t, r, some tbl) => State.tableSlot va 3 tbl r t
      | (t, r, none) => (t, r, none)

/-- A leaf as the loader writes it (13 R350), with no range hint. -/
def loaderLeaf (frame own : Nat) (x w zp : Bool) : Nat :=
  3 + (if w then 2 ^ 7 + 2 ^ 9 else 0) + (if x then 2 ^ 8 else 0) + 2 ^ 10 + (if zp then 2 ^ 13 else 0) + frame / 2 ^ 15 * 2 ^ 16 +
    own * 2 ^ 64 + 0xFFFF * 2 ^ 68

/-- Maps a page of an image; the frames that are left for tables go along. -/
def State.mapPage (asid : Nat) (x w zp : Bool) (t : State × List Nat) (page : Nat × Nat) : State × List Nat :=
  match t.1.pteSlot asid page.1 t.2 with
  | (u, fs, some a) => (u.homeWriteNow a (bytesOf 16 (loaderLeaf page.2 (u.partOf asid) x w zp)), fs)
  | (u, fs, none) => (u, fs)

/-- The pages of an image: virtual address and frame. -/
def imagePages (base : Nat) (frames : List Nat) : List (Nat × Nat) :=
  frames.zipIdx.map fun f => ((base / 0x8000 + f.2) * 0x8000, f.1)

/-- Where a virtual address of an image lies. -/
def imagePa (base : Nat) (frames : List Nat) (va : Nat) : Nat := frames.getD (va / 0x8000 - base / 0x8000) 0 + va % 0x8000

/-- A partition's AR takes more bytes (13 R349). -/
def State.extendAr (s : State) (part : Nat) (bs : List Byte) : State :=
  s.modPart part fun p => { p with ar := Config.shake256 (bytesOf 64 p.ar.toNat ++ bs) }

/-- Copies, measures and verifies the segments in order: the state, and the segment that fails. -/
def State.loadSegs (part base : Nat) (frames : List Nat) (pset : Nat) (pk : List Byte) :
    List (Segment × Nat) → State → State × Option Nat
  | [], s => (s, none)
  | (g, i) :: r, s =>
    let va := base + (segInfo g).voff
    let s := (pageList va g.bytes.length).foldl (fun t p =>
      t.homeWriteNow (imagePa base frames p.1) ((g.bytes.drop (p.1 - va)).take p.2)) s
    if Config.shake256 g.bytes ≠ BitVec.ofNat 512 (natOf (g.entry.drop 64)) then (s, some i)
    else if !Config.slhVerify pset pk g.entry g.sig then (s, some i)
    else State.loadSegs part base frames pset pk r (s.extendAr part g.entry)

/-- Whether the value at an offset of a segment is loaded with its tag (13 R351). -/
def admitCap (base : Nat) (gs : List SegInfo) (g : SegInfo) (bytes : List Byte) (o : Nat) : Bool :=
  let c : Cap := ⟨BitVec.ofNat 128 (natOf ((bytes.drop o).take 16)), true⟩
  let b := c.bounds
  let lo (j : SegInfo) : Int := (base + j.voff : Nat)
  let hi (j : SegInfo) : Int := (base + j.voff + j.size : Nat)
  decide (o + 16 ≤ g.size) && decide (c.e ≤ 33) &&
    if g.kind = 1 ∨ g.kind = 2 then
      (base + g.voff + o) % 16 == 0 && gs.any fun j =>
        decide (lo j ≤ b.base) && decide (b.top ≤ hi j) && (!c.x || j.kind == 0) && (!(c.st || c.atomics || c.sc) || j.kind == 2)
    else if g.kind = 3 then
      (base + g.voff + o) % 64 == 0 && c.perms == 8 && gs.any fun j =>
        j.kind == 0 && j.kern == g.kern && b.base == lo j && b.top == hi j
    else false

/-- The rights of each page of an image: X on the code class, W and AP on the writable class (13 R349). -/
def setRights (base : Nat) (gs : List SegInfo) (va c : Nat) : Bool :=
  gs.any fun g => kindClass g.kind == c && g.size != 0 && decide (base + g.voff < va + 0x8000) && decide (va < base + g.voff + g.size)

/-- IMAGE_LOAD (13 R349): refused, with its frames handed back for zeroing, or loaded. The frames are mapped with ZP = 1, and zeroed
before ZP is cleared and the segments go in (01 R44, 13 R350). The input names the context, frames and tables that firmware
gives the load (assumption 97). -/
def execImageLoad (part asid base : Nat) (room : LoadRoom) (img : Image) (s : State) : Host.Outcome State Fault Refusal :=
  .next (
    let pages := imagePages base room.frames
    let (s, fs) := pages.foldl (State.mapPage asid false false true) (s.installCtx part asid room.ctx, room.tables)
    let refuse (t : State) (i : Nat) : State :=
      let t := (pages.foldl (State.mapPage asid false false true) (t.extendAr part (List.replicate 64 0xFF), fs)).1
      { t with plat := { t.plat with loadErrs := t.plat.loadErrs ++ [(part, i)] } }
    let pk := (((imgHeader img).drop 16).take 64).take (pkSize (imgPset img))
    if !s.imageOk img then refuse s 0
    else
      let t := pages.foldl (fun t p => t.zeroRange p.2 0x8000) s
      let t := (pages.foldl (State.mapPage asid false false false) (t, fs)).1
      match State.loadSegs part base room.frames (imgPset img) pk (imgSegs img).zipIdx t with
      | (t, some i) => refuse t i
      | (t, none) =>
        let gs := (imgSegs img).map segInfo
        let t := ((imgSegs img).zip gs).foldl (fun t e =>
          (e.1.caps.filter (admitCap base gs e.2 e.1.bytes)).foldl (fun t o => t.setTag (imagePa base room.frames (base + e.2.voff + o)) true) t) t
        pages.foldl (fun t p => (State.mapPage asid (setRights base gs p.1 0) (setRights base gs p.1 2) false (t, fs) p).1) t)

/-! ### Boot (20 R422-R424, R433) -/

/-- The units that keep wear records: dies 0-7, HBM stacks 8-23. -/
def wearUnits : List Nat := List.range 24

def Platform.wearOf (p : Platform) (u : Nat) : Wear := Store.get {} p.wear u

def State.modWear (s : State) (u : Nat) (f : Wear → Wear) : State :=
  { s with plat := { s.plat with wear := Store.put s.plat.wear u (f (s.plat.wearOf u)) } }

/-- POWER_ON: every die begins stage 1, in which power cycles are counted and the ROM verifies the image in flash, or
enters recovery. -/
def execPowerOn (s : State) : Host.Outcome State Fault Refusal :=
  .next (if s.plat.powered then s
    else
      let t := wearUnits.foldl (fun t u => t.modWear u fun w => { w with pwr := w.pwr + 1 }) s
      let p := t.plat
      let good := Config.slhVerify Config.romKey.1 Config.romKey.2 p.flashImg p.flashSig
      { t with plat := { p with
        powered := true, recovery := !good, stage := if good then 1 else 0
        image := if good then p.flashImg else [], imageSig := if good then p.flashSig else [] } })

/-- The valid slot of the higher write count whose fingerprint is the current one, and its number (20 R424). -/
def Platform.slot (p : Platform) : Option (Nat × TrainSlot) :=
  let ok (t : TrainSlot) : Bool := t.valid && t.fingerprint == p.fingerprint
  match ok p.slot0, ok p.slot1 with
  | true, true => if p.slot1.writes ≤ p.slot0.writes then some (0, p.slot0) else some (1, p.slot1)
  | true, false => some (0, p.slot0)
  | false, true => some (1, p.slot1)
  | false, false => none

/-- QUICK_EYE_CHECK: stage 2. A lane passes when its eye area is at least 70 % of the stored area. -/
def execQuickEyeCheck (eyes : List (Nat × Nat)) (s : State) : Host.Outcome State Fault Refusal :=
  .next (if !(s.plat.powered && s.plat.stage == 1) then s
    else
      let stored (l : Nat) : Option Nat := s.plat.slot.bind fun t => (t.2.eyes.find? (·.1 == l)).map (·.2)
      let bad := eyes.filter fun e => match stored e.1 with | some a => decide (100 * e.2 < 70 * a) | none => true
      { s with plat := { s.plat with stage := 2, failedLanes := bad.map (·.1) } })

/-- FULL_TRAINING: stage 3 trains the lanes whose record is absent or failed, and the new results go to the slot that is
not in use. -/
def execFullTraining (results : List (Nat × Nat)) (s : State) : Host.Outcome State Fault Refusal :=
  .next (
    let p := s.plat
    if !(p.powered && p.stage == 2) then s
    else if p.failedLanes.isEmpty then { s with plat := { p with stage := 3 } }
    else
      let new := results.filter fun e => p.failedLanes.contains e.1
      let old := match p.slot with | some t => t.2.eyes | none => []
      let t : TrainSlot :=
        { valid := true, fingerprint := p.fingerprint, writes := max p.slot0.writes p.slot1.writes + 1
          eyes := old.filter (fun e => !(new.any fun x => x.1 == e.1)) ++ new }
      let p := { p with stage := 3, failedLanes := [] }
      { s with plat := match s.plat.slot with
        | some (0, _) => { p with slot1 := t }
        | some _ => { p with slot0 := t }
        | none => if p.slot1.writes ≤ p.slot0.writes then { p with slot1 := t } else { p with slot0 := t } })

/-- Claims of a die to every die (20 R426, R428). -/
def State.sendClaims (s : State) (die epoch : Nat) : State := s.sendAll (allDies.map fun d => .claim d die epoch)

/-- PARTITION_BUILD: stage 4 zeroes the dies, builds the partitions, and starts the leases; each die claims epoch 1 once its
own zeroing ends. -/
def execPartitionBuild (parts : List (Nat × Nat)) (s : State) : Host.Outcome State Fault Refusal :=
  .next (if !(s.plat.powered && s.plat.stage == 3) then s
    else
      let t := allDies.foldl State.zeroDie s
      let t := { t with
        plat := { t.plat with stage := 4 }
        parts := t.parts.map fun (e : Nat × Part) => (e.1, { e.2 with dies := [], diePtr := 0 }) }
      let t := parts.foldl (fun t e => t.modPart e.2 fun p => { p with dies := insertNat p.dies e.1 }) t
      let live := allDies.filter fun d => !(t.die d).failed
      live.foldl (fun t d => (t.modDie d fun x => { x with lease := { zeroed := true } }).sendClaims d 1) t)

/-- What the flash keeps of a wear record. -/
def Wear.kept (w : Wear) : Wear :=
  { wseq := w.wseq, pwr := w.pwr, flash := w.flash, sig := w.sig, h95 := bitsAt w.flash.toNat 224 32, t70 := bitsAt w.flash.toNat 160 32,
    t50 := bitsAt w.flash.toNat 128 32, t30 := bitsAt w.flash.toNat 96 32 }

/-- POWER_LOSS: what is not in flash is gone. A slot or record whose write it cuts short leaves the one before it. -/
def execPowerLoss (s : State) : Host.Outcome State Fault Refusal :=
  .next { State.reset with
    pkg := s.pkg, turns := s.turns, time := s.time, fresh := s.fresh, hostData := s.hostData, outbox := s.outbox
    mem := s.mem.filter fun e => mtOf (localOf e.1) == some 2 || pkgOf e.1 != s.pkg
    plat := { flashImg := s.plat.flashImg, flashSig := s.plat.flashSig, fingerprint := s.plat.fingerprint, slot0 := s.plat.slot0
              slot1 := s.plat.slot1, trust := s.plat.trust, lastWear := s.plat.lastWear, answers := s.plat.answers
              wear := s.plat.wear.map fun e => (e.1, e.2.kept) } }

/-! ### Firmware leases (20 R425-R428) -/

def State.modLease (s : State) (d : Nat) (f : Lease → Lease) : State := s.modDie d fun x => { x with lease := f x.lease }

/-- The dies whose acknowledgement or acceptance counts. -/
def State.liveDies (s : State) : List Nat := allDies.filter fun d => !(s.die d).failed && (s.die d).lease.zeroed

/-- LEASE_RENEWAL: every LL / 4 the leader sends its epoch to every die. -/
def execLeaseRenewal (die : Nat) (s : State) : Host.Outcome State Fault Refusal :=
  .next (
    let l := (s.die die).lease
    if !l.acting then s
    else (s.modLease die fun l => { l with acks := [] }).sendAll (allDies.map fun d => .renewal d die l.epoch))

/-- RENEWAL: accepted under an epoch that is not below the die's own, and acknowledged. A leader that receives a higher
epoch stops acting. -/
def execRenewal (die src epoch : Nat) (s : State) : Host.Outcome State Fault Refusal :=
  .next (
    let l := (s.die die).lease
    if (s.die die).failed || decide (epoch < l.epoch) then s
    else (s.modLease die fun l => { l with
      epoch := epoch, leader := some src, claimed := some src, heard := if src = die then l.heard else insertNat l.heard src
      acting := l.acting && !(decide (l.epoch < epoch)) }).send (.renewalAck src die epoch))

/-- RENEWAL_ACK. -/
def execRenewalAck (die src epoch : Nat) (s : State) : Host.Outcome State Fault Refusal :=
  .next (s.modLease die fun l => if l.acting && l.epoch == epoch then
    { l with acks := insertNat l.acks src, heard := if src = die then l.heard else insertNat l.heard src } else l)

/-- LEADER_TERM_END: the leader stops acting. -/
def execLeaderTermEnd (die : Nat) (s : State) : Host.Outcome State Fault Refusal :=
  .next (s.modLease die fun l => { l with acting := false })

/-- LEASE_LAPSE: a follower that has seen no renewal for LL + M claims the next epoch, when no lower-numbered die has been
heard from; the leader is not among those heard from. -/
def execLeaseLapse (die : Nat) (s : State) : Host.Outcome State Fault Refusal :=
  .next (
    let l := (s.die die).lease
    let heard := l.heard.filter fun d => l.leader != some d
    if l.acting || heard.any (· < die) then s.modLease die fun l => { l with heard := heard }
    else (s.modLease die fun l => { l with heard := heard, accepts := [], leader := none }).sendClaims die (l.epoch + 1))

/-- CLAIM: a die accepts the highest epoch, and of equal epochs the lower die; a claim that it has accepted ends its own. -/
def execClaim (die src epoch : Nat) (s : State) : Host.Outcome State Fault Refusal :=
  .next (
    let l := (s.die die).lease
    let better := decide (l.epoch < epoch) || (l.epoch == epoch && match l.claimed with | some c => decide (src ≤ c) | none => true)
    let t := if src = die then s else s.modLease die fun l => { l with heard := insertNat l.heard src }
    if (s.die die).failed || !better then t
    else (t.modLease die fun l => { l with
      epoch := epoch, claimed := some src, leader := if l.epoch < epoch then none else l.leader
      accepts := if src = die then l.accepts else [], acting := l.acting && !(decide (l.epoch < epoch)) }).send
        (.claimAcceptance src die epoch))

/-- The die leads under its epoch, and its first renewal starts the lease. -/
def State.lead (s : State) (die epoch : Nat) : State :=
  (s.modLease die fun l => { l with epoch := epoch, claimed := some die, leader := some die, acting := true, acks := [] }).sendAll
    (allDies.map fun d => .renewal d die epoch)

/-- CLAIM_ACCEPTANCE: the claimant leads once every live die has accepted its claim. -/
def execClaimAcceptance (die src epoch : Nat) (s : State) : Host.Outcome State Fault Refusal :=
  .next (
    let l := (s.die die).lease
    if l.epoch ≠ epoch ∨ l.claimed ≠ some die ∨ l.acting then s
    else
      let t := s.modLease die fun l => { l with accepts := insertNat l.accepts src, heard := if src = die then l.heard else insertNat l.heard src }
      if t.liveDies.all (t.die die).lease.accepts.contains then t.lead die epoch else t)

/-- SOLE_LEADER: a die that has heard from no other leads alone at epoch 1. -/
def execSoleLeader (die : Nat) (s : State) : Host.Outcome State Fault Refusal :=
  .next (
    let l := (s.die die).lease
    if l.zeroed && l.leader.isNone && l.heard.isEmpty && decide (l.epoch ≤ 1) then s.lead die 1 else s)

/-! ### Links, failures and errors (06 R171; 04 R128; 01 R20; 20 R421, R432) -/

/-- Thresholds of 20 Table 20.2, by STRUCT. -/
def errThreshold (struct : Nat) : Nat :=
  if struct = 0 then 4 else if struct = 4 then 8 else if struct = 5 ∨ struct = 6 then 1024 else 16

/-- A corrected error is counted; the count that reaches the threshold declares the fault lasting, and the structure is
spared at the partition's next halt, or at once when no partition uses it. -/
def State.countError (s : State) (u : ErrUnit) (noSpare : Bool) : State :=
  let n := ((s.plat.errors.find? (·.1 == u)).map (·.2)).getD 0 + 1
  let t := { s with plat := { s.plat with errors := (u, n) :: s.plat.errors.filter (·.1 != u) } }
  if n ≠ errThreshold u.struct then t
  else if (t.partOfDie u.die).isNone then t.spare u noSpare
  else { t with plat := { t.plat with toSpare := t.plat.toSpare ++ [(u, noSpare)] } }

/-- FLIT_CRC_FAIL: the replay is invisible but for the count. `spare` says whether a spare lane remains. -/
def execFlitCrcFail (u : ErrUnit) (spare : Bool) (s : State) : Host.Outcome State Fault Refusal := .next (s.countError u !spare)

def execCorrectedError (u : ErrUnit) (spare : Bool) (s : State) : Host.Outcome State Fault Refusal := .next (s.countError u !spare)

/-- ERROR_WINDOW_END: the counts of a die start again. -/
def execErrorWindowEnd (die : Nat) (s : State) : Host.Outcome State Fault Refusal :=
  .next { s with plat := { s.plat with errors := s.plat.errors.filter fun e => e.1.die != die } }

/-- UNCORRECTED_ERROR: the granules hit lose their tags and stand in error, and the structure is spared at once. Granules of a
core's local banks are numbered from 2^52 on, 2^20 for each core. -/
def execUncorrectedError (u : ErrUnit) (spare : Bool) (granules : List Nat) (s : State) : Host.Outcome State Fault Refusal :=
  let (banks, mem) := granules.partition fun t => decide (2 ^ 52 ≤ t)
  let t : State := { s with
    tags := s.tags.filter fun t => !mem.contains t
    poison := mem.foldl insertNat s.poison }
  let hit (s : State) (x : Nat) : State := s.modCore ((x - 2 ^ 52) / 2 ^ 20) fun c =>
    let g := (x - 2 ^ 52) % 2 ^ 20
    { c with ltags := removeNat c.ltags g, lpoison := insertNat c.lpoison g }
  .next ((banks.foldl hit t).spare u !spare)

/-- LINK_FAILURE: the die's other link, or other dies' links, carry the traffic, and requests in flight are sent again. -/
def execLinkFailure (link : Nat) (s : State) : Host.Outcome State Fault Refusal :=
  .next { s with plat := { s.plat with linksDown := insertNat s.plat.linksDown link } }

def execModuleFailure (m : Nat) (s : State) : Host.Outcome State Fault Refusal :=
  .next { s with plat := { s.plat with modulesDown := insertNat s.plat.modulesDown m } }

/-- The kind of an access as fault records name it (16 Table 16.2). -/
def actAcc : Act → Acc
  | .load => .load
  | .loadCap _ => .load
  | .poll => .load
  | .store _ => .store
  | .storeCap _ _ => .cst
  | .rmw _ _ _ => .atomic
  | .cas _ _ _ => .atomic
  | .arrive => .atomic

/-- A lane of an operation ends with ECC_UNCORRECTED at an address: of the causes that its lanes meet, the lowest code, at its lowest
address, is taken (16 Table 16.1). -/
def OpRec.unreached (o : OpRec) (r : Req) : OpRec :=
  let c : Cause := ⟨Code.ecc, BitVec.ofNat 64 r.va⟩
  { o with
    bad := some (match o.bad with
      | some d => if d.code < c.code ∨ (d.code = c.code ∧ d.faddr.toNat ≤ r.va) then d else c
      | none => c)
    badMask := if o.once then o.lanes else o.badMask ||| laneBit r.lane }

/-- REMOTE_UNREACHABLE: an MT 3 access still on its way ends with ECC_UNCORRECTED, and a record marked link. -/
def execRemoteUnreachable (r : Req) (s : State) : Host.Outcome State Fault Refusal :=
  .next (if !s.agenda.contains (.remoteAccess r) then s
    else
      let t := { s with agenda := s.agenda.erase (.remoteAccess r) }
      match Store.find s.ops r.op with
      | none => t
      | some o => ((t.modOp r.op fun o => o.unreached r).send (.faultRecord (dieOf r.core)
          ⟨r.asid, some ((t.grp o.gid).waiter o.b), Code.ecc, 3, accCode (actAcc r.act), 0, 0, r.va % 2 ^ 57⟩)).partAck r.op)

/-- CORE_FAILURE: a core or a whole die fails, and firmware forfeits what its cores held. -/
def execCoreFailure (core : Nat) (wholeDie : Bool) (s : State) : Host.Outcome State Fault Refusal :=
  .next (
    let cores := if wholeDie then (List.range 32).map (core / 32 * 32 + ·) else [core]
    let t := cores.foldl (fun t k => (t.modCore k fun c => { c with failed := true, allow := [], areqs := [], await := [] }).forfeitCore k) s
    if wholeDie then t.modDie (core / 32) fun d => { d with failed := true } else t)

/-! ### Wear and the sideband (20 R429, R433, R434) -/

/-- TEMPERATURE_SWING: a unit's temperature reaches `c`. A swing from a local minimum to the maximum after it ends when the
temperature has fallen 5 °C from there, and counts in every bin that it reaches. -/
def execTemperatureSwing (unit : Nat) (c : Int) (s : State) : Host.Outcome State Fault Refusal :=
  .next (s.modWear unit fun w =>
    let w := { w with temp := c }
    if w.rising then
      if w.peak < c then { w with peak := c }
      else if c + 5 ≤ w.peak then
        let up := w.peak - w.low
        { w with
          rising := false, low := c
          t30 := if 30 ≤ up then w.t30 + 1 else w.t30
          t50 := if 50 ≤ up then w.t50 + 1 else w.t50
          t70 := if 70 ≤ up then w.t70 + 1 else w.t70 }
      else w
    else if c < w.low then { w with low := c }
    else if w.low + 5 ≤ c then { w with rising := true, peak := c }
    else w)

def execH95Hour (unit : Nat) (s : State) : Host.Outcome State Fault Refusal :=
  .next (s.modWear unit fun w => { w with h95 := w.h95 + 1 })

/-- The 64 bytes of a wear record (20 Table 20.3). -/
def Wear.record (w : Wear) (unit : Nat) : Nat :=
  1 + unit % 256 * 2 ^ 8 + w.t30 % 2 ^ 32 * 2 ^ 96 + w.t50 % 2 ^ 32 * 2 ^ 128 + w.t70 % 2 ^ 32 * 2 ^ 160 + w.pwr % 2 ^ 32 * 2 ^ 192 +
    w.h95 % 2 ^ 32 * 2 ^ 224 + w.wseq % 2 ^ 64 * 2 ^ 256

/-- Firmware writes a unit's wear record, signed under the wear key (key 1, SLH-DSA-SHAKE-128s). -/
def State.writeWear (s : State) (unit : Nat) : State :=
  let t := s.modWear unit fun w =>
    let w := { w with wseq := w.wseq + 1 }
    let r := w.record unit
    { w with flash := BitVec.ofNat 512 r, sig := Config.slhSign 1 1 (bytesOf 64 r) }
  { t with plat := { t.plat with lastWear := unit } }

def execWearRecordWrite (unit : Nat) (s : State) : Host.Outcome State Fault Refusal := .next (s.writeWear unit)

def execPowerDownNotice (s : State) : Host.Outcome State Fault Refusal := .next (wearUnits.foldl State.writeWear s)

/-- An answer on the sideband; none is a NACK. -/
def State.sideband (s : State) (a : Option (List Byte)) : State := { s with plat := { s.plat with answers := a :: s.plat.answers } }

def execReadBootStage (s : State) : Host.Outcome State Fault Refusal :=
  .next (s.sideband (some (bytesOf 8 (Config.bootAnswer s.plat.stage s.plat.spared.length).toNat)))

/-- Two bytes for each die, then for each stack: its temperature in degrees Celsius. -/
def execReadTemperatures (s : State) : Host.Outcome State Fault Refusal :=
  .next (s.sideband (some (wearUnits.flatMap fun u => bytesOf 2 (BitVec.ofInt 16 (s.plat.wearOf u).temp).toNat)))

def execReadWearRecord (unit : Nat) (s : State) : Host.Outcome State Fault Refusal :=
  .next (s.sideband (if unit < 24 then some (bytesOf 64 (s.plat.wearOf unit).flash.toNat ++ (s.plat.wearOf unit).sig) else none))

/-- The attestation report, in the order in which 20 R429 lists its parts, signed with the identity key (key 0,
SLH-DSA-SHAKE-256s). -/
def execReadAttestationReport (part : Nat) (nonce : BitVec 256) (s : State) : Host.Outcome State Fault Refusal :=
  .next (
    let report := bytesOf 64 (s.part part).ar.toNat ++ bytesOf 64 (Config.shake256 s.plat.image).toNat ++ bytesOf 32 nonce.toNat ++
      bytesOf 64 (Config.shake256 (bytesOf 64 (s.plat.wearOf s.plat.lastWear).flash.toNat)).toNat
    s.sideband (some (report ++ Config.slhSign 3 0 report)))

/-- RECOVERY_IMAGE_TRANSFER: in recovery, the ROM verifies the image and boots it without writing flash. -/
def execRecoveryImageTransfer (image sig : List Byte) (s : State) : Host.Outcome State Fault Refusal :=
  .next (if !s.plat.recovery then s.sideband none
    else if Config.slhVerify Config.romKey.1 Config.romKey.2 image sig then
      ({ s with plat := { s.plat with recovery := false, stage := 1, image := image, imageSig := sig } }).sideband (some [])
    else s.sideband (some []))

def execDynamicAddress (addr : BitVec 7) (s : State) : Host.Outcome State Fault Refusal :=
  .next { s with plat := { s.plat with dynAddr := some addr } }

/-- The sideband's command codes. -/
def sidebandCodes : List Byte := [0x01, 0x02, 0x03, 0x04, 0x10]

/-- SIDEBAND_NACK: a code that is not in the table is answered with NACK. -/
def execSidebandNack (code : Byte) (s : State) : Host.Outcome State Fault Refusal :=
  .next (if sidebandCodes.contains code then s else s.sideband none)

end Sys2Proof.Machine
end

