-- ==== Sys2Proof/Machine/MaskInstr.lean ====
section
/-! DEFINITION. The mask instructions (10 R271). -/

namespace Sys2Proof.Machine

/-- KBOOL's result: bit l is TT[2a + b] (10 Table 10.4). -/
def boolMask (tt : BitVec 4) (a b : Mask) : Mask :=
  maskOf fun l => tt.getLsbD ((if a.getLsbD l then 2 else 0) + (if b.getLsbD l then 1 else 0))

def execKbool (d a b : KReg) (tt : BitVec 4) (s : State) : Host.Outcome State Fault Refusal :=
  .next ((s.wk d (boolMask tt (s.rk a) (s.rk b))).retire 8)

def execKget (d : SReg) (a : KReg) (s : State) : Host.Outcome State Fault Refusal :=
  .next ((s.ws d ((s.rk a).zeroExtend 64)).retire 8)

def execKset (d : KReg) (a : SReg) (s : State) : Host.Outcome State Fault Refusal :=
  .next ((s.wk d ((s.rs a).truncate 32)).retire 8)

def execKcnt (d : SReg) (a : KReg) (s : State) : Host.Outcome State Fault Refusal :=
  .next ((s.ws d (BitVec.ofNat 64 (popMask (s.rk a)))).retire 8)

/-- The index of the lowest or highest 1 bit; 32 for none (10 Table 10.4). -/
def findBit (hi : Bool) (m : Mask) : Nat :=
  if hi then (lanesOf m).getLast?.getD 32 else (lanesOf m).head?.getD 32

def execKfind (hi : Bool) (d : SReg) (a : KReg) (s : State) : Host.Outcome State Fault Refusal :=
  .next ((s.ws d (BitVec.ofNat 64 (findBit hi (s.rk a)))).retire 8)

def shiftMask (f : KShift) (m : Mask) (n : Nat) : Mask :=
  match f with
  | .l => m <<< n
  | .r => m >>> n
  | .rot => m.rotateLeft n

def execKshf (f : KShift) (d a : KReg) (n : BitVec 5) (s : State) : Host.Outcome State Fault Refusal :=
  .next ((s.wk d (shiftMask f (s.rk a) n.toNat)).retire 8)

/-- Each quarter's bits become some, or every, bit of the quarter (10 Table 10.4). -/
def quadMask (all : Bool) (m : Mask) : Mask :=
  maskOf fun l =>
    let q := (List.range 8).map fun i => m.getLsbD (l / 8 * 8 + i)
    if all then q.all id else q.any id

def execKquad (all : Bool) (d a : KReg) (s : State) : Host.Outcome State Fault Refusal :=
  .next ((s.wk d (quadMask all (s.rk a))).retire 8)

end Sys2Proof.Machine
end

