-- ==== Sys2Proof/Machine/Dispatch.lean ====
section
/-! DEFINITION. One arm per instruction and event: a direct call of its meaning. -/

namespace Sys2Proof.Machine

/-- The meaning of an instruction or event in a state. -/
def exec (i : Instr) (s : State) : Host.Outcome State Fault Refusal :=
  match i with
  | .br x1 => Sys2Proof.Machine.execBr x1 s
  | .brc x1 x2 => Sys2Proof.Machine.execBrc x1 x2 s
  | .brd x1 x2 x3 => Sys2Proof.Machine.execBrd x1 x2 x3 s
  | .call x1 x2 => Sys2Proof.Machine.execCall x1 x2 s
  | .ret x1 => Sys2Proof.Machine.execRet x1 s
  | .jmpi x1 => Sys2Proof.Machine.execJmpi x1 s
  | .loop x1 x2 => Sys2Proof.Machine.execLoop x1 x2 s
  | .sadd x1 x2 x3 x4 => Sys2Proof.Machine.execSadd x1 x2 x3 x4 s
  | .ssub x1 x2 x3 x4 => Sys2Proof.Machine.execSsub x1 x2 x3 x4 s
  | .smul x1 x2 x3 x4 => Sys2Proof.Machine.execSmul x1 x2 x3 x4 s
  | .smulh x1 x2 x3 x4 => Sys2Proof.Machine.execSmulh x1 x2 x3 x4 s
  | .sdiv x1 x2 x3 x4 => Sys2Proof.Machine.execSdiv x1 x2 x3 x4 s
  | .srem x1 x2 x3 x4 => Sys2Proof.Machine.execSrem x1 x2 x3 x4 s
  | .sand x1 x2 x3 x4 => Sys2Proof.Machine.execSand x1 x2 x3 x4 s
  | .sor x1 x2 x3 x4 => Sys2Proof.Machine.execSor x1 x2 x3 x4 s
  | .sxor x1 x2 x3 x4 => Sys2Proof.Machine.execSxor x1 x2 x3 x4 s
  | .sshl x1 x2 x3 x4 => Sys2Proof.Machine.execSshl x1 x2 x3 x4 s
  | .sshr x1 x2 x3 x4 => Sys2Proof.Machine.execSshr x1 x2 x3 x4 s
  | .ssra x1 x2 x3 x4 => Sys2Proof.Machine.execSsra x1 x2 x3 x4 s
  | .smin x1 x2 x3 x4 => Sys2Proof.Machine.execSmin x1 x2 x3 x4 s
  | .smax x1 x2 x3 x4 => Sys2Proof.Machine.execSmax x1 x2 x3 x4 s
  | .scmp x1 x2 x3 x4 x5 => Sys2Proof.Machine.execScmp x1 x2 x3 x4 x5 s
  | .ssel x1 x2 x3 x4 x5 => Sys2Proof.Machine.execSsel x1 x2 x3 x4 x5 s
  | .smov x1 x2 x3 => Sys2Proof.Machine.execSmov x1 x2 x3 s
  | .sli x1 x2 x3 => Sys2Proof.Machine.execSli x1 x2 x3 s
  | .saddi x1 x2 x3 x4 => Sys2Proof.Machine.execSaddi x1 x2 x3 x4 s
  | .sbfe x1 x2 x3 x4 x5 => Sys2Proof.Machine.execSbfe x1 x2 x3 x4 x5 s
  | .sbfi x1 x2 x3 x4 x5 => Sys2Proof.Machine.execSbfi x1 x2 x3 x4 x5 s
  | .spopc x1 x2 x3 => Sys2Proof.Machine.execSpopc x1 x2 x3 s
  | .sclz x1 x2 x3 => Sys2Proof.Machine.execSclz x1 x2 x3 s
  | .cbnd x1 x2 x3 x4 => Sys2Proof.Machine.execCbnd x1 x2 x3 x4 s
  | .cinc x1 x2 x3 => Sys2Proof.Machine.execCinc x1 x2 x3 s
  | .cinci x1 x2 x3 => Sys2Proof.Machine.execCinci x1 x2 x3 s
  | .cperm x1 x2 x3 => Sys2Proof.Machine.execCperm x1 x2 x3 s
  | .cget x1 x2 x3 => Sys2Proof.Machine.execCget x1 x2 x3 s
  | .ctest x1 x2 x3 x4 => Sys2Proof.Machine.execCtest x1 x2 x3 x4 s
  | .csub x1 x2 x3 => Sys2Proof.Machine.execCsub x1 x2 x3 s
  | .kbool x1 x2 x3 x4 => Sys2Proof.Machine.execKbool x1 x2 x3 x4 s
  | .kget x1 x2 => Sys2Proof.Machine.execKget x1 x2 s
  | .kset x1 x2 => Sys2Proof.Machine.execKset x1 x2 s
  | .kcnt x1 x2 => Sys2Proof.Machine.execKcnt x1 x2 s
  | .kfind x1 x2 x3 => Sys2Proof.Machine.execKfind x1 x2 x3 s
  | .kshf x1 x2 x3 x4 => Sys2Proof.Machine.execKshf x1 x2 x3 x4 s
  | .kquad x1 x2 x3 => Sys2Proof.Machine.execKquad x1 x2 x3 s
  | .vadd x1 x2 x3 x4 x5 x6 => Sys2Proof.Machine.execVadd x1 x2 x3 x4 x5 x6 s
  | .vsub x1 x2 x3 x4 x5 x6 => Sys2Proof.Machine.execVsub x1 x2 x3 x4 x5 x6 s
  | .vmul x1 x2 x3 x4 x5 x6 => Sys2Proof.Machine.execVmul x1 x2 x3 x4 x5 x6 s
  | .vmulh x1 x2 x3 x4 x5 => Sys2Proof.Machine.execVmulh x1 x2 x3 x4 x5 s
  | .vmad x1 x2 x3 x4 x5 x6 x7 => Sys2Proof.Machine.execVmad x1 x2 x3 x4 x5 x6 x7 s
  | .vand x1 x2 x3 x4 x5 => Sys2Proof.Machine.execVand x1 x2 x3 x4 x5 s
  | .vor x1 x2 x3 x4 x5 => Sys2Proof.Machine.execVor x1 x2 x3 x4 x5 s
  | .vxor x1 x2 x3 x4 x5 => Sys2Proof.Machine.execVxor x1 x2 x3 x4 x5 s
  | .vnot x1 x2 x3 x4 => Sys2Proof.Machine.execVnot x1 x2 x3 x4 s
  | .vshl x1 x2 x3 x4 x5 => Sys2Proof.Machine.execVshl x1 x2 x3 x4 x5 s
  | .vshr x1 x2 x3 x4 x5 => Sys2Proof.Machine.execVshr x1 x2 x3 x4 x5 s
  | .vsra x1 x2 x3 x4 x5 => Sys2Proof.Machine.execVsra x1 x2 x3 x4 x5 s
  | .vmin x1 x2 x3 x4 x5 => Sys2Proof.Machine.execVmin x1 x2 x3 x4 x5 s
  | .vmax x1 x2 x3 x4 x5 => Sys2Proof.Machine.execVmax x1 x2 x3 x4 x5 s
  | .vabs x1 x2 x3 x4 x5 => Sys2Proof.Machine.execVabs x1 x2 x3 x4 x5 s
  | .vcmp x1 x2 x3 x4 x5 x6 => Sys2Proof.Machine.execVcmp x1 x2 x3 x4 x5 x6 s
  | .vsel x1 x2 x3 x4 x5 x6 => Sys2Proof.Machine.execVsel x1 x2 x3 x4 x5 x6 s
  | .vmov x1 x2 x3 x4 => Sys2Proof.Machine.execVmov x1 x2 x3 x4 s
  | .vli x1 x2 x3 x4 => Sys2Proof.Machine.execVli x1 x2 x3 x4 s
  | .vpopc x1 x2 x3 x4 => Sys2Proof.Machine.execVpopc x1 x2 x3 x4 s
  | .vclz x1 x2 x3 x4 => Sys2Proof.Machine.execVclz x1 x2 x3 x4 s
  | .vbrev x1 x2 x3 x4 => Sys2Proof.Machine.execVbrev x1 x2 x3 x4 s
  | .vbfe x1 x2 x3 x4 x5 x6 => Sys2Proof.Machine.execVbfe x1 x2 x3 x4 x5 x6 s
  | .vbfi x1 x2 x3 x4 x5 x6 => Sys2Proof.Machine.execVbfi x1 x2 x3 x4 x5 x6 s
  | .vdp4 x1 x2 x3 x4 x5 x6 x7 x8 => Sys2Proof.Machine.execVdp4 x1 x2 x3 x4 x5 x6 x7 x8 s
  | .vfadd x1 x2 x3 x4 x5 x6 => Sys2Proof.Machine.execVfadd x1 x2 x3 x4 x5 x6 s
  | .vfsub x1 x2 x3 x4 x5 x6 => Sys2Proof.Machine.execVfsub x1 x2 x3 x4 x5 x6 s
  | .vfmul x1 x2 x3 x4 x5 x6 => Sys2Proof.Machine.execVfmul x1 x2 x3 x4 x5 x6 s
  | .vfma x1 x2 x3 x4 x5 x6 x7 => Sys2Proof.Machine.execVfma x1 x2 x3 x4 x5 x6 x7 s
  | .vfmin x1 x2 x3 x4 x5 => Sys2Proof.Machine.execVfmin x1 x2 x3 x4 x5 s
  | .vfmax x1 x2 x3 x4 x5 => Sys2Proof.Machine.execVfmax x1 x2 x3 x4 x5 s
  | .vfcmp x1 x2 x3 x4 x5 x6 => Sys2Proof.Machine.execVfcmp x1 x2 x3 x4 x5 x6 s
  | .vfrcp x1 x2 x3 x4 x5 => Sys2Proof.Machine.execVfrcp x1 x2 x3 x4 x5 s
  | .vfrsq x1 x2 x3 x4 x5 => Sys2Proof.Machine.execVfrsq x1 x2 x3 x4 x5 s
  | .vfsqrt x1 x2 x3 x4 x5 => Sys2Proof.Machine.execVfsqrt x1 x2 x3 x4 x5 s
  | .vfdiv x1 x2 x3 x4 x5 x6 => Sys2Proof.Machine.execVfdiv x1 x2 x3 x4 x5 x6 s
  | .vfexp2 x1 x2 x3 x4 x5 => Sys2Proof.Machine.execVfexp2 x1 x2 x3 x4 x5 s
  | .vflog2 x1 x2 x3 x4 x5 => Sys2Proof.Machine.execVflog2 x1 x2 x3 x4 x5 s
  | .vfsin x1 x2 x3 x4 x5 => Sys2Proof.Machine.execVfsin x1 x2 x3 x4 x5 s
  | .vfcos x1 x2 x3 x4 x5 => Sys2Proof.Machine.execVfcos x1 x2 x3 x4 x5 s
  | .vftanh x1 x2 x3 x4 x5 => Sys2Proof.Machine.execVftanh x1 x2 x3 x4 x5 s
  | .vfcvt x1 x2 x3 x4 x5 x6 x7 => Sys2Proof.Machine.execVfcvt x1 x2 x3 x4 x5 x6 x7 s
  | .vftoi x1 x2 x3 x4 x5 x6 => Sys2Proof.Machine.execVftoi x1 x2 x3 x4 x5 x6 s
  | .vitof x1 x2 x3 x4 x5 x6 => Sys2Proof.Machine.execVitof x1 x2 x3 x4 x5 x6 s
  | .vfrnd x1 x2 x3 x4 x5 => Sys2Proof.Machine.execVfrnd x1 x2 x3 x4 x5 s
  | .vfclass x1 x2 x3 x4 => Sys2Proof.Machine.execVfclass x1 x2 x3 x4 s
  | .vfscale x1 x2 x3 x4 x5 x6 => Sys2Proof.Machine.execVfscale x1 x2 x3 x4 x5 x6 s
  | .vfdot2 x1 x2 x3 x4 x5 x6 x7 => Sys2Proof.Machine.execVfdot2 x1 x2 x3 x4 x5 x6 x7 s
  | .vshuf x1 x2 x3 x4 x5 => Sys2Proof.Machine.execVshuf x1 x2 x3 x4 x5 s
  | .vrot x1 x2 x3 x4 x5 x6 => Sys2Proof.Machine.execVrot x1 x2 x3 x4 x5 x6 s
  | .vbcast x1 x2 x3 => Sys2Proof.Machine.execVbcast x1 x2 x3 s
  | .vred x1 x2 x3 x4 x5 => Sys2Proof.Machine.execVred x1 x2 x3 x4 x5 s
  | .vscan x1 x2 x3 x4 x5 x6 => Sys2Proof.Machine.execVscan x1 x2 x3 x4 x5 x6 s
  | .vvote x1 x2 x3 x4 => Sys2Proof.Machine.execVvote x1 x2 x3 x4 s
  | .vcompact x1 x2 x3 x4 => Sys2Proof.Machine.execVcompact x1 x2 x3 x4 s
  | .vmatch x1 x2 x3 x4 => Sys2Proof.Machine.execVmatch x1 x2 x3 x4 s
  | .elect x1 x2 => Sys2Proof.Machine.execElect x1 x2 s
  | .ld x1 x2 x3 x4 x5 x6 => Sys2Proof.Machine.execLd x1 x2 x3 x4 x5 x6 s
  | .st x1 x2 x3 x4 x5 x6 => Sys2Proof.Machine.execSt x1 x2 x3 x4 x5 x6 s
  | .vld x1 x2 x3 x4 x5 x6 x7 => Sys2Proof.Machine.execVld x1 x2 x3 x4 x5 x6 x7 s
  | .vst x1 x2 x3 x4 x5 x6 x7 => Sys2Proof.Machine.execVst x1 x2 x3 x4 x5 x6 x7 s
  | .vldc x1 x2 x3 x4 x5 x6 x7 => Sys2Proof.Machine.execVldc x1 x2 x3 x4 x5 x6 x7 s
  | .vstc x1 x2 x3 x4 x5 x6 x7 => Sys2Proof.Machine.execVstc x1 x2 x3 x4 x5 x6 x7 s
  | .cld x1 x2 x3 x4 => Sys2Proof.Machine.execCld x1 x2 x3 x4 s
  | .cst x1 x2 x3 x4 => Sys2Proof.Machine.execCst x1 x2 x3 x4 s
  | .vlds x1 x2 x3 x4 x5 x6 => Sys2Proof.Machine.execVlds x1 x2 x3 x4 x5 x6 s
  | .vsts x1 x2 x3 x4 x5 x6 => Sys2Proof.Machine.execVsts x1 x2 x3 x4 x5 x6 s
  | .pref x1 x2 x3 => Sys2Proof.Machine.execPref x1 x2 x3 s
  | .l2pf x1 x2 x3 x4 x5 => Sys2Proof.Machine.execL2pf x1 x2 x3 x4 x5 s
  | .amo x1 x2 x3 x4 x5 x6 x7 => Sys2Proof.Machine.execAmo x1 x2 x3 x4 x5 x6 x7 s
  | .acas x1 x2 x3 x4 x5 x6 => Sys2Proof.Machine.execAcas x1 x2 x3 x4 x5 x6 s
  | .vamo x1 x2 x3 x4 x5 x6 x7 x8 => Sys2Proof.Machine.execVamo x1 x2 x3 x4 x5 x6 x7 x8 s
  | .vacas x1 x2 x3 x4 x5 x6 x7 => Sys2Proof.Machine.execVacas x1 x2 x3 x4 x5 x6 x7 s
  | .bop x1 x2 x3 x4 x5 x6 x7 => Sys2Proof.Machine.execBop x1 x2 x3 x4 x5 x6 x7 s
  | .bcas x1 x2 x3 x4 x5 x6 => Sys2Proof.Machine.execBcas x1 x2 x3 x4 x5 x6 s
  | .vbop x1 x2 x3 x4 x5 x6 x7 x8 => Sys2Proof.Machine.execVbop x1 x2 x3 x4 x5 x6 x7 x8 s
  | .bupd x1 x2 x3 x4 x5 x6 x7 => Sys2Proof.Machine.execBupd x1 x2 x3 x4 x5 x6 x7 s
  | .acinit x1 x2 x3 x4 => Sys2Proof.Machine.execAcinit x1 x2 x3 x4 s
  | .adec x1 x2 x3 x4 => Sys2Proof.Machine.execAdec x1 x2 x3 x4 s
  | .ainc x1 x2 x3 => Sys2Proof.Machine.execAinc x1 x2 x3 s
  | .areadx x1 x2 => Sys2Proof.Machine.execAreadx x1 x2 s
  | .areada x1 x2 => Sys2Proof.Machine.execAreada x1 x2 s
  | .acret x1 x2 => Sys2Proof.Machine.execAcret x1 x2 s
  | .fence x1 x2 x3 => Sys2Proof.Machine.execFence x1 x2 x3 s
  | .waitc x1 x2 x3 x4 x5 x6 x7 x8 => Sys2Proof.Machine.execWaitc x1 x2 x3 x4 x5 x6 x7 x8 s
  | .poll x1 x2 x3 x4 x5 x6 => Sys2Proof.Machine.execPoll x1 x2 x3 x4 x5 x6 s
  | .bari x1 x2 x3 => Sys2Proof.Machine.execBari x1 x2 x3 s
  | .bara x1 x2 x3 => Sys2Proof.Machine.execBara x1 x2 x3 s
  | .barw x1 x2 x3 x4 => Sys2Proof.Machine.execBarw x1 x2 x3 x4 s
  | .baraw x1 x2 x3 => Sys2Proof.Machine.execBaraw x1 x2 x3 s
  | .spawn x1 x2 => Sys2Proof.Machine.execSpawn x1 x2 s
  | .spawnl x1 x2 => Sys2Proof.Machine.execSpawnl x1 x2 s
  | .fnew x1 x2 => Sys2Proof.Machine.execFnew x1 x2 s
  | .ffill x1 x2 x3 => Sys2Proof.Machine.execFfill x1 x2 x3 s
  | .join x1 x2 x3 => Sys2Proof.Machine.execJoin x1 x2 x3 s
  | .joint x1 x2 => Sys2Proof.Machine.execJoint x1 x2 s
  | .exit x1 => Sys2Proof.Machine.execExit x1 s
  | .regrp x1 x2 x3 => Sys2Proof.Machine.execRegrp x1 x2 x3 s
  | .qpop x1 x2 x3 x4 => Sys2Proof.Machine.execQpop x1 x2 x3 x4 s
  | .qapp x1 x2 x3 => Sys2Proof.Machine.execQapp x1 x2 x3 s
  | .waitpred x1 => Sys2Proof.Machine.execWaitpred x1 s
  | .plane x1 x2 x3 x4 x5 x6 x7 x8 => Sys2Proof.Machine.execPlane x1 x2 x3 x4 x5 x6 x7 x8 s
  | .mfmt x1 x2 => Sys2Proof.Machine.execMfmt x1 x2 s
  | .mma x1 x2 x3 x4 => Sys2Proof.Machine.execMma x1 x2 x3 x4 s
  | .mzero x1 x2 => Sys2Proof.Machine.execMzero x1 x2 s
  | .cpy x1 x2 x3 x4 x5 x6 => Sys2Proof.Machine.execCpy x1 x2 x3 x4 x5 x6 s
  | .cpyt x1 x2 x3 x4 x5 x6 x7 => Sys2Proof.Machine.execCpyt x1 x2 x3 x4 x5 x6 x7 s
  | .stage x1 x2 x3 x4 x5 x6 => Sys2Proof.Machine.execStage x1 x2 x3 x4 x5 x6 s
  | .drain x1 x2 x3 x4 x5 x6 x7 x8 => Sys2Proof.Machine.execDrain x1 x2 x3 x4 x5 x6 x7 x8 s
  | .twait x1 x2 => Sys2Proof.Machine.execTwait x1 x2 s
  | .tread x1 x2 x3 => Sys2Proof.Machine.execTread x1 x2 x3 s
  | .dpost x1 x2 x3 x4 x5 => Sys2Proof.Machine.execDpost x1 x2 x3 x4 x5 s
  | .xsend x1 x2 x3 x4 x5 => Sys2Proof.Machine.execXsend x1 x2 x3 x4 x5 s
  | .xwait x1 x2 x3 => Sys2Proof.Machine.execXwait x1 x2 x3 s
  | .xstat x1 x2 x3 => Sys2Proof.Machine.execXstat x1 x2 x3 s
  | .rdsr x1 x2 => Sys2Proof.Machine.execRdsr x1 x2 s
  | .wrsr x1 x2 => Sys2Proof.Machine.execWrsr x1 x2 s
  | .trap x1 => Sys2Proof.Machine.execTrap x1 s
  | .phint x1 x2 x3 x4 x5 x6 x7 => Sys2Proof.Machine.execPhint x1 x2 x3 x4 x5 x6 x7 s
  | .brk x1 => Sys2Proof.Machine.execBrk x1 s
  | .invv x1 x2 x3 => Sys2Proof.Machine.execInvv x1 x2 x3 s
  | .cflush x1 x2 x3 => Sys2Proof.Machine.execCflush x1 x2 x3 s
  | .clauseHeader x1 x2 x3 x4 x5 => Sys2Proof.Machine.execClauseHeader x1 x2 x3 x4 x5 s
  | .countedComplete x1 => Sys2Proof.Machine.execCountedComplete x1 s
  | .pollDelayEnd x1 => Sys2Proof.Machine.execPollDelayEnd x1 s
  | .shootdownComplete x1 => Sys2Proof.Machine.execShootdownComplete x1 s
  | .fillreq x1 x2 x3 x4 => Sys2Proof.Machine.execFillreq x1 x2 x3 x4 s
  | .fillrsp x1 x2 x3 x4 x5 x6 x7 => Sys2Proof.Machine.execFillrsp x1 x2 x3 x4 x5 x6 x7 s
  | .sliceStore x1 => Sys2Proof.Machine.execSliceStore x1 s
  | .sliceLoad x1 => Sys2Proof.Machine.execSliceLoad x1 s
  | .upd x1 x2 x3 x4 x5 x6 x7 x8 x9 x10 => Sys2Proof.Machine.execUpd x1 x2 x3 x4 x5 x6 x7 x8 x9 x10 s
  | .uack x1 x2 x3 x4 x5 x6 => Sys2Proof.Machine.execUack x1 x2 x3 x4 x5 x6 s
  | .inv x1 x2 x3 x4 x5 x6 => Sys2Proof.Machine.execInv x1 x2 x3 x4 x5 x6 s
  | .iack x1 x2 => Sys2Proof.Machine.execIack x1 x2 s
  | .stack x1 => Sys2Proof.Machine.execStack x1 s
  | .lreq x1 x2 x3 x4 => Sys2Proof.Machine.execLreq x1 x2 x3 x4 s
  | .lgrant x1 x2 x3 x4 x5 x6 x7 => Sys2Proof.Machine.execLgrant x1 x2 x3 x4 x5 x6 x7 s
  | .lrecall x1 x2 => Sys2Proof.Machine.execLrecall x1 x2 s
  | .lret x1 x2 x3 x4 x5 => Sys2Proof.Machine.execLret x1 x2 x3 x4 x5 s
  | .homeAtomic x1 => Sys2Proof.Machine.execHomeAtomic x1 s
  | .bankAccess x1 => Sys2Proof.Machine.execBankAccess x1 s
  | .bankAluOp x1 => Sys2Proof.Machine.execBankAluOp x1 s
  | .gong x1 => Sys2Proof.Machine.execGong x1 s
  | .guestFlush x1 x2 x3 x4 x5 => Sys2Proof.Machine.execGuestFlush x1 x2 x3 x4 x5 s
  | .remoteAccess x1 => Sys2Proof.Machine.execRemoteAccess x1 s
  | .mmioAccess x1 => Sys2Proof.Machine.execMmioAccess x1 s
  | .areq x1 x2 x3 x4 x5 x6 => Sys2Proof.Machine.execAreq x1 x2 x3 x4 x5 x6 s
  | .aop x1 x2 x3 x4 => Sys2Proof.Machine.execAop x1 x2 x3 x4 s
  | .agrant x1 x2 x3 x4 x5 x6 x7 => Sys2Proof.Machine.execAgrant x1 x2 x3 x4 x5 x6 x7 s
  | .rcall x1 x2 x3 => Sys2Proof.Machine.execRcall x1 x2 x3 s
  | .rret x1 x2 x3 x4 => Sys2Proof.Machine.execRret x1 x2 x3 x4 s
  | .aret x1 x2 x3 => Sys2Proof.Machine.execAret x1 x2 x3 s
  | .drop x1 x2 => Sys2Proof.Machine.execDrop x1 x2 s
  | .commandStart x1 x2 x3 => Sys2Proof.Machine.execCommandStart x1 x2 x3 s
  | .commandComplete x1 x2 x3 => Sys2Proof.Machine.execCommandComplete x1 x2 x3 s
  | .autoStageStart x1 => Sys2Proof.Machine.execAutoStageStart x1 s
  | .tileLand x1 x2 x3 => Sys2Proof.Machine.execTileLand x1 x2 x3 s
  | .dequeRefill x1 => Sys2Proof.Machine.execDequeRefill x1 s
  | .dispatch x1 => Sys2Proof.Machine.execDispatch x1 s
  | .stealRequest x1 x2 x3 x4 x5 => Sys2Proof.Machine.execStealRequest x1 x2 x3 x4 x5 s
  | .stealAnswer x1 x2 x3 => Sys2Proof.Machine.execStealAnswer x1 x2 x3 s
  | .packetFetch x1 x2 => Sys2Proof.Machine.execPacketFetch x1 x2 s
  | .packetStart x1 x2 x3 => Sys2Proof.Machine.execPacketStart x1 x2 x3 s
  | .launch x1 x2 x3 => Sys2Proof.Machine.execLaunch x1 x2 x3 s
  | .feed x1 x2 x3 => Sys2Proof.Machine.execFeed x1 x2 x3 s
  | .feedAppend x1 x2 x3 x4 => Sys2Proof.Machine.execFeedAppend x1 x2 x3 x4 s
  | .copy x1 x2 x3 => Sys2Proof.Machine.execCopy x1 x2 x3 s
  | .signal x1 x2 x3 => Sys2Proof.Machine.execSignal x1 x2 x3 s
  | .waittl x1 x2 x3 => Sys2Proof.Machine.execWaittl x1 x2 x3 s
  | .zero x1 x2 x3 => Sys2Proof.Machine.execZero x1 x2 x3 s
  | .inval x1 x2 x3 => Sys2Proof.Machine.execInval x1 x2 x3 s
  | .qfence x1 x2 x3 => Sys2Proof.Machine.execQfence x1 x2 x3 s
  | .rootPlace x1 x2 => Sys2Proof.Machine.execRootPlace x1 x2 s
  | .packetComplete x1 x2 x3 x4 x5 => Sys2Proof.Machine.execPacketComplete x1 x2 x3 x4 x5 s
  | .completionRecord x1 x2 => Sys2Proof.Machine.execCompletionRecord x1 x2 s
  | .faultRecord x1 x2 => Sys2Proof.Machine.execFaultRecord x1 x2 s
  | .groupSave x1 => Sys2Proof.Machine.execGroupSave x1 s
  | .demand x1 x2 x3 x4 x5 => Sys2Proof.Machine.execDemand x1 x2 x3 x4 x5 s
  | .dack x1 x2 x3 x4 => Sys2Proof.Machine.execDack x1 x2 x3 x4 s
  | .layout x1 x2 x3 x4 => Sys2Proof.Machine.execLayout x1 x2 x3 x4 s
  | .grant x1 x2 x3 x4 x5 => Sys2Proof.Machine.execGrant x1 x2 x3 x4 x5 s
  | .gack x1 x2 x3 x4 x5 => Sys2Proof.Machine.execGack x1 x2 x3 x4 x5 s
  | .ring x1 x2 x3 x4 x5 x6 => Sys2Proof.Machine.execRing x1 x2 x3 x4 x5 x6 s
  | .seg x1 x2 x3 x4 x5 x6 => Sys2Proof.Machine.execSeg x1 x2 x3 x4 x5 x6 s
  | .skipseg x1 x2 x3 x4 x5 x6 => Sys2Proof.Machine.execSkipseg x1 x2 x3 x4 x5 x6 s
  | .sack x1 x2 x3 x4 x5 x6 => Sys2Proof.Machine.execSack x1 x2 x3 x4 x5 x6 s
  | .snak x1 x2 x3 x4 x5 x6 x7 => Sys2Proof.Machine.execSnak x1 x2 x3 x4 x5 x6 x7 s
  | .short x1 x2 x3 x4 => Sys2Proof.Machine.execShort x1 x2 x3 x4 s
  | .chdone x1 x2 x3 x4 x5 => Sys2Proof.Machine.execChdone x1 x2 x3 x4 x5 s
  | .xabort x1 x2 x3 x4 x5 x6 => Sys2Proof.Machine.execXabort x1 x2 x3 x4 x5 x6 s
  | .suspect x1 x2 x3 x4 x5 => Sys2Proof.Machine.execSuspect x1 x2 x3 x4 x5 s
  | .arbstop x1 x2 x3 => Sys2Proof.Machine.execArbstop x1 x2 x3 s
  | .lastq x1 x2 x3 => Sys2Proof.Machine.execLastq x1 x2 x3 s
  | .lasta x1 x2 x3 x4 x5 => Sys2Proof.Machine.execLasta x1 x2 x3 x4 x5 s
  | .renewal x1 x2 x3 => Sys2Proof.Machine.execRenewal x1 x2 x3 s
  | .claim x1 x2 x3 => Sys2Proof.Machine.execClaim x1 x2 x3 s
  | .guestFlushAck x1 x2 x3 => Sys2Proof.Machine.execGuestFlushAck x1 x2 x3 s
  | .renewalAck x1 x2 x3 => Sys2Proof.Machine.execRenewalAck x1 x2 x3 s
  | .claimAcceptance x1 x2 x3 => Sys2Proof.Machine.execClaimAcceptance x1 x2 x3 s
  | .groupRestore x1 x2 x3 => Sys2Proof.Machine.execGroupRestore x1 x2 x3 s
  | .zeroEngineDone x1 x2 => Sys2Proof.Machine.execZeroEngineDone x1 x2 s
  | .pathPromotion x1 => Sys2Proof.Machine.execPathPromotion x1 s
  | .pageWalk x1 x2 x3 x4 => Sys2Proof.Machine.execPageWalk x1 x2 x3 x4 s
  | .partitionReassign x1 x2 => Sys2Proof.Machine.execPartitionReassign x1 x2 s
  | .directoryMerge x1 x2 x3 x4 => Sys2Proof.Machine.execDirectoryMerge x1 x2 x3 x4 s
  | .hostAccess x1 x2 x3 => Sys2Proof.Machine.execHostAccess x1 x2 x3 s
  | .l2ctlWrite x1 x2 => Sys2Proof.Machine.execL2ctlWrite x1 x2 s
  | .resWrite x1 x2 x3 x4 => Sys2Proof.Machine.execResWrite x1 x2 x3 x4 s
  | .registerWrite x1 x2 => Sys2Proof.Machine.execRegisterWrite x1 x2 s
  | .forfeit x1 => Sys2Proof.Machine.execForfeit x1 s
  | .stealAttempt x1 => Sys2Proof.Machine.execStealAttempt x1 s
  | .regrpTimeout x1 => Sys2Proof.Machine.execRegrpTimeout x1 s
  | .earlyStart x1 x2 x3 => Sys2Proof.Machine.execEarlyStart x1 x2 x3 s
  | .doorbell x1 x2 x3 => Sys2Proof.Machine.execDoorbell x1 x2 x3 s
  | .queueEnable x1 x2 => Sys2Proof.Machine.execQueueEnable x1 x2 s
  | .queueResume x1 x2 x3 => Sys2Proof.Machine.execQueueResume x1 x2 x3 s
  | .cplack x1 x2 x3 => Sys2Proof.Machine.execCplack x1 x2 x3 s
  | .swapOut x1 => Sys2Proof.Machine.execSwapOut x1 s
  | .pgack x1 x2 => Sys2Proof.Machine.execPgack x1 x2 s
  | .pagerSettle x1 x2 x3 => Sys2Proof.Machine.execPagerSettle x1 x2 x3 s
  | .preemptRequest x1 => Sys2Proof.Machine.execPreemptRequest x1 s
  | .preemptDeadline x1 => Sys2Proof.Machine.execPreemptDeadline x1 s
  | .partitionHalt x1 => Sys2Proof.Machine.execPartitionHalt x1 s
  | .partitionSwapIn x1 => Sys2Proof.Machine.execPartitionSwapIn x1 s
  | .watchdogExpiry x1 => Sys2Proof.Machine.execWatchdogExpiry x1 s
  | .evack x1 x2 => Sys2Proof.Machine.execEvack x1 x2 s
  | .debugStep x1 x2 => Sys2Proof.Machine.execDebugStep x1 x2 s
  | .debugStepBack x1 => Sys2Proof.Machine.execDebugStepBack x1 s
  | .posttExpiry x1 x2 x3 => Sys2Proof.Machine.execPosttExpiry x1 x2 x3 s
  | .ringtExpiry x1 x2 x3 => Sys2Proof.Machine.execRingtExpiry x1 x2 x3 s
  | .standbyRingtExpiry x1 x2 x3 => Sys2Proof.Machine.execStandbyRingtExpiry x1 x2 x3 s
  | .arblostExpiry x1 x2 x3 => Sys2Proof.Machine.execArblostExpiry x1 x2 x3 s
  | .flitCrcFail x1 x2 => Sys2Proof.Machine.execFlitCrcFail x1 x2 s
  | .linkFailure x1 => Sys2Proof.Machine.execLinkFailure x1 s
  | .remoteUnreachable x1 => Sys2Proof.Machine.execRemoteUnreachable x1 s
  | .moduleFailure x1 => Sys2Proof.Machine.execModuleFailure x1 s
  | .coreFailure x1 x2 => Sys2Proof.Machine.execCoreFailure x1 x2 s
  | .imageLoad x1 x2 x3 x4 x5 => Sys2Proof.Machine.execImageLoad x1 x2 x3 x4 x5 s
  | .quickEyeCheck x1 => Sys2Proof.Machine.execQuickEyeCheck x1 s
  | .fullTraining x1 => Sys2Proof.Machine.execFullTraining x1 s
  | .partitionBuild x1 => Sys2Proof.Machine.execPartitionBuild x1 s
  | .leaseRenewal x1 => Sys2Proof.Machine.execLeaseRenewal x1 s
  | .leaderTermEnd x1 => Sys2Proof.Machine.execLeaderTermEnd x1 s
  | .leaseLapse x1 => Sys2Proof.Machine.execLeaseLapse x1 s
  | .soleLeader x1 => Sys2Proof.Machine.execSoleLeader x1 s
  | .correctedError x1 x2 => Sys2Proof.Machine.execCorrectedError x1 x2 s
  | .errorWindowEnd x1 => Sys2Proof.Machine.execErrorWindowEnd x1 s
  | .uncorrectedError x1 x2 x3 => Sys2Proof.Machine.execUncorrectedError x1 x2 x3 s
  | .temperatureSwing x1 x2 => Sys2Proof.Machine.execTemperatureSwing x1 x2 s
  | .wearRecordWrite x1 => Sys2Proof.Machine.execWearRecordWrite x1 s
  | .readWearRecord x1 => Sys2Proof.Machine.execReadWearRecord x1 s
  | .readAttestationReport x1 x2 => Sys2Proof.Machine.execReadAttestationReport x1 x2 s
  | .recoveryImageTransfer x1 x2 => Sys2Proof.Machine.execRecoveryImageTransfer x1 x2 s
  | .l1Eviction x1 x2 x3 => Sys2Proof.Machine.execL1Eviction x1 x2 x3 s
  | .h95Hour x1 => Sys2Proof.Machine.execH95Hour x1 s
  | .dynamicAddress x1 => Sys2Proof.Machine.execDynamicAddress x1 s
  | .sidebandNack x1 => Sys2Proof.Machine.execSidebandNack x1 s
  | .powerOn => Sys2Proof.Machine.execPowerOn s
  | .powerDownNotice => Sys2Proof.Machine.execPowerDownNotice s
  | .readBootStage => Sys2Proof.Machine.execReadBootStage s
  | .readTemperatures => Sys2Proof.Machine.execReadTemperatures s
  | .powerLoss => Sys2Proof.Machine.execPowerLoss s
  | .nop => Sys2Proof.Machine.execNop s
  | .reconv => Sys2Proof.Machine.execReconv s
  | .yield => Sys2Proof.Machine.execYield s
  | .lhint => Sys2Proof.Machine.execLhint s
  | .udf => Sys2Proof.Machine.execUdf s

end Sys2Proof.Machine
end

