-- ==== Sys2Proof/Machine/Step.lean ====
section
/-! DEFINITION. One step: an event of the agenda takes place, or one path's next word is fetched, decoded and issued. -/

namespace Sys2Proof.Machine

/-- The next word of one path: its trap, its wait, or the meaning of its instruction. A cause held for the path is
taken first (11 R291). An instruction whose replay has no lanes left counts as performed (16 R393). -/
def State.issueOn (s : State) (gid : Nat) (b : Bool) : Host.Outcome State Fault Refusal :=
  let s := { s with cur := ⟨gid, b⟩ }
  if s.p.held.isSome && s.p.replay.isNone then .next (s.takeHeld gid b)
  else match s.nextInstr with
  | (t, .wait) => .next t
  | (t, .fetch f va) => .next (t.fetchFailed f va)
  | (t, .trap c) => .next (t.trapHere c)
  | (t, .issue i n) => if t.p.replay = some 0 then .next (t.performedNone n) else t.withSources i (exec i)

/-- The first of the paths that moves. A path that stalls its port ends the search (05 R130). -/
def runPaths : List (Nat × Bool) → State → Host.Outcome State Fault Refusal
  | [], s => .next s
  | (gid, b) :: r, s =>
    match (s.tick (s.grp gid).core).issueOn gid b with
    | .next t => if stalled s t gid b && !t.portHeld gid b then runPaths r t else .next t
    | o => o

/-- The place of the event that goes in place of the `n`-th: the first of its channel (02 R61). -/
def eventAt (agenda : List Instr) (n : Nat) : Nat :=
  match agenda[n]? with
  | none => n
  | some i =>
    match chan i with
    | none => n
    | some k => agenda.findIdx fun j => chan j == some k

/-- One event of the agenda takes place. -/
def runEvent (s : State) (n : Nat) : Host.Outcome State Fault Refusal :=
  match s.agenda[eventAt s.agenda n]? with
  | none => .next s
  | some i => exec i { s with agenda := s.agenda.eraseIdx (eventAt s.agenda n), taken := some i }

/-- The issue ports, core and quarter, that have a ready path (15 R387). -/
def State.readyPorts (s : State) : List (Nat × Nat) :=
  ((s.readyPaths fun _ => true).map fun x => ((s.grp x.1).core, (s.grp x.1).slot % 4)).eraseDups

/-- One step of the package. `turns` says what goes; with none given, the agenda's head and the ports that have a ready
path take alternate steps, the ports in turn (assumption 6). -/
def step (s : State) : Host.Outcome State Fault Refusal :=
  let s := { s with time := s.time + 1 }.beat
  match s.turns with
  | .event n :: r => runEvent { s with turns := r } n
  | .path p :: r => runPaths (s.portPaths p.core p.slot) { s with turns := r }
  | [] =>
    let ports := s.readyPorts
    if s.agenda.isEmpty || (s.time % 2 == 1 && !ports.isEmpty) then
      match ports[s.time / 2 % ports.length]? with
      | some (core, slot) => runPaths (s.portPaths core slot) s
      | none => .next s
    else runEvent s 0

/-- The address at which `withFetchWord` places an instruction. -/
def fetchVa : Nat := 0x10000

/-- A state with the instruction of bits `w` where the next step fetches: a launch with a code capability over it, a
group of that launch in slot 0 of core 0 that issues first, and the instruction in the core's instruction cache, which
stands for the load of a program (assumption 15). -/
def State.withFetchWord (s : State) (nbits w : Nat) : State :=
  let gid := s.fresh
  let lid := s.fresh + 1
  let v := w % 2 ^ nbits
  let code := Cap.make (fetchVa + 0x8000) fetchVa 0 8 fetchVa true
  let l : Launch :=
    { part := 0, queue := 0, num := 1, asid := 1, code := code, brr := 0xAAAA555500000000, es := 0, hent := 0xFFFF,
      entries := [⟨0, 256, 64, 1, 0, 0⟩], tsrt := 0, tsrs := [], args := [], homes := [], ent := 0, pri := 0, ha := 7, early := false,
      pred := none, unplaced := [], tasks := 1 }
  let g : Group :=
    { Group.blank with
      place := .res 0 0, launch := lid, asid := 1, v := 256, s := 64, scrSize := 131072, tobCnt := 64,
      pa := { live := true, pc := BitVec.ofNat 57 fetchVa, mask := 0xFFFFFFFF, promoted := some 0,
              left := if v % 4 = 3 then 0 else 1 } }
  let s := { s with
    groups := Store.put s.groups gid g
    launches := Store.put s.launches lid l
    turns := .path ⟨0, 0, false⟩ :: s.turns
    fresh := s.fresh + 2 }
  s.modCore 0 fun c => { c with icache := (1, fetchVa, BitVec.ofNat 256 v) :: c.icache }

end Sys2Proof.Machine
end

