-- ==== Sys2Proof/Safety.lean ====
section
/-! DEFINITION. The words that claims are stated in: a safe run, the invariants of a well-formed state, and what an
instruction leaves unchanged. -/

namespace Sys2Proof.Machine

/-- The outcome is a next state: neither a fault nor a refusal. -/
def Runs (o : Host.Outcome State Fault Refusal) : Prop := ∃ t, o = .next t

/-- Memory is in its canonical form. -/
def State.memOk (s : State) : Prop := Memory.wf s.mem

/-- k0 is held by no group: it is the active mask, and no write reaches it (07 R173). -/
def Group.k0Free (g : Group) : Prop := Store.find g.kregs 0 = none

/-- A group stands under the number that issues. -/
def State.issuing (s : State) : Prop := (Store.find s.groups s.cur.gid).isSome = true

/-- Nothing changed but groups: memory, tags, caches, cores, dies, queues, messages, operations in flight are as before. -/
def State.sameOutside (s t : State) : Prop := { t with groups := s.groups } = s

/-- Nothing changed but groups, operations in flight, messages on their way, and the model's own numbering. -/
def State.sameButOps (s t : State) : Prop :=
  { t with groups := s.groups, ops := s.ops, agenda := s.agenda, fresh := s.fresh } = s

/-- Every group but the issuing one is as before. -/
def State.sameOthers (s t : State) : Prop := ∀ gid, gid ≠ s.cur.gid → Store.find t.groups gid = Store.find s.groups gid

/-- Every byte of memory reads as before. -/
def State.sameBytes (s t : State) : Prop := ∀ a, t.readByte a = s.readByte a

/-- Every byte of memory outside the `n` bytes at `a` reads as before. -/
def State.sameBytesBut (s t : State) (a n : Nat) : Prop := ∀ x, x < a ∨ a + n ≤ x → t.readByte x = s.readByte x

/-- The registers that an instruction may write. -/
structure Writes where
  s : List SReg := []
  v : List VReg := []
  c : List CReg := []
  k : List KReg := []
  /-- sr.fpcsr's sticky flags -/
  fl : Bool := false

/-- What of a group is none of its numbered registers, sr.fpcsr, paths and undo log: its special registers, format
slots, future, window, tokens and place. -/
def Group.bare (g : Group) : Group :=
  { g with sregs := [], vregs := [], cregs := [], kregs := [], fpcsr := 0, pa := {}, pb := {}, undo := [] }

/-- What an instruction of path `b` leaves of its own group: every register but those it writes, every special register,
every format slot, the future, the window, and the other path. -/
structure Group.Kept (g g' : Group) (b : Bool) (w : Writes) : Prop where
  sregs  : ∀ r, r ∉ w.s → g'.sreg r = g.sreg r
  vregs  : ∀ r, r ∉ w.v → g'.vreg r = g.vreg r
  cregs  : ∀ r, r ∉ w.c → g'.creg r = g.creg r
  kregs  : ∀ r, r ∉ w.k → g'.kreg r = g.kreg r
  status : w.fl = false → g'.fpcsr = g.fpcsr
  rest   : g'.bare = g.bare
  undo   : g.debug = false → g'.undo = g.undo
  other  : g'.path (!b) = g.path (!b)

/-- The frame of an instruction that writes registers and nothing else. -/
structure State.Frame (s t : State) (w : Writes) : Prop where
  kept    : s.g.Kept t.g s.cur.b w
  outside : s.sameOutside t
  others  : s.sameOthers t
  bytes   : s.sameBytes t

end Sys2Proof.Machine
end

