-- ==== Sys2Proof/Certificates/Slice0/Obligations.lean ====
section
/-! DEFINITION. The statements for the provers. Each names in its docstring the rules of the spec that it formalises; the
words in which they are said stand in Sys2Proof/Safety.lean and in the namespace Claim below. -/

namespace Sys2Proof.Claim

open Sys2Proof.Machine

/-- The instruction answers a next state of which `Q` holds. -/
def Ends (i : Instr) (s : State) (Q : State → Prop) : Prop := ∃ t, exec i s = .next t ∧ Q t

/-- The instruction, of `n` bytes, writes `v` to a scalar register, moves past itself, and does nothing else. -/
def SetsS (s : State) (i : Instr) (n : Nat) (d : SReg) (v : W64) : Prop :=
  Ends i s fun t => t.g.sreg d = v ∧ s.Frame t { s := [d] } ∧ t.p = s.p.past n

/-- The same for a capability register. -/
def SetsC (s : State) (i : Instr) (n : Nat) (d : CReg) (v : Cap) : Prop :=
  Ends i s fun t => t.g.creg d = v ∧ s.Frame t { c := [d] } ∧ t.p = s.p.past n

/-- The same for a mask register other than k0. -/
def SetsK (s : State) (i : Instr) (n : Nat) (d : KReg) (v : Mask) : Prop :=
  Ends i s fun t => t.g.kreg d = v ∧ s.Frame t { k := [d] } ∧ t.p = s.p.past n

end Sys2Proof.Claim

open Sys2Proof Sys2Proof.Machine Sys2Proof.Claim

/-! ### Scalar instructions (10 R259-R263) -/

namespace Sys2Proof.Claim

/-- The low w bits of a register as the number that the type reads (10 R259). -/
def sNum (ty : STy) (x : W64) : Int :=
  match ty with
  | .i32 => (x.truncate 32).toInt
  | .n32 => (x.truncate 32).toNat
  | .i64 => x.toInt
  | .n64 => x.toNat

/-- A number's low w bits, extended into a register (10 R259). -/
def sRes (ty : STy) (z : Int) : W64 :=
  match ty with
  | .i32 => (BitVec.ofInt 32 z).signExtend 64
  | .n32 => (BitVec.ofInt 32 z).zeroExtend 64
  | .i64 => BitVec.ofInt 64 z
  | .n64 => BitVec.ofInt 64 z

/-- An 8-bit immediate extended as the type says (10 R260). -/
def sImm (ty : STy) (v : Byte) : W64 :=
  match ty with
  | .i32 => v.signExtend 64
  | .n32 => v.zeroExtend 64
  | .i64 => v.signExtend 64
  | .n64 => v.zeroExtend 64

/-- The second operand, in either form (10 R260). -/
def sOp (s : State) (ty : STy) : SSrc → W64
  | .reg r => s.g.sreg r
  | .imm v => sImm ty v

/-- The width of a scalar type. -/
def sWidth : STy → Nat
  | .i32 => 32
  | .n32 => 32
  | .i64 => 64
  | .n64 => 64

/-- Whether a comparison holds of two numbers. -/
def cmpInt (c : Cmp) (x y : Int) : Prop :=
  match c with
  | .eq => x = y
  | .ne => x ≠ y
  | .lt => x < y
  | .le => x ≤ y
  | .gt => x > y
  | .ge => x ≥ y

end Sys2Proof.Claim

/-- Table 10.2: SADD, SSUB, SMUL, SMULH and SADDI write the exact integer result's low w bits (for SMULH bits 2w-1 to
w), extended under R259, in register and immediate form, and change nothing else of their group. Table 10.2: SAND, SOR
and SXOR combine bit by bit; SSHL, SSHR and SSRA shift by y mod w; SMIN and SMAX order as the type says; SCMP writes 1
or 0 (R263). Table 10.2: SSEL, SMOV, SLI, SPOPC and SCLZ, and the bit fields of R262. -/
def Obligations.ScalarArithmeticAndMoves : Prop :=
  ((∀ s : State, s.issuing → ∀ (ty : STy) (d a : SReg) (y : SSrc) (imm : W32),
    let x := sNum ty (s.g.sreg a)
    let z := sNum ty (sOp s ty y)
    SetsS s (.sadd ty d a y) 8 d (sRes ty (x + z)) ∧
    SetsS s (.ssub ty d a y) 8 d (sRes ty (x - z)) ∧
    SetsS s (.smul ty d a y) 8 d (sRes ty (x * z)) ∧
    SetsS s (.smulh ty d a y) 8 d (sRes ty (x * z / 2 ^ sWidth ty)) ∧
    SetsS s (.saddi ty d a imm) 16 d
      (sRes ty (x + match ty with | .i32 => imm.toInt | .i64 => imm.toInt | .n32 => imm.toNat | .n64 => imm.toNat))) ∧
  (∀ s : State, s.issuing → ∀ (ty : STy) (d a : SReg) (y : SSrc) (c : Cmp),
    let v := s.g.sreg a
    let u := sOp s ty y
    let x := sNum ty v
    let z := sNum ty u
    let n := u.toNat % sWidth ty
    SetsS s (.sand ty d a y) 8 d (sRes ty (v &&& u).toInt) ∧
    SetsS s (.sor ty d a y) 8 d (sRes ty (v ||| u).toInt) ∧
    SetsS s (.sxor ty d a y) 8 d (sRes ty (v ^^^ u).toInt) ∧
    SetsS s (.sshl ty d a y) 8 d (sRes ty (x * 2 ^ n)) ∧
    SetsS s (.sshr ty d a y) 8 d (sRes ty ((x % 2 ^ sWidth ty) / 2 ^ n)) ∧
    SetsS s (.ssra ty d a y) 8 d
      (sRes ty ((match ty with | .i32 => x | .n32 => (v.truncate 32).toInt | .i64 => x | .n64 => v.toInt) / 2 ^ n)) ∧
    SetsS s (.smin ty d a y) 8 d (sRes ty (min x z)) ∧
    SetsS s (.smax ty d a y) 8 d (sRes ty (max x z)) ∧
    (cmpInt c x z → SetsS s (.scmp c ty d a y) 8 d 1) ∧
    (¬ cmpInt c x z → SetsS s (.scmp c ty d a y) 8 d 0))) ∧
  (∀ s : State, s.issuing → ∀ (ty : STy) (d a b c : SReg) (y : SSrc) (imm : W64) (pos len : Byte),
    (ty.w64 = true → s.g.sreg c ≠ 0 → SetsS s (.ssel ty d a b c) 8 d (s.g.sreg a)) ∧
    (ty.w64 = true → s.g.sreg c = 0 → SetsS s (.ssel ty d a b c) 8 d (s.g.sreg b)) ∧
    SetsS s (.smov ty d y) 8 d (sRes ty (sNum ty (sOp s ty y))) ∧
    (ty.w64 = true → SetsS s (.sli ty d imm) 16 d imm) ∧
    Ends (.spopc ty d a) s (fun t =>
      (t.g.sreg d).toNat = ((List.range (sWidth ty)).filter fun i => (s.g.sreg a).getLsbD i).length ∧
      s.Frame t { s := [d] } ∧ t.p = s.p.past 8) ∧
    Ends (.sclz ty d a) s (fun t => (t.g.sreg d).toNat ≤ sWidth ty ∧
      (∀ i, sWidth ty - (t.g.sreg d).toNat ≤ i → i < sWidth ty → (s.g.sreg a).getLsbD i = false) ∧
      ((t.g.sreg d).toNat < sWidth ty → (s.g.sreg a).getLsbD (sWidth ty - 1 - (t.g.sreg d).toNat) = true) ∧
      s.Frame t { s := [d] } ∧ t.p = s.p.past 8) ∧
    (pos.toNat + len.toNat ≤ sWidth ty → 0 < len.toNat →
      (∀ i, i < len.toNat → Ends (.sbfe ty d a pos len) s fun t =>
        (t.g.sreg d).getLsbD i = (s.g.sreg a).getLsbD (pos.toNat + i)) ∧
      (∀ i, len.toNat ≤ i → i < 64 → Ends (.sbfe ty d a pos len) s fun t =>
        (t.g.sreg d).getLsbD i = (match ty with
          | .i32 => (s.g.sreg a).getLsbD (pos.toNat + len.toNat - 1)
          | .i64 => (s.g.sreg a).getLsbD (pos.toNat + len.toNat - 1)
          | .n32 => false
          | .n64 => false)) ∧
      Ends (.sbfe ty d a pos len) s (fun t => s.Frame t { s := [d] } ∧ t.p = s.p.past 8) ∧
      (∀ i, i < sWidth ty → Ends (.sbfi ty d a pos len) s fun t =>
        (t.g.sreg d).getLsbD i =
          if pos.toNat ≤ i ∧ i < pos.toNat + len.toNat then (s.g.sreg a).getLsbD (i - pos.toNat)
          else (s.g.sreg d).getLsbD i) ∧
      Ends (.sbfi ty d a pos len) s (fun t => t.g.sreg d = sRes ty (sNum ty (t.g.sreg d)) ∧
        s.Frame t { s := [d] } ∧ t.p = s.p.past 8)))

/-- R261: SDIV truncates toward zero; SREM's result has the sign of x and satisfies x = q × y + rem; a division by zero
gives all w bits set and x; the most negative number by -1 gives itself and 0; no case traps or sets a flag. -/
def Obligations.ScalarDivision : Prop :=
  ∀ s : State, s.issuing → ∀ (ty : STy) (d a : SReg) (y : SSrc),
    let x := sNum ty (s.g.sreg a)
    let z := sNum ty (sOp s ty y)
    (z = 0 → SetsS s (.sdiv ty d a y) 8 d (sRes ty (-1)) ∧ SetsS s (.srem ty d a y) 8 d (sRes ty x)) ∧
    (z ≠ 0 → ∃ q r : Int, x = q * z + r ∧ r.natAbs < z.natAbs ∧ (r ≠ 0 → (r < 0 ↔ x < 0)) ∧
      SetsS s (.sdiv ty d a y) 8 d (sRes ty q) ∧ SetsS s (.srem ty d a y) 8 d (sRes ty r)) ∧
    (z = -1 → x = -(2 ^ (sWidth ty - 1)) →
      SetsS s (.sdiv ty d a y) 8 d (sRes ty x) ∧ SetsS s (.srem ty d a y) 8 d 0)


/-! ### Capabilities (01 R9-R14, 10 R264-R270) -/

namespace Sys2Proof.Claim

/-- The instruction takes a trap: the state is the one that taking the cause leaves (16 R391; see TrapEntry). -/
def Traps (s : State) (i : Instr) (code : Nat) (faddr : W64) : Prop := exec i s = .next (s.trapAll code faddr)

/-- The bounds exponent of an object: the smallest that leaves its rounded span below 7 × 2^(e+26) (01 R13). -/
def IsExponent (b len e : Nat) : Prop :=
  let span (k : Nat) : Nat := (b + len + 2 ^ k - 1) / 2 ^ k * 2 ^ k - b / 2 ^ k * 2 ^ k
  span e < 7 * 2 ^ (e + 26) ∧ ∀ k, k < e → ¬ span k < 7 * 2 ^ (k + 26)

/-- What CINC leaves of its source `c` for a new cursor `a` (01 R10, R12; 10 R266). -/
def Moved (c r : Cap) (a : Int) : Prop :=
  (r.cursor : Int) = a % 2 ^ 57 ∧ r.e = c.e ∧ r.bm = c.bm ∧ r.tm = c.tm ∧ r.perms = c.perms ∧
    (r.tag = true ↔ c.tag = true ∧ c.e ≤ 33 ∧ c.bounds.wlo ≤ a ∧ a < c.bounds.whi)

end Sys2Proof.Claim

/-- R266, R12: CINC and CINCI add a signed 64-bit addend to the cursor modulo 2^57, copy bounds fields and
permissions, keep the tag exactly when the new cursor lies in the window, and check no tag; a tag that is kept at a
cursor within the address space keeps the decoded bounds too. R267 to R270: CPERM ANDs the permissions and copies
everything else; CGET reads each field; CTEST answers whether an access of that extent and kind passes R14; CSUB is
the signed difference of the cursors. -/
def Obligations.CapabilityMovesAndReads : Prop :=
  (∀ s : State, s.issuing → ∀ (d a : CReg) (b : SReg) (imm : W32),
    let c := s.g.creg a
    let a8 : Int := c.cursor + (s.g.sreg b).toInt
    let a16 : Int := c.cursor + imm.toInt
    Ends (.cinc d a b) s (fun t => Moved c (t.g.creg d) a8 ∧
      ((t.g.creg d).tag = true → 0 ≤ a8 → a8 < 2 ^ 57 → (t.g.creg d).bounds = c.bounds) ∧
      s.Frame t { c := [d] } ∧ t.p = s.p.past 8) ∧
    Ends (.cinci d a imm) s (fun t => Moved c (t.g.creg d) a16 ∧
      ((t.g.creg d).tag = true → 0 ≤ a16 → a16 < 2 ^ 57 → (t.g.creg d).bounds = c.bounds) ∧
      s.Frame t { c := [d] } ∧ t.p = s.p.past 16) ∧
    (c.e ≤ 33 → SetsC s (.cinci d a 0) 16 d c)) ∧
  (∀ s : State, s.issuing → ∀ (d : SReg) (x a b : CReg) (r : SReg) (m : BitVec 7),
    let c := s.g.creg a
    let big := 33 < c.e
    Ends (.cperm x a r) s (fun t =>
      let n := t.g.creg x
      n.tag = c.tag ∧ n.cursor = c.cursor ∧ n.e = c.e ∧ n.bm = c.bm ∧ n.tm = c.tm ∧ n.bounds = c.bounds ∧
        n.perms = c.perms &&& (s.g.sreg r).toNat ∧ s.Frame t { c := [x] } ∧ t.p = s.p.past 8) ∧
    SetsS s (.cget .cursor d a) 8 d (BitVec.ofNat 64 c.cursor) ∧
    SetsS s (.cget .base d a) 8 d (if big then 0 else BitVec.ofInt 64 c.bounds.base) ∧
    SetsS s (.cget .top d a) 8 d (if big then 0 else BitVec.ofInt 64 c.bounds.top) ∧
    SetsS s (.cget .len d a) 8 d (if big then 0 else BitVec.ofInt 64 (max 0 (c.bounds.top - c.bounds.base))) ∧
    SetsS s (.cget .perm d a) 8 d (BitVec.ofNat 64 c.perms) ∧
    SetsS s (.cget .tag d a) 8 d (if c.tag = true then 1 else 0) ∧
    SetsS s (.cget .e d a) 8 d (BitVec.ofNat 64 c.e) ∧
    SetsS s (.cget .lo d a) 8 d (c.bits.extractLsb' 0 64) ∧
    SetsS s (.cget .hi d a) 8 d (c.bits.extractLsb' 64 64) ∧
    ((c.tag = true ∧ c.bounds.base ≤ c.cursor ∧ ((c.cursor + (s.g.sreg r).toNat : Nat) : Int) ≤ c.bounds.top ∧
        c.cursor + (s.g.sreg r).toNat ≤ 2 ^ 57 ∧ (∀ i, i < 7 → m.getLsbD i = true → c.bits.getLsbD (57 + i) = true)) →
      SetsS s (.ctest d a r m) 8 d 1) ∧
    (¬ (c.tag = true ∧ c.bounds.base ≤ c.cursor ∧ ((c.cursor + (s.g.sreg r).toNat : Nat) : Int) ≤ c.bounds.top ∧
        c.cursor + (s.g.sreg r).toNat ≤ 2 ^ 57 ∧ (∀ i, i < 7 → m.getLsbD i = true → c.bits.getLsbD (57 + i) = true)) →
      SetsS s (.ctest d a r m) 8 d 0) ∧
    SetsS s (.csub d a b) 8 d (BitVec.ofInt 64 ((c.cursor : Int) - (s.g.creg b).cursor)))

/-- R265 with R13: CBND on a tagged source gives the object's bounds, rounded outward to multiples of 2^E and decoding to
just those, with the cursor, the permissions and the tag; it lies within the source's bounds; and it traps, the register
unwritten, on an untagged source, beyond 2^57, outside the source's bounds, and with .ex on inexact bounds. -/
def Obligations.CapabilityBoundsNarrow : Prop :=
  ∀ s : State, s.issuing → ∀ (ex : Bool) (d a : CReg) (b : SReg) (e : Nat),
    let c := s.g.creg a
    let x := c.cursor
    let len := (s.g.sreg b).toNat
    let nb := x / 2 ^ e * 2 ^ e
    let nt := (x + len + 2 ^ e - 1) / 2 ^ e * 2 ^ e
    (c.tag = false → ∃ f, Traps s (.cbnd ex d a b) 0x10 f) ∧
    (c.tag = true → 2 ^ 57 < x + len → ∃ f, Traps s (.cbnd ex d a b) 0x11 f) ∧
    (c.tag = true → x + len ≤ 2 ^ 57 → IsExponent x len e →
      (((nb : Int) < c.bounds.base ∨ (nt : Int) > c.bounds.top ∨ (ex = true ∧ (nb ≠ x ∨ nt ≠ x + len))) →
        ∃ f, Traps s (.cbnd ex d a b) 0x11 f) ∧
      (c.bounds.base ≤ nb → (nt : Int) ≤ c.bounds.top → (ex = true → nb = x ∧ nt = x + len) →
        Ends (.cbnd ex d a b) s fun t =>
          let r := t.g.creg d
          r.tag = true ∧ r.cursor = x ∧ r.perms = c.perms ∧ r.e = e ∧ r.bounds.base = nb ∧ r.bounds.top = nt ∧
            c.bounds.base ≤ r.bounds.base ∧ r.bounds.top ≤ c.bounds.top ∧ s.Frame t { c := [d] } ∧ t.p = s.p.past 8))

/-! ### Masks (10 R271) -/

/-- Table 10.4: the mask instructions, bit by bit; k0 as a source is the issuing path's active mask (R173), and none of
them changes it. -/
def Obligations.MaskInstructions : Prop :=
  ∀ s : State, s.issuing → ∀ (d a b : KReg) (r : SReg) (tt : BitVec 4) (n : BitVec 5), d ≠ 0 →
    let x := s.rk a
    let z := s.rk b
    s.rk 0 = s.p.mask ∧
    Ends (.kbool d a b tt) s (fun t => (∀ l, l < 32 → (t.g.kreg d).getLsbD l =
      tt.getLsbD ((if x.getLsbD l = true then 2 else 0) + (if z.getLsbD l = true then 1 else 0))) ∧
      s.Frame t { k := [d] } ∧ t.p = s.p.past 8) ∧
    SetsS s (.kget r a) 8 r (x.zeroExtend 64) ∧
    SetsK s (.kset d r) 8 d ((s.g.sreg r).truncate 32) ∧
    SetsS s (.kcnt r a) 8 r (BitVec.ofNat 64 ((List.range 32).filter fun i => x.getLsbD i).length) ∧
    Ends (.kfind false r a) s (fun t => let v := (t.g.sreg r).toNat
      v ≤ 32 ∧ (∀ l, l < v → x.getLsbD l = false) ∧ (v < 32 → x.getLsbD v = true) ∧ s.Frame t { s := [r] } ∧ t.p = s.p.past 8) ∧
    Ends (.kfind true r a) s (fun t => let v := (t.g.sreg r).toNat
      v ≤ 32 ∧ (v = 32 → x = 0) ∧ (v < 32 → x.getLsbD v = true ∧ ∀ l, v < l → l < 32 → x.getLsbD l = false) ∧
        s.Frame t { s := [r] } ∧ t.p = s.p.past 8) ∧
    SetsK s (.kshf .l d a n) 8 d (BitVec.ofNat 32 (x.toNat * 2 ^ n.toNat)) ∧
    SetsK s (.kshf .r d a n) 8 d (BitVec.ofNat 32 (x.toNat / 2 ^ n.toNat)) ∧
    Ends (.kshf .rot d a n) s (fun t => (∀ l, l < 32 → (t.g.kreg d).getLsbD ((l + n.toNat) % 32) = x.getLsbD l) ∧
      s.Frame t { k := [d] } ∧ t.p = s.p.past 8) ∧
    Ends (.kquad false d a) s (fun t => (∀ l, l < 32 → ((t.g.kreg d).getLsbD l = true ↔
      ∃ i, i < 8 ∧ x.getLsbD (8 * (l / 8) + i) = true)) ∧ s.Frame t { k := [d] } ∧ t.p = s.p.past 8) ∧
    Ends (.kquad true d a) s (fun t => (∀ l, l < 32 → ((t.g.kreg d).getLsbD l = true ↔
      ∀ i, i < 8 → x.getLsbD (8 * (l / 8) + i) = true)) ∧ s.Frame t { k := [d] } ∧ t.p = s.p.past 8)

/-! ### Vector integer instructions (11 R272-R282) -/

namespace Sys2Proof.Claim

/-- The registers of a vector result: one, or a pair (11 R273). -/
def vDest (pair : Bool) (d : VReg) : List VReg := if pair then [d, d + 1] else [d]

/-- Element `i` of lane `l` of a register of a type. -/
def elemOf (s : State) (ty : ETy) (r : VReg) (l i : Nat) : Nat := elemAt ty (s.g.laneOf ty.pair r l) i

/-- Element `i` of lane `l` of the last source (11 Table 11.1). -/
def srcElem (s : State) (ty : ETy) (y : VSrc) (l i : Nat) : Nat := elemAt ty (s.g.srcLane ty y l) i

/-- The number that an element's type reads. -/
def eNum (ty : ETy) (x : Nat) : Int := if etySigned ty then (BitVec.ofNat ty.elemBits x).toInt else x

/-- A number's low w bits. -/
def eWrap (ty : ETy) (z : Int) : Nat := (z % 2 ^ ty.elemBits).toNat

/-- A number clamped to the range of its type under .sat, and its low w bits (08 R197, 11 R277). -/
def eFit (ty : ETy) (sat : Bool) (z : Int) : Nat :=
  eWrap ty (if sat then
    if etySigned ty then max (-(2 ^ (ty.elemBits - 1))) (min (2 ^ (ty.elemBits - 1) - 1) z)
    else max 0 (min (2 ^ ty.elemBits - 1) z)
  else z)

/-- The destination holds `val l i` in element `i` of every selected lane `l`, and what it held in every other lane
(11 R272). -/
def LanesHold (s t : State) (p : Pred) (ty : ETy) (d : VReg) (val : Nat → Nat → Nat) : Prop :=
  ∀ l, l < 32 →
    ((s.sel p).getLsbD l = true → ∀ i, i < elemCount ty → elemOf t ty d l i = val l i) ∧
    ((s.sel p).getLsbD l = false → t.g.laneOf ty.pair d l = s.g.laneOf ty.pair d l)

/-- A lane-wise instruction of `n` bytes: its lanes, and nothing else. -/
def SetsLanes (s : State) (i : Instr) (n : Nat) (p : Pred) (ty : ETy) (d : VReg) (val : Nat → Nat → Nat) : Prop :=
  Ends i s fun t => LanesHold s t p ty d val ∧ s.Frame t { v := vDest ty.pair d } ∧ t.p = s.p.past n

end Sys2Proof.Claim

/-- Table 11.2: VADD, VSUB, VMUL, VMULH, VMAD and VABS give the exact integer result, wrapped or under .sat clamped to
the type's range, in every element of every selected lane, and leave every other lane and register (R272, R277). R219,
R273, R274: the lanes that an instruction selects, and the three forms of its last source. Table 11.2: bitwise
operations, shifts by y mod w, and minimum and maximum. -/
def Obligations.VectorArithmeticAndLogic : Prop :=
  ((∀ s : State, s.issuing → ∀ (p : Pred) (ty : ETy) (r : VReg) (q : SReg) (v : Byte) (l i : Nat), l < 32 → i < elemCount ty →
    (s.p.replay = none → (s.sel p).getLsbD l = (s.p.mask.getLsbD l && ((s.rk p.k).getLsbD l != p.kn))) ∧
    (s.sel p).getLsbD l = (s.p.mask.getLsbD l && (s.p.replay.getD 0xFFFFFFFF).getLsbD l && ((s.rk p.k).getLsbD l != p.kn)) ∧
    srcElem s ty (.reg r) l i = elemOf s ty r l i ∧
    srcElem s ty (.imm v) l i = eWrap ty (if etySigned ty then v.toInt else v.toNat) ∧
    srcElem s ty (.sc q) l i = (s.g.sreg q).toNat / 2 ^ (ty.elemBits * i) % 2 ^ ty.elemBits ∧
    (ty.pair = false → s.g.laneOf ty.pair r l = ((s.g.vreg r).at l).toNat) ∧
    (ty.pair = true → s.g.laneOf ty.pair r l = ((s.g.vreg r).at l).toNat + 2 ^ 32 * ((s.g.vreg (r + 1)).at l).toNat)) ∧
  ∀ s : State, s.issuing → ∀ (p : Pred) (ty : ETy) (sat : Bool) (d a c : VReg) (y : VSrc),
    let x (l i : Nat) : Int := eNum ty (elemOf s ty a l i)
    let z (l i : Nat) : Int := eNum ty (srcElem s ty y l i)
    let w (l i : Nat) : Int := eNum ty (elemOf s ty c l i)
    SetsLanes s (.vadd p ty sat d a y) 8 p ty d (fun l i => eFit ty sat (x l i + z l i)) ∧
    SetsLanes s (.vsub p ty sat d a y) 8 p ty d (fun l i => eFit ty sat (x l i - z l i)) ∧
    SetsLanes s (.vmul p ty sat d a y) 8 p ty d (fun l i => eFit ty sat (x l i * z l i)) ∧
    SetsLanes s (.vmulh p ty d a y) 8 p ty d (fun l i => eWrap ty (x l i * z l i / 2 ^ ty.elemBits)) ∧
    SetsLanes s (.vmad p ty sat d a y c) 8 p ty d (fun l i => eFit ty sat (x l i * z l i + w l i)) ∧
    SetsLanes s (.vabs p ty sat d a) 8 p ty d (fun l i => eFit ty sat (x l i).natAbs)) ∧
  (∀ s : State, s.issuing → ∀ (p : Pred) (ty : ETy) (d a : VReg) (y : VSrc),
    let x (l i : Nat) : Nat := elemOf s ty a l i
    let z (l i : Nat) : Nat := srcElem s ty y l i
    SetsLanes s (.vand p ty d a y) 8 p ty d (fun l i => x l i &&& z l i) ∧
    SetsLanes s (.vor p ty d a y) 8 p ty d (fun l i => x l i ||| z l i) ∧
    SetsLanes s (.vxor p ty d a y) 8 p ty d (fun l i => x l i ^^^ z l i) ∧
    SetsLanes s (.vnot p ty d a) 8 p ty d (fun l i => eWrap ty (-1 - (x l i : Int))) ∧
    SetsLanes s (.vshl p ty d a y) 8 p ty d (fun l i => x l i * 2 ^ (z l i % ty.elemBits) % 2 ^ ty.elemBits) ∧
    SetsLanes s (.vshr p ty d a y) 8 p ty d (fun l i => x l i / 2 ^ (z l i % ty.elemBits)) ∧
    SetsLanes s (.vsra p ty d a y) 8 p ty d
      (fun l i => eWrap ty ((BitVec.ofNat ty.elemBits (x l i)).toInt / 2 ^ (z l i % ty.elemBits))) ∧
    SetsLanes s (.vmin p ty d a y) 8 p ty d (fun l i => if eNum ty (x l i) ≤ eNum ty (z l i) then x l i else z l i) ∧
    SetsLanes s (.vmax p ty d a y) 8 p ty d (fun l i => if eNum ty (x l i) ≤ eNum ty (z l i) then z l i else x l i))

/-- Table 11.2, R281: counts, the reversal of bits, and the bit fields. -/
def Obligations.VectorBitCountsAndFields : Prop :=
  ∀ s : State, s.issuing → ∀ (p : Pred) (ty : ETy) (d a : VReg) (pos len : Byte),
    let x (l i : Nat) : Nat := elemOf s ty a l i
    SetsLanes s (.vpopc p ty d a) 8 p ty d (fun l i => ((List.range ty.elemBits).filter fun j => (x l i).testBit j).length) ∧
    SetsLanes s (.vclz p ty d a) 8 p ty d
      (fun l i => if x l i = 0 then ty.elemBits else ty.elemBits - 1 - Nat.log2 (x l i)) ∧
    Ends (.vbrev p ty d a) s (fun t => (∀ l i j, l < 32 → i < elemCount ty → j < ty.elemBits → (s.sel p).getLsbD l = true →
      (elemOf t ty d l i).testBit j = (x l i).testBit (ty.elemBits - 1 - j)) ∧
      s.Frame t { v := vDest ty.pair d } ∧ t.p = s.p.past 8) ∧
    (ty.wide = true → pos.toNat + len.toNat ≤ ty.elemBits → 0 < len.toNat →
      SetsLanes s (.vbfe p ty d a pos len) 8 p ty d (fun l i =>
        let f := x l i / 2 ^ pos.toNat % 2 ^ len.toNat
        eWrap ty (if etySigned ty then (BitVec.ofNat len.toNat f).toInt else f)) ∧
      Ends (.vbfi p ty d a pos len) s (fun t => (∀ l j, l < 32 → j < ty.elemBits → (s.sel p).getLsbD l = true →
        (elemOf t ty d l 0).testBit j =
          if pos.toNat ≤ j ∧ j < pos.toNat + len.toNat then (x l 0).testBit (j - pos.toNat)
          else (elemOf s ty d l 0).testBit j) ∧
        s.Frame t { v := vDest ty.pair d } ∧ t.p = s.p.past 8))

/-- R278, R279, R280, R282 and Table 11.2: VCMP, VSEL, VMOV, VLI and VDP4. -/
def Obligations.VectorCompareMoveDot : Prop :=
  ∀ s : State, s.issuing → ∀ (p : Pred) (ty : ETy) (c : Cmp) (k : KReg) (d a b : VReg) (y : VSrc) (imm : W32) (sat su : Bool),
    (k ≠ 0 → ty.wide = true →
      Ends (.vcmp p c ty k a y) s fun t =>
        ((∃ l, l < 32 ∧ (s.sel p).getLsbD l = true) → ∀ l, l < 32 → ((t.g.kreg k).getLsbD l = true ↔
          (s.sel p).getLsbD l = true ∧ cmpInt c (eNum ty (elemOf s ty a l 0)) (eNum ty (srcElem s ty y l 0)))) ∧
        (s.sel p = 0 → t.g.kreg k = s.g.kreg k) ∧ s.Frame t { k := [k] } ∧ t.p = s.p.past 8) ∧
    SetsLanes s (.vsel p ty d a y k) 8 p ty d
      (fun l i => if (s.rk k).getLsbD l = true then elemOf s ty a l i else srcElem s ty y l i) ∧
    SetsLanes s (.vmov p ty d y) 8 p ty d (fun l i => srcElem s ty y l i) ∧
    SetsLanes s (.vli p ty d imm) 16 p ty d (fun _ i => if ty = .i64 then eWrap ty imm.toInt else elemAt ty imm.toNat i) ∧
    (ty = .i8x4 ∨ (ty = .n8x4 ∧ su = false) → y.noImm = true →
      let r : ETy := if ty = .i8x4 then .i32 else .n32
      let yTy : ETy := if su then .n8x4 else ty
      SetsLanes s (.vdp4 p su ty sat d a y b) 8 p r d fun l _ =>
        eFit r sat (eNum r (elemOf s r b l 0) +
          (eNum ty (elemOf s ty a l 0) * eNum yTy (srcElem s ty y l 0) + eNum ty (elemOf s ty a l 1) * eNum yTy (srcElem s ty y l 1) +
            eNum ty (elemOf s ty a l 2) * eNum yTy (srcElem s ty y l 2) + eNum ty (elemOf s ty a l 3) * eNum yTy (srcElem s ty y l 3))))

/-! ### Control (10 R248-R258, 07 R175-R178, 09 R222-R225) -/

namespace Sys2Proof.Claim

/-- A taken transfer: the path is at `a` at a clause start, with the loops `l`, and nothing else changed. -/
def Goes (s t : State) (a : VA) (l : List LoopEntry) (w : Writes) : Prop :=
  t.p = { s.p.used with pc := a, left := 0, loops := l } ∧ s.Frame t w

/-- The issuing path goes on past `n` bytes, and nothing else changed. -/
def Passes (s : State) (i : Instr) (n : Nat) : Prop := Ends i s fun t => t.p = s.p.past n ∧ s.Frame t {}

/-- When BRC transfers (10 R251). -/
def taken (s : State) : BrCond → Prop
  | .any q => ∃ l, l < 32 ∧ s.p.mask.getLsbD l = true ∧ (s.rk q.k).getLsbD l ≠ q.kn
  | .all q => ∀ l, l < 32 → s.p.mask.getLsbD l = true → (s.rk q.k).getLsbD l ≠ q.kn
  | .nz a => s.g.sreg a ≠ 0
  | .z a => s.g.sreg a = 0

/-- A step that changes the two paths of the issuing group and no register, nor anything outside but operations. -/
def PathsOnly (s t : State) : Prop :=
  { t.g with pa := s.g.pa, pb := s.g.pb } = s.g ∧ s.sameButOps t ∧ s.sameOthers t

/-- Whether a loop's body holds an address. -/
def inBody (e : LoopEntry) (a : VA) : Prop := e.start ≤ a ∧ a ≤ e.fin

/-- A stack entry without the place where it is kept. -/
def placeless (e : StackEntry) : StackEntry := { e with onChip := true }

end Sys2Proof.Claim

/-- R249, R250, R251, R255: NOP and YIELD have no effect; BR moves the path by its signed offset modulo 2^57; BRC does
when its condition holds and goes on past its 16 bytes when it does not. A taken transfer sets left to 0 (R223). R254
with R258 and R393: CALL writes pc + 16 to its link register and transfers; RET and JMPI go to the register's address,
with equal effect, and trap on nonzero bits 63 to 57; none of them pops a loop. A handler's transfer to an address
other than sr.epc is an ordinary one. -/
def Obligations.TransfersAndNop : Prop :=
  (∀ s : State, s.issuing → ∀ (c : BrCond) (off : W32),
    let a : VA := BitVec.ofInt 57 (s.p.pc.toNat + off.toInt)
    Passes s .nop 8 ∧ Passes s .yield 8 ∧
    Ends (.br off) s (fun t => Goes s t a (breakLoops s.p.pc a s.p.loops) {}) ∧
    (taken s c → Ends (.brc c off) s fun t => Goes s t a (breakLoops s.p.pc a s.p.loops) {}) ∧
    (¬ taken s c → Passes s (.brc c off) 16)) ∧
  (∀ s : State, s.issuing → ∀ (d a : SReg) (off : W32),
    let v := s.g.sreg a
    Ends (.call d off) s (fun t => (t.g.sreg d).toNat = (s.p.pc.toNat + 16) % 2 ^ 57 ∧
      Goes s t (BitVec.ofInt 57 (s.p.pc.toNat + off.toInt)) s.p.loops { s := [d] }) ∧
    exec (.ret a) s = exec (.jmpi a) s ∧
    (v.toNat < 2 ^ 57 → (s.p.frame.isSome = true → v ≠ s.g.epc) →
      Ends (.ret a) s (fun t => Goes s t (v.truncate 57) s.p.loops {}) ∧
        Ends (.jmpi a) s fun t => Goes s t (v.truncate 57) s.p.loops {}) ∧
    (2 ^ 57 ≤ v.toNat → Traps s (.ret a) 0x02 v ∧ Traps s (.jmpi a) 0x02 v))

/-- R256, R257: LOOP pushes START, END and the count and enters the body; with four loops it raises SPILL_FAULT; with
a count of 0 it skips past the body's last instruction, whose length its word gives. R258 with R223: how the loop
stack moves when an instruction ends. Past END the innermost loop counts down and transfers back to START at a clause
start; when its last round ends it is popped and the next loop is looked at; away from END the path goes on in its
clause; a taken transfer pops just the loops that it leaves. -/
def Obligations.Loops : Prop :=
  (∀ s : State, s.issuing → ∀ (a : SReg) (off : W32),
    let n := s.g.sreg a
    let fin : VA := BitVec.ofInt 57 (s.p.pc.toNat + off.toInt)
    (s.p.loops.length < 4 → n ≠ 0 →
      Ends (.loop a off) s fun t => Goes s t (s.p.pc + 16) (⟨s.p.pc + 16, fin, n⟩ :: s.p.loops) {}) ∧
    (4 ≤ s.p.loops.length → Traps s (.loop a off) 0x38 0) ∧
    (s.p.loops.length < 4 → n = 0 → (∀ e ∈ s.p.loops, e.fin ≠ s.p.pc) → ∀ l u bs, s.launchOf s.g = some l →
      s.fetchAt s.g.core s.g.asid l.code fin.toNat 8 = (u, .ok bs) →
        Ends (.loop a off) s fun t => (t.p.pc = fin + 8 ∨ t.p.pc = fin + 16) ∧
          (t.p.pc = fin + 16 ↔ natOf bs % 4 = 1 ∨ natOf bs % 4 = 2) ∧
          t.p.left = 0 ∧ t.p.loops = u.p.loops ∧ u.Frame t {})) ∧
  (∀ (p : Path) (n : Nat) (e : LoopEntry) (r : List LoopEntry) (a : VA),
    (p.loops = [] ∨ (p.loops = e :: r ∧ e.fin ≠ p.pc) →
      (p.past n).pc.toNat = (p.pc.toNat + n) % 2 ^ 57 ∧ (p.past n).loops = p.loops ∧ (p.past n).left = p.left - 1) ∧
    (p.loops = e :: r → e.fin = p.pc → 1 < e.left.toNat →
      (p.past n).pc = e.start ∧ (p.past n).loops = { e with left := e.left - 1 } :: r ∧ (p.past n).left = 0) ∧
    (p.loops = e :: r → e.fin = p.pc → e.left = 1 →
      (p.past n).pc = ({ p with loops := r }.past n).pc ∧ (p.past n).loops = ({ p with loops := r }.past n).loops ∧
        (p.past n).left = 0) ∧
    breakLoops p.pc a [] = [] ∧
    (inBody e p.pc → ¬ inBody e a → breakLoops p.pc a (e :: r) = breakLoops p.pc a r) ∧
    (¬ inBody e p.pc ∨ inBody e a → breakLoops p.pc a (e :: r) = e :: r) ∧
    (p.past n).mask = p.mask ∧ (p.past n).stack = p.stack ∧ (p.past n).replay = none ∧ (p.past n).seta = p.seta ∧
      (p.past n).setb = p.setb ∧ (p.past n).wait = p.wait ∧ (p.past n).frame = p.frame)

/-- R175, R176, R178, R252, R256: BRD with every lane taken branches; with none it falls through; with a free slot it
starts the partner path there, with the issuing path's operations charged to both; with both slots live it pushes a
deferred entry; a push beyond 2080 entries traps, and so does one whose spill to memory fails, with the address of the
spill (which pushes fail is free: assumption 131). -/
def Obligations.DivergentBranch : Prop :=
  ∀ s : State, s.issuing → ∀ (q : Pred) (t8 rc8 : W32) (tm nm : Mask),
    (∀ l, l < 32 → tm.getLsbD l = (s.p.mask.getLsbD l && ((s.rk q.k).getLsbD l != q.kn))) →
    (∀ l, l < 32 → nm.getLsbD l = (s.p.mask.getLsbD l && !tm.getLsbD l)) →
    let i : Instr := .brd q t8 rc8
    let tt : VA := BitVec.ofInt 57 (s.p.pc.toNat + t8.toInt)
    let rc : VA := BitVec.ofInt 57 (s.p.pc.toNat + rc8.toInt)
    (nm = 0 → Ends i s fun t => Goes s t tt (breakLoops s.p.pc tt s.p.loops) {}) ∧
    (tm = 0 → nm ≠ 0 → Passes s i 16) ∧
    (tm ≠ 0 → nm ≠ 0 → s.q.live = false → Ends i s fun t =>
      t.p = { s.p with mask := nm, rpc := rc, partner := true }.past 16 ∧
      t.q = { live := true, mask := tm, pc := tt, rpc := rc, partner := true, loops := breakLoops s.p.pc tt s.p.loops } ∧
      PathsOnly s t ∧ t.ops.map Prod.fst = s.ops.map Prod.fst ∧
      (∀ o ∈ s.ops, o.2.gid = s.cur.gid → (if s.cur.b then o.2.chB else o.2.chA) = true →
        ∃ x ∈ t.ops, x.1 = o.1 ∧ x.2.chA = true ∧ x.2.chB = true ∧ x.2.flag = o.2.flag)) ∧
    (tm ≠ 0 → nm ≠ 0 → s.q.live = true → s.g.pa.stack.length + s.g.pb.stack.length < 2080 →
        (s.g.onChip.length < 32 ∨ Config.spillFails s.fresh = none) → Ends i s fun t =>
      t.p.mask = nm ∧ t.p.pc = (s.p.past 16).pc ∧ t.q.mask = s.q.mask ∧ t.q.pc = s.q.pc ∧
      t.p.stack.map placeless = ⟨true, tm, tt, rc, s.fresh, true⟩ :: s.p.stack.map placeless ∧
      t.q.stack.map placeless = s.q.stack.map placeless ∧ PathsOnly s t) ∧
    (tm ≠ 0 → nm ≠ 0 → s.q.live = true → 2080 ≤ s.g.pa.stack.length + s.g.pb.stack.length → Traps s i 0x38 0) ∧
    (tm ≠ 0 → nm ≠ 0 → s.q.live = true → s.g.pa.stack.length + s.g.pb.stack.length < 2080 → 32 ≤ s.g.onChip.length →
        Ends i s fun t => ∀ a, Config.spillFails s.fresh = some a → t = s.bump.trapAll 0x38 a)

/-- R177, R253: RECONV starts the deferred side of a matching deferred entry; pops a matching join entry and looks again;
merges the two paths into slot A when the partner waits there, and else waits for it; and where neither the stack nor the
partner's address matches it has no effect. -/
def Obligations.Reconvergence : Prop :=
  ∀ s : State, s.issuing → ∀ (e : StackEntry) (r : List StackEntry),
    let meets := s.p.partner = true ∧ s.p.rpc = s.p.pc
    let clear := ∀ x ∈ s.p.stack.head?, x.rpc ≠ s.p.pc
    (clear → ¬ meets → Passes s .reconv 8) ∧
    (s.p.stack = e :: r → e.rpc = s.p.pc → e.deferred = true → Ends .reconv s fun t =>
      t.p = { s.p.used with
        pc := e.pc, left := 0, loops := breakLoops s.p.pc e.pc s.p.loops, mask := e.mask
        stack := { e with deferred := false, mask := s.p.mask, pc := 0 } :: r } ∧ s.Frame t {}) ∧
    (s.p.stack = e :: r → e.rpc = s.p.pc → e.deferred = false →
      exec .reconv s = exec .reconv (s.modP fun p => { p with mask := p.mask ||| e.mask, stack := refillTop r })) ∧
    (clear → meets → (s.q.live = true ∧ s.q.wait = .reconv ∧ s.q.pc = s.p.pc) → Ends .reconv s fun t =>
      t.cur.gid = s.cur.gid ∧ t.cur.b = false ∧ t.g.pb = {} ∧ t.p.live = true ∧ t.p.partner = false ∧ t.p.wait = .none ∧
      t.p.mask = s.g.pa.mask ||| s.g.pb.mask ∧ t.p.stack = s.g.pb.stack ++ s.g.pa.stack ∧
      t.p.pc = ({ s.p with loops := s.g.pa.loops }.past 8).pc ∧ t.p.loops = ({ s.p with loops := s.g.pa.loops }.past 8).loops ∧
      { t.g with pa := s.g.pa, pb := s.g.pb } = s.g ∧ s.sameOthers t) ∧
    (clear → meets → ¬ (s.q.live = true ∧ s.q.wait = .reconv ∧ s.q.pc = s.p.pc) → Ends .reconv s fun t =>
      t.p = { s.p with wait := .reconv, parkedAt := s.time } ∧ s.Frame t {})

/-- R222, R223, R225: a header whose flags are all clear gives the path its count and flag numbers and moves it to the
first instruction; while a flag that it names counts an operation of the path, nothing happens. -/
def Obligations.ClauseHeaders : Prop :=
  ∀ s : State, s.issuing → ∀ (wait : BitVec 12) (a b : BitVec 4) (n : BitVec 6) (y : Bool),
    let busy := ∃ i, i < 12 ∧ wait.getLsbD i = true ∧
      ∃ o ∈ s.ops, o.2.gid = s.cur.gid ∧ (if s.cur.b then o.2.chB else o.2.chA) = true ∧ o.2.flag = some i
    (busy → exec (.clauseHeader wait a b n y) s = .next s) ∧
    (¬ busy → Ends (.clauseHeader wait a b n y) s fun t =>
      t.p.left = n.toNat + 1 ∧ t.p.seta = a ∧ t.p.setb = b ∧ t.p.pc = s.p.pc + 8 ∧ t.p.mask = s.p.mask ∧
      t.p.loops = s.p.loops ∧ t.p.stack = s.p.stack ∧ t.p.wait = s.p.wait ∧ s.Frame t {})

/-! ### Numbers and vector float instructions (08 R196-R208, 11 R283-R296) -/

namespace Sys2Proof.Claim

/-- The rational number that a finite value is. -/
def ratOf : Val → ℚ
  | .fin s m e _ => (if s then -1 else 1) * (m * (2 : ℚ) ^ e)
  | .inf _ => 0
  | .nan _ => 0

/-- An exact finite value. -/
def exactFin : Val → Prop
  | .fin _ _ _ st => st = false
  | .inf _ => False
  | .nan _ => False

/-- The float formats: the four of 08 Table 8.1, binary8pP for P from 1 to 7, and F4 (08 R196-R200). -/
def aFormat : Fmt → Prop
  | .ieee eb fb => (eb = 11 ∧ fb = 52) ∨ (eb = 8 ∧ fb = 23) ∨ (eb = 5 ∧ fb = 10) ∨ (eb = 8 ∧ fb = 7)
  | .p8 p _ _ => 1 ≤ p ∧ p ≤ 7
  | .f4 => True

/-- round_int of 08 R203: `n` is what a nonnegative number `q` of sign `s` rounds to. -/
def RoundsTo (rm : Rm) (s : Bool) (q : ℚ) (n : Nat) : Prop :=
  match rm with
  | .rne => |q - n| ≤ 1 / 2 ∧ (|q - n| = 1 / 2 → n % 2 = 0)
  | .rna => |q - n| ≤ 1 / 2 ∧ (|q - n| = 1 / 2 → q < n)
  | .rtz => (n : ℚ) ≤ q ∧ q < n + 1
  | .rdn => if s then q ≤ n ∧ (n : ℚ) < q + 1 else (n : ℚ) ≤ q ∧ q < n + 1
  | .rup => if s then (n : ℚ) ≤ q ∧ q < n + 1 else q ≤ n ∧ (n : ℚ) < q + 1
  | .dyn => False

/-- The float element types (09 Table 9.4). -/
def floatTy (ty : ETy) : Prop := ty = .f32 ∨ ty = .f64 ∨ ty = .f16x2 ∨ ty = .bf16x2 ∨ ty = .f16 ∨ ty = .bf16

/-- One lane's element results: code and flags. -/
abbrev Res := Nat → Nat → Nat × Nat

/-- Flag `b` is raised by some element of some selected lane (08 R202). -/
def raised (s : State) (p : Pred) (ty : ETy) (r : Res) (b : Nat) : Prop :=
  ∃ l i, l < 32 ∧ i < elemCount ty ∧ (s.sel p).getLsbD l = true ∧ (r l i).2.testBit b = true

/-- The flags gather in sr.fpcsr[5:0], and nothing else of it changes (08 R206). -/
def FlagsGather (s t : State) (up : Nat → Prop) : Prop :=
  ∀ b, b < 64 → (t.g.fpcsr.getLsbD b = true ↔ s.g.fpcsr.getLsbD b = true ∨ (b < 6 ∧ up b))

/-- An interlocked float instruction: the results, the flags, and then ARITH, at the next instruction, when a raised
flag is enabled (08 R206-R208). `w` are the registers written, `H` what they hold. -/
def Floats (s : State) (i : Instr) (up : Nat → Prop) (w : Writes) (H : State → Prop) : Prop :=
  let final (t : State) : Prop := H t ∧ FlagsGather s t up ∧ s.Frame t { w with fl := true } ∧ t.p = s.p.past 8
  ((∀ b, b < 5 → up b → s.g.fpcsr.getLsbD (8 + b) = false) → Ends i s final) ∧
  ((∃ b, b < 5 ∧ up b ∧ s.g.fpcsr.getLsbD (8 + b) = true) →
    ∃ (u : State) (fa : W64), final u ∧ exec i s = .next (u.trap 0x30 fa 0) ∧
      ∀ b, b < 64 → (fa.getLsbD b = true ↔ b < 5 ∧ up b))

/-- A lane-wise float instruction with destination type `ty`. -/
def FloatLanes (s : State) (i : Instr) (p : Pred) (ty : ETy) (d : VReg) (r : Res) : Prop :=
  Floats s i (raised s p ty r) { v := vDest ty.pair d } fun t => LanesHold s t p ty d fun l k => (r l k).1

/-- The value of an element of a register, and of the last source. -/
def fElem (s : State) (ty : ETy) (a : VReg) (l i : Nat) : Val := decodeBase (fmtOf ty) (elemOf s ty a l i)
def fSrc (s : State) (ty : ETy) (y : VSrc) (l i : Nat) : Val := decodeBase (fmtOf ty) (srcElem s ty y l i)

/-- A result rounded once into the element format, with its flags (11 R284). -/
def once (s : State) (f : Fmt) (r : Rnd) (v : Val × Nat) : Nat × Nat :=
  let c := cvt f (s.g.roundMode r.rm) r.sat v.1
  (c.1, c.2 ||| v.2)

/-- The issue of a counted operation of `n` bytes: a record in flight under a new number, charged to the issuing path in
the flag that its clause names (09 R224), and no register changed. -/
def Opened (s t : State) (n : Nat) (cls : Bool) (P : OpRec → Prop) : Prop :=
  ∃ o, Store.find t.ops s.fresh = some o ∧ o.gid = s.cur.gid ∧ o.b = s.cur.b ∧ o.chA = !s.cur.b ∧ o.chB = s.cur.b ∧
    o.flag = s.p.flagOf cls ∧ o.parked = false ∧ P o ∧ t.p = s.p.past n ∧ s.g.Kept t.g s.cur.b {} ∧ s.sameOthers t

/-- A class B float instruction: with a lane selected, an operation that holds the results, and its completion on its
way; with none, nothing (09 R219, Table 9.6). -/
def FloatLater (s : State) (i : Instr) (p : Pred) (ty : ETy) (d : VReg) (r : Res) : Prop :=
  (s.sel p = 0 → Passes s i 8) ∧
  (s.sel p ≠ 0 → Ends i s fun t => Opened s t 8 true (fun o => o.out = 0 ∧ o.fin = .none ∧
      (∀ b, b < 64 → (o.flags.getLsbD b = true ↔ raised s p ty r b)) ∧
      ∃ x y : Lanes, o.writes = .v d (s.sel p) x :: (if ty.pair then [.v (d + 1) (s.sel p) y] else []) ∧
        ∀ l i, l < 32 → i < elemCount ty →
          elemAt ty ((x.at l).toNat + (if ty.pair then (y.at l).toNat * 2 ^ 32 else 0)) i = (r l i).1) ∧
    t.agenda = s.agenda ++ [.countedComplete s.fresh] ∧ s.sameButOps t)


/-- x is before y in the order of numbers, with the infinities at its ends. -/
def fLess (x y : Val) : Prop :=
  match x, y with
  | .inf a, .inf b => a = true ∧ b = false
  | .inf a, _ => a = true
  | _, .inf b => b = false
  | _, _ => ratOf x < ratOf y

/-- The order of VFMIN and VFMAX, in which -0 is before +0 (11 R286). -/
def fBefore (x y : Val) : Prop := fLess x y ∨ (¬ fLess y x ∧ signOf x = true ∧ signOf y = false)

/-- When a comparison holds (11 R287). -/
def fCmpHolds (c : FCmp) (x y : Val) : Prop :=
  let un := isNan x = true ∨ isNan y = true
  match c with
  | .eq => ¬ un ∧ ¬ fLess x y ∧ ¬ fLess y x
  | .ne => un ∨ fLess x y ∨ fLess y x
  | .lt => ¬ un ∧ fLess x y
  | .le => ¬ un ∧ ¬ fLess y x
  | .gt => ¬ un ∧ fLess y x
  | .ge => ¬ un ∧ ¬ fLess x y
  | .uo => un
  | .or => ¬ un

/-- The conditions that are false on every NaN and set NV for it. -/
def ordered : FCmp → Bool
  | .lt => true
  | .le => true
  | .gt => true
  | .ge => true
  | .eq => false
  | .ne => false
  | .uo => false
  | .or => false

end Sys2Proof.Claim

/-- R203, R204: rounding an exact nonzero number into any format, in any mode: the procedure cvt of the spec over the
rational numbers, with its saturation, its flags NX, UF, OF and NV, and its result code; and rounding into an integer of
w bits. -/
def Obligations.Rounding : Prop :=
  (∀ (f : Fmt) (rm : Rm) (sat s : Bool) (m : Nat) (e : Int), aFormat f → rm ≠ .dyn → m ≠ 0 →
    let x : ℚ := m * (2 : ℚ) ^ e
    let lg := Int.log 2 x
    let ex := max lg (fmtEmin f)
    let ulp : ℚ := (2 : ℚ) ^ (ex - fmtPrec f + 1)
    let r := cvt f rm sat (.fin s m e false)
    (s = true → fmtSigned f = false → r = ((fmtNan f).getD 0, 1)) ∧
    (¬ (s = true ∧ fmtSigned f = false) → ∃ n, RoundsTo rm s (x / ulp) n ∧
      let v : ℚ := n * ulp
      let top : ℚ := ratOf (decodeBase f (fmtMax f))
      let nx := if v = x then 0 else 16 + (if lg < fmtEmin f then 8 else 0)
      (v ≤ top → r.2 = nx ∧ exactFin (decodeBase f r.1) ∧ |ratOf (decodeBase f r.1)| = v ∧
        (v ≠ 0 ∨ fmtNegZero f = true → signOf (decodeBase f r.1) = s) ∧ (v = 0 → fmtNegZero f = false → r.1 = 0)) ∧
      (top < v → r.2 = 20 ∧
        ((sat = true ∨ fmtInf f = none ∨ rm = .rtz ∨ (rm = .rdn ∧ s = false) ∨ (rm = .rup ∧ s = true)) →
          r.1 = signCode f s (fmtMax f)) ∧
        (¬ (sat = true ∨ fmtInf f = none ∨ rm = .rtz ∨ (rm = .rdn ∧ s = false) ∨ (rm = .rup ∧ s = true)) →
          decodeBase f r.1 = .inf s)))) ∧
  (∀ (w : Nat) (signed : Bool) (rm : Rm) (s : Bool) (m : Nat) (e : Int), 1 < w → rm ≠ .dyn →
    ∃ n, RoundsTo rm s (m * (2 : ℚ) ^ e) n ∧
      let z : Int := if s then -(n : Int) else n
      let lo : Int := if signed then -(2 ^ (w - 1)) else 0
      let hi : Int := if signed then 2 ^ (w - 1) - 1 else 2 ^ w - 1
      let r := toInt w signed rm (.fin s m e false)
      (lo ≤ z → z ≤ hi → (r.1 : Int) = z % 2 ^ w ∧ r.2 = if (n : ℚ) = m * (2 : ℚ) ^ e then 0 else 16) ∧
      (z < lo ∨ hi < z → (r.1 : Int) = (if s then lo else hi) % 2 ^ w ∧ r.2 = 1))

/-- R203, R205, R285: sums, products, quotients and fused sums of finite numbers are exact, with the sign of a zero sum;
the invalid operations give NaN with NV, a division by zero an infinity with DZ, and a NaN operand gives NaN, with NV when
it is signalling. R284, Table 11.4: the special operands of the functions; and where a function's result is a binary
fraction it is that number exactly: integral powers of two, their logarithms, and whole and half turns of sine and cosine. -/
def Obligations.ExactFloatResults : Prop :=
  (∀ (rm : Rm) (x y z : Val) (a b : Bool), exactFin x → exactFin y → exactFin z →
    let sxy := signOf x != signOf y
    (exactFin (addF rm x y).1 ∧ (addF rm x y).2 = 0 ∧ ratOf (addF rm x y).1 = ratOf x + ratOf y ∧
      (ratOf x + ratOf y = 0 → signOf (addF rm x y).1 = if signOf x = signOf y then signOf x else rm == .rdn)) ∧
    (exactFin (subF rm x y).1 ∧ (subF rm x y).2 = 0 ∧ ratOf (subF rm x y).1 = ratOf x - ratOf y) ∧
    (exactFin (mulF rm x y).1 ∧ (mulF rm x y).2 = 0 ∧ ratOf (mulF rm x y).1 = ratOf x * ratOf y ∧
      signOf (mulF rm x y).1 = sxy) ∧
    (exactFin (fusedVals rm [(x, y)] z).1 ∧ (fusedVals rm [(x, y)] z).2 = 0 ∧
      ratOf (fusedVals rm [(x, y)] z).1 = ratOf x * ratOf y + ratOf z) ∧
    (ratOf y ≠ 0 → ∃ s m e st, divF rm x y = (.fin s m e st, 0) ∧ s = sxy ∧
      (st = false → ratOf (.fin s m e st) = ratOf x / ratOf y) ∧
      (st = true → 2 ^ 100 ≤ m ∧ m * (2 : ℚ) ^ e < |ratOf x / ratOf y| ∧ |ratOf x / ratOf y| < (m + 1) * (2 : ℚ) ^ e)) ∧
    (ratOf y = 0 → ratOf x ≠ 0 → divF rm x y = (.inf sxy, 2)) ∧
    (ratOf y = 0 → ratOf x = 0 → divF rm x y = (.nan false, 1)) ∧
    (ratOf y = 0 → mulF rm (.inf a) y = (.nan false, 1) ∧ mulF rm y (.inf a) = (.nan false, 1) ∧
      ∀ w, (fusedVals rm [(.inf a, y)] w) = (.nan false, 1)) ∧
    (ratOf y ≠ 0 → mulF rm (.inf a) y = (.inf (a != signOf y), 0)) ∧
    divF rm (.inf a) (.inf b) = (.nan false, 1) ∧ divF rm (.inf a) y = (.inf (a != signOf y), 0) ∧
    addF rm (.inf a) y = (.inf a, 0) ∧ addF rm y (.inf a) = (.inf a, 0) ∧
    addF rm (.inf a) (.inf a) = (.inf a, 0) ∧ addF rm (.inf a) (.inf (!a)) = (.nan false, 1) ∧
    (∀ f ∈ [addF rm, subF rm, mulF rm, divF rm], ∀ w : Val,
      f (.nan a) w = (.nan false, if a = true ∨ isSig w = true then 1 else 0) ∧
      f w (.nan a) = (.nan false, if a = true ∨ isSig w = true then 1 else 0))) ∧
  ∀ (s : Bool) (m : Nat) (e : Int),
    let x : Val := .fin s m e false
    (m = 0 → rcpF x = (.inf s, 2) ∧ rsqrtF x = (.inf s, 2) ∧ sqrtF x = (x, 0) ∧ log2F x = (.inf true, 2) ∧ sinF x = (x, 0) ∧
      tanhF x = (x, 0) ∧ ratOf (exp2F x).1 = 1 ∧ ratOf (cosF x).1 = 1) ∧
    (m ≠ 0 → s = true → rsqrtF x = (.nan false, 1) ∧ sqrtF x = (.nan false, 1) ∧ log2F x = (.nan false, 1)) ∧
    rcpF (.inf s) = (zeroVal s, 0) ∧ rsqrtF (.inf false) = (zeroVal false, 0) ∧ rsqrtF (.inf true) = (.nan false, 1) ∧
    sqrtF (.inf false) = (.inf false, 0) ∧ sqrtF (.inf true) = (.nan false, 1) ∧ exp2F (.inf false) = (.inf false, 0) ∧
    exp2F (.inf true) = (zeroVal false, 0) ∧ log2F (.inf false) = (.inf false, 0) ∧ log2F (.inf true) = (.nan false, 1) ∧
    sinF (.inf s) = (.nan false, 1) ∧ cosF (.inf s) = (.nan false, 1) ∧ tanhF (.inf s) = (oneVal s, 0) ∧
    (∀ f ∈ [rcpF, rsqrtF, sqrtF, exp2F, log2F, sinF, cosF, tanhF], ∀ sig,
      f (.nan sig) = (.nan false, if sig = true then 1 else 0)) ∧
    (∀ k : Nat, k < 1000 → ratOf (exp2F (.fin s k 0 false)).1 = (2 : ℚ) ^ (if s then -(k : Int) else k) ∧
      exactFin (exp2F (.fin s k 0 false)).1 ∧ sinF (.fin s k 0 false) = (zeroVal s, 0) ∧
      cosF (.fin s (2 * k + 1) (-1) false) = (zeroVal false, 0) ∧
      ratOf (cosF (.fin s k 0 false)).1 = (-1) ^ k) ∧
    (∀ k : Nat, ratOf (log2F (.fin false (2 ^ k) e false)).1 = k + e ∧ exactFin (log2F (.fin false (2 ^ k) e false)).1)

/-- R284, R285, Table 11.3 with R206, R208 and R272: VFADD, VFSUB, VFMUL, VFMA, VFSCALE and VFDOT2 round the exact result
once in each element of each selected lane; flags gather; an enabled one traps at the next instruction. -/
def Obligations.FloatArithmetic : Prop :=
  ∀ s : State, s.issuing → ∀ (p : Pred) (ty : ETy) (r : Rnd) (d a c : VReg) (y : VSrc), floatTy ty →
    let f := fmtOf ty
    let rm := s.g.roundMode r.rm
    let x := fElem s ty a
    let z := fSrc s ty y
    FloatLanes s (.vfadd p ty r d a y) p ty d (fun l i => once s f r (addF rm (x l i) (z l i))) ∧
    FloatLanes s (.vfsub p ty r d a y) p ty d (fun l i => once s f r (subF rm (x l i) (z l i))) ∧
    FloatLanes s (.vfmul p ty r d a y) p ty d (fun l i => once s f r (mulF rm (x l i) (z l i))) ∧
    FloatLanes s (.vfma p ty r d a y c) p ty d
      (fun l i => once s f r (fusedVals rm [(x l i, z l i)] (fElem s ty c l i))) ∧
    (y.noImm = true → ty = .f32 ∨ ty = .f64 → FloatLanes s (.vfscale p ty r d a y) p ty d fun l i =>
      let n := eNum .i32 (srcElem s .i32 y l 0)
      match x l i with
      | .fin t m e _ => if m = 0 then (elemOf s ty a l i, 0) else once s f r (.fin t m (e + n) false, 0)
      | .inf _ => (elemOf s ty a l i, 0)
      | .nan sig => once s f r (.nan sig, 0)) ∧
    (y.noImm = true → ty ≠ .f32 → ty ≠ .f64 → FloatLanes s (.vfscale p ty r d a y) p ty d fun l i =>
      let n := eNum .i16x2 (srcElem s .i16x2 y l i)
      match x l i with
      | .fin t m e _ => if m = 0 then (elemOf s ty a l i, 0) else once s f r (.fin t m (e + n) false, 0)
      | .inf _ => (elemOf s ty a l i, 0)
      | .nan sig => once s f r (.nan sig, 0)) ∧
    (ty = .f16x2 ∨ ty = .bf16x2 → y.noImm = true → FloatLanes s (.vfdot2 p ty r d a y c) p .f32 d fun l _ =>
      once s fp32 r (fusedVals rm [(x l 0, z l 0), (x l 1, z l 1)] (fElem s .f32 c l 0)))

/-- R286, R287, R288: VFMIN and VFMAX, VFCMP and VFCLASS, with the one flag they may set. R292, R294, R295, R296:
VFCVT, VFTOI, VITOF and VFRND. VFCVT reads and writes the bits that its formats and its part name and keeps the
destination's other bits. -/
def Obligations.FloatOrderAndConversions : Prop :=
  (∀ s : State, s.issuing → ∀ (p : Pred) (ty : ETy) (d a : VReg) (y : VSrc) (k : KReg) (cond : FCmp), floatTy ty →
    let x := fElem s ty a
    let z := fSrc s ty y
    let xc := elemOf s ty a
    let zc := srcElem s ty y
    let nv (l i : Nat) : Nat := if isSig (x l i) || isSig (z l i) then 1 else 0
    (∀ pick : Nat → Nat → Nat, (∀ l i,
        (isNan (x l i) = true → isNan (z l i) = true → some (pick l i) = fmtNan (fmtOf ty)) ∧
        (isNan (x l i) = true → isNan (z l i) = false → pick l i = zc l i) ∧
        (isNan (x l i) = false → isNan (z l i) = true → pick l i = xc l i) ∧
        (isNan (x l i) = false → isNan (z l i) = false → fBefore (x l i) (z l i) → pick l i = xc l i) ∧
        (isNan (x l i) = false → isNan (z l i) = false → ¬ fBefore (x l i) (z l i) → pick l i = zc l i)) →
      FloatLanes s (.vfmin p ty d a y) p ty d fun l i => (pick l i, nv l i)) ∧
    (∀ pick : Nat → Nat → Nat, (∀ l i,
        (isNan (x l i) = true → isNan (z l i) = true → some (pick l i) = fmtNan (fmtOf ty)) ∧
        (isNan (x l i) = true → isNan (z l i) = false → pick l i = zc l i) ∧
        (isNan (x l i) = false → isNan (z l i) = true → pick l i = xc l i) ∧
        (isNan (x l i) = false → isNan (z l i) = false → fBefore (x l i) (z l i) → pick l i = zc l i) ∧
        (isNan (x l i) = false → isNan (z l i) = false → ¬ fBefore (x l i) (z l i) → pick l i = xc l i)) →
      FloatLanes s (.vfmax p ty d a y) p ty d fun l i => (pick l i, nv l i)) ∧
    (k ≠ 0 → elemCount ty = 1 →
      Floats s (.vfcmp p cond ty k a y)
        (fun b => b = 0 ∧ ∃ l, l < 32 ∧ (s.sel p).getLsbD l = true ∧
          (nv l 0 = 1 ∨ (ordered cond = true ∧ (isNan (x l 0) = true ∨ isNan (z l 0) = true))))
        { k := [k] } fun t =>
          (s.sel p = 0 → t.g.kreg k = s.g.kreg k) ∧
          (s.sel p ≠ 0 → ∀ l, l < 32 → ((t.g.kreg k).getLsbD l = true ↔
            (s.sel p).getLsbD l = true ∧ fCmpHolds cond (x l 0) (z l 0)))) ∧
    (∀ cls : Nat → Nat → Nat, (∀ l i, cls l i = match x l i with
        | .nan sig => if sig then 0 else 1
        | .inf g => if g then 2 else 9
        | .fin g m e _ =>
          if m = 0 then (if g then 5 else 6)
          else if (m : ℚ) * (2 : ℚ) ^ e < (2 : ℚ) ^ (fmtEmin (fmtOf ty)) then (if g then 4 else 7) else (if g then 3 else 8)) →
      Ends (.vfclass p ty d a) s fun t =>
        (∀ l, l < 32 → (s.sel p).getLsbD l = true → ∀ i, i < elemCount ty →
          elemAt ty (t.g.laneOf false d l) i = 2 ^ cls l i) ∧
        (∀ l, l < 32 → (s.sel p).getLsbD l = false → t.g.laneOf false d l = s.g.laneOf false d l) ∧
        s.Frame t { v := [d] } ∧ t.g.fpcsr = s.g.fpcsr ∧ t.p = s.p.past 8)) ∧
  (∀ s : State, s.issuing → ∀ (p : Pred) (ty : ETy) (r : Rnd) (rm : Rm) (d a : VReg) (u bf : Bool) (dst src : Byte) (part : BitVec 3),
    let ws := cvtBits src
    let wd := cvtBits dst
    let m := if 32 ≤ max ws wd then 1 else 32 / max ws wd
    let nw := min ws wd
    let o := m * nw * part.toNat
    let res (l i : Nat) : Nat × Nat :=
      once s (fmtOfCode dst) r (decodeF (fmtOfCode src) (s.g.f4x.toNat % 2 ^ 16)
        (bitsAt (s.g.laneOf (ws == 64) a l) (if wd ≤ ws then ws * i else o + ws * i) ws), 0)
    (0 < ws → 0 < wd → part.toNat < max 1 (32 / (m * nw)) →
      Floats s (.vfcvt p dst src part r d a)
        (fun b => ∃ l i, l < 32 ∧ i < m ∧ (s.sel p).getLsbD l = true ∧ (res l i).2.testBit b = true)
        { v := vDest (wd == 64) d } fun t => ∀ l, l < 32 →
          ((s.sel p).getLsbD l = false → t.g.laneOf (wd == 64) d l = s.g.laneOf (wd == 64) d l) ∧
          ((s.sel p).getLsbD l = true →
            (∀ i, i < m → bitsAt (t.g.laneOf (wd == 64) d l) (if wd ≤ ws then o + wd * i else wd * i) wd = (res l i).1) ∧
            (wd < 32 → wd < ws → ∀ j, j < 32 → j < o ∨ o + m * wd ≤ j →
              (t.g.laneOf (wd == 64) d l).testBit j = (s.g.laneOf (wd == 64) d l).testBit j))) ∧
    (floatTy ty → FloatLanes s (.vftoi p u ty rm d a) p ty d (fun l i => toInt ty.elemBits (!u) (s.g.roundMode rm) (fElem s ty a l i))) ∧
    (∀ f : ETy, ((ty = .i32 ∨ ty = .n32) ∧ bf = false ∧ f = .f32) ∨ ((ty = .i64 ∨ ty = .n64) ∧ bf = false ∧ f = .f64) ∨
        ((ty = .i16x2 ∨ ty = .n16x2) ∧ bf = false ∧ f = .f16x2) ∨ ((ty = .i16x2 ∨ ty = .n16x2) ∧ bf = true ∧ f = .bf16x2) →
      FloatLanes s (.vitof p bf ty r d a) p f d fun l i =>
        let z := eNum ty (elemOf s ty a l i)
        once s (fmtOf f) r (.fin (decide (z < 0)) z.natAbs 0 false, 0)) ∧
    (floatTy ty → ∀ out : Nat → Nat → Nat, (∀ l i, match fElem s ty a l i with
        | .nan _ => some (out l i) = fmtNan (fmtOf ty)
        | .inf _ => out l i = elemOf s ty a l i
        | .fin g n e _ => out l i < 2 ^ ty.elemBits ∧ ∃ k, RoundsTo (s.g.roundMode rm) g (n * (2 : ℚ) ^ e) k ∧
            exactFin (decodeBase (fmtOf ty) (out l i)) ∧ signOf (decodeBase (fmtOf ty) (out l i)) = g ∧
            |ratOf (decodeBase (fmtOf ty) (out l i))| = k) →
      FloatLanes s (.vfrnd p ty rm d a) p ty d fun l i => (out l i, if isSig (fElem s ty a l i) then 1 else 0)))

/-- R284, R291 with R219, R224 and Table 9.6: the functions and the division are counted operations of class B: they hold
the once-rounded results and the flags until they complete; with no lane selected they complete at issue. -/
def Obligations.FloatFunctions : Prop :=
  ∀ s : State, s.issuing → s.parkedOp s.cur.gid s.cur.b = none → ∀ (p : Pred) (ty : ETy) (r : Rnd) (d a : VReg) (y : VSrc), floatTy ty →
    let f := fmtOf ty
    let x := fElem s ty a
    FloatLater s (.vfrcp p ty r d a) p ty d (fun l i => once s f r (rcpF (x l i))) ∧
    FloatLater s (.vfrsq p ty r d a) p ty d (fun l i => once s f r (rsqrtF (x l i))) ∧
    FloatLater s (.vfsqrt p ty r d a) p ty d (fun l i => once s f r (sqrtF (x l i))) ∧
    FloatLater s (.vfdiv p ty r d a y) p ty d (fun l i => once s f r (divF (s.g.roundMode r.rm) (x l i) (fSrc s ty y l i))) ∧
    FloatLater s (.vfexp2 p ty r d a) p ty d (fun l i => once s f r (exp2F (x l i))) ∧
    FloatLater s (.vflog2 p ty r d a) p ty d (fun l i => once s f r (log2F (x l i))) ∧
    FloatLater s (.vfsin p ty r d a) p ty d (fun l i => once s f r (sinF (x l i))) ∧
    FloatLater s (.vfcos p ty r d a) p ty d (fun l i => once s f r (cosF (x l i))) ∧
    FloatLater s (.vftanh p ty r d a) p ty d (fun l i => once s f r (tanhF (x l i)))

/-! ### Cross-lane instructions (11 R297-R302) -/

namespace Sys2Proof.Claim

/-- The number of lanes of a mask below lane `l`. -/
def rank (m : Mask) (l : Nat) : Nat := ((List.range l).filter fun i => m.getLsbD i).length

/-- The selected lanes take whole values (11 R297). -/
def SetsWhole (s : State) (i : Instr) (p : Pred) (ty : ETy) (d : VReg) (val : Nat → Nat) : Prop :=
  Ends i s fun t =>
    (∀ l, l < 32 → t.g.laneOf ty.pair d l = if (s.sel p).getLsbD l then val l else s.g.laneOf ty.pair d l) ∧
      s.Frame t { v := vDest ty.pair d } ∧ t.p = s.p.past 8

/-- The types of a reduction (11 Table 11.6). -/
def redTypes (op : Red) (ty : ETy) : Prop :=
  let ints := ty = .i32 ∨ ty = .n32 ∨ ty = .i64 ∨ ty = .n64 ∨ ty = .i16x2 ∨ ty = .n16x2 ∨ ty = .i8x4 ∨ ty = .n8x4
  match op with
  | .add => ints
  | .min => ints
  | .max => ints
  | .and => ints ∨ ty = .b32
  | .or => ints ∨ ty = .b32
  | .xor => ints ∨ ty = .b32
  | .fadd => floatTy ty
  | .fmin => floatTy ty
  | .fmax => floatTy ty

/-- The least or greatest float code of some codes: `first x y` says that x is chosen before y. -/
def FloatPick (f : Fmt) (id : Option Nat) (first : Val → Val → Prop) (xs : List Nat) (v : Nat) : Prop :=
  (xs = [] → some v = id) ∧
  (xs ≠ [] → (∀ x ∈ xs, isNan (decodeBase f x) = true) → some v = fmtNan f) ∧
  ((∃ x ∈ xs, isNan (decodeBase f x) = false) → v ∈ xs ∧ isNan (decodeBase f v) = false ∧
    ∀ x ∈ xs, isNan (decodeBase f x) = false → ¬ first (decodeBase f x) (decodeBase f v))

/-- `v` is the reduction of the element codes `xs` (11 R299). -/
def Reduced (op : Red) (ty : ETy) (xs : List Nat) (v : Nat) : Prop :=
  let f := fmtOf ty
  let vs := xs.map (decodeBase f)
  match op with
  | .add => v = eWrap ty (xs.map (eNum ty)).sum
  | .min => (xs = [] → v = if etySigned ty then 2 ^ (ty.elemBits - 1) - 1 else 2 ^ ty.elemBits - 1) ∧
      (xs ≠ [] → v ∈ xs ∧ ∀ x ∈ xs, eNum ty v ≤ eNum ty x)
  | .max => (xs = [] → v = if etySigned ty then 2 ^ (ty.elemBits - 1) else 0) ∧
      (xs ≠ [] → v ∈ xs ∧ ∀ x ∈ xs, eNum ty x ≤ eNum ty v)
  | .and => ∀ j, j < ty.elemBits → (v.testBit j = true ↔ ∀ x ∈ xs, x.testBit j = true)
  | .or => ∀ j, j < ty.elemBits → (v.testBit j = true ↔ ∃ x ∈ xs, x.testBit j = true)
  | .xor => ∀ j, j < ty.elemBits → (v.testBit j = true ↔ (xs.filter fun x => x.testBit j).length % 2 = 1)
  | .fadd => ∃ e : Val, (xs = [] → v = 0) ∧ (xs ≠ [] → v = (cvt f .rne false e).1) ∧
      ((∃ x ∈ vs, isNan x = true) ∨ (Val.inf true ∈ vs ∧ Val.inf false ∈ vs) → e = .nan false) ∧
      ((∀ x ∈ vs, isNan x = false) → ∀ g, Val.inf g ∈ vs → Val.inf (!g) ∉ vs → e = .inf g) ∧
      ((∀ x ∈ vs, exactFin x) → xs ≠ [] → exactFin e ∧ ratOf e = (vs.map ratOf).sum ∧
        ((vs.map ratOf).sum = 0 → (signOf e = true ↔ ∀ x ∈ vs, signOf x = true)))
  | .fmin => FloatPick f (fmtInf f) (fun x y => fBefore x y) xs v
  | .fmax => FloatPick f ((fmtInf f).map (signCode f true)) (fun x y => fBefore y x) xs v

/-- The element codes of the lanes that a test chooses, in order. -/
def codes (s : State) (ty : ETy) (a : VReg) (i : Nat) (g : Nat → Bool) : List Nat :=
  ((List.range 32).filter g).map fun l => elemOf s ty a l i

/-- A lane's value as a scalar result (11 R297). -/
def asScalar (ty : ETy) (v : W64) : Prop :=
  if ty = .i32 then v = (v.truncate 32).signExtend 64 else v.toNat < 2 ^ (ty.elemBits * elemCount ty)

end Sys2Proof.Claim

/-- R298: the permutations read their source in any lane and write the selected lanes; .ts writes a scalar register. -/
def Obligations.Permutations : Prop :=
  ∀ s : State, s.issuing → ∀ (p : Pred) (ty : ETy) (d a b : VReg) (sd : SReg) (n : BitVec 5),
    let x (l : Nat) : Nat := s.g.laneOf ty.pair a l
    SetsWhole s (.vshuf p ty d a b) p ty d (fun l => x (((s.g.vreg b).at l).toNat % 32)) ∧
    SetsWhole s (.vrot p false ty d a n) p ty d (fun l => x ((l + n.toNat) % 32)) ∧
    SetsWhole s (.vrot p true ty d a n) p ty d (fun l => x (8 * (l / 8) + (l + n.toNat) % 8)) ∧
    SetsWhole s (.vbcast (.lane p d n) ty a) p ty d (fun _ => x n.toNat) ∧
    (∀ f, f < 32 → (s.sel p).getLsbD f = true → (∀ l, l < f → (s.sel p).getLsbD l = false) →
      SetsWhole s (.vbcast (.first p d) ty a) p ty d fun _ => x f) ∧
    (s.sel p = 0 → Ends (.vbcast (.first p d) ty a) s fun t => t.p = s.p.past 8 ∧ s.Frame t {}) ∧
    SetsS s (.vbcast (.ts sd n) ty a) 8 sd
      (if ty = .i32 then (BitVec.ofNat 32 (x n.toNat)).signExtend 64 else BitVec.ofNat 64 (x n.toNat))

/-- R299, Table 11.6, R219: VRED over every selected lane, and VSCAN over the selected lanes up to, or under .ex before,
each lane, with the identity where there are none. -/
def Obligations.Reductions : Prop :=
  ∀ s : State, s.issuing → ∀ (p : Pred) (op : Red) (ex : Bool) (ty : ETy) (d a : VReg) (sd : SReg), redTypes op ty →
    let sel (l : Nat) : Bool := (s.sel p).getLsbD l
    (s.sel p = 0 → Passes s (.vred p op ty sd a) 8) ∧
    (s.sel p ≠ 0 → Ends (.vred p op ty sd a) s fun t =>
      asScalar ty (t.g.sreg sd) ∧
      (∀ i, i < elemCount ty → Reduced op ty (codes s ty a i sel) (elemAt ty (t.g.sreg sd).toNat i)) ∧
      s.Frame t { s := [sd] } ∧ t.p = s.p.past 8) ∧
    Ends (.vscan p op ex ty d a) s (fun t =>
      (∀ l, l < 32 → sel l = true → ∀ i, i < elemCount ty →
        Reduced op ty (codes s ty a i fun j => sel j && (if ex then decide (j < l) else decide (j ≤ l))) (elemOf t ty d l i)) ∧
      (∀ l, l < 32 → sel l = false → t.g.laneOf ty.pair d l = s.g.laneOf ty.pair d l) ∧
      s.Frame t { v := vDest ty.pair d } ∧ t.p = s.p.past 8)

/-- R300, R301, R302, R219: VVOTE, VCOMPACT, VMATCH and ELECT; where no lane is selected nothing is written. -/
def Obligations.VotesAndCompaction : Prop :=
  ∀ s : State, s.issuing → ∀ (p : Pred) (ty : ETy) (d a : VReg) (k : KReg) (r : SReg), k ≠ 0 →
    let x (l : Nat) : Nat := s.g.laneOf ty.pair a l
    let sel (l : Nat) : Bool := (s.sel p).getLsbD l
    let hit (l : Nat) : Bool := sel l && x l != 0
    (s.sel p = 0 → Passes s (.vvote p (.mk k) ty a) 8 ∧ Passes s (.vvote p (.cnt r) ty a) 8 ∧
      Passes s (.vvote p (.lo r) ty a) 8 ∧ Passes s (.vvote p (.hi r) ty a) 8 ∧ Passes s (.vvote p (.eq r) ty a) 8 ∧
      Passes s (.elect p (.k k)) 8 ∧ Passes s (.elect p (.s r)) 8) ∧
    (s.sel p ≠ 0 →
      Ends (.vvote p (.mk k) ty a) s (fun t => (∀ l, l < 32 → (t.g.kreg k).getLsbD l = hit l) ∧
        s.Frame t { k := [k] } ∧ t.p = s.p.past 8) ∧
      SetsS s (.vvote p (.cnt r) ty a) 8 r (BitVec.ofNat 64 ((List.range 32).filter hit).length) ∧
      Ends (.vvote p (.lo r) ty a) s (fun t => let v := (t.g.sreg r).toNat
        v ≤ 32 ∧ (v < 32 → hit v = true) ∧ (∀ l, l < v → hit l = false) ∧ s.Frame t { s := [r] } ∧ t.p = s.p.past 8) ∧
      Ends (.vvote p (.hi r) ty a) s (fun t => let v := (t.g.sreg r).toNat
        v ≤ 32 ∧ (v < 32 → hit v = true ∧ ∀ l, v < l → l < 32 → hit l = false) ∧
        (v = 32 → ∀ l, l < 32 → hit l = false) ∧ s.Frame t { s := [r] } ∧ t.p = s.p.past 8) ∧
      ((∀ l j, l < 32 → j < 32 → sel l = true → sel j = true → x l = x j) → SetsS s (.vvote p (.eq r) ty a) 8 r 1) ∧
      (¬ (∀ l j, l < 32 → j < 32 → sel l = true → sel j = true → x l = x j) → SetsS s (.vvote p (.eq r) ty a) 8 r 0) ∧
      (∀ l, l < 32 → sel l = true → (∀ j, j < l → sel j = false) →
        SetsK s (.elect p (.k k)) 8 k (1#32 <<< l) ∧ SetsS s (.elect p (.s r)) 8 r (BitVec.ofNat 64 l))) ∧
    Ends (.vcompact p ty d a) s (fun t =>
      (∀ l j, l < 32 → j < 32 → s.act.getLsbD l = true → sel j = true → rank s.act l = rank (s.sel p) j →
        t.g.laneOf ty.pair d l = x j) ∧
      (∀ l, l < 32 → (s.act.getLsbD l = false ∨ rank (s.sel p) 32 ≤ rank s.act l) →
        t.g.laneOf ty.pair d l = s.g.laneOf ty.pair d l) ∧
      s.Frame t { v := vDest ty.pair d } ∧ t.p = s.p.past 8) ∧
    Ends (.vmatch p ty d a) s (fun t =>
      (∀ l, l < 32 → sel l = true → ∀ j, j < 32 → (((t.g.vreg d).at l).getLsbD j = true ↔ sel j = true ∧ x j = x l)) ∧
      (∀ l, l < 32 → sel l = false → (t.g.vreg d).at l = (s.g.vreg d).at l) ∧
      s.Frame t { v := [d] } ∧ t.p = s.p.past 8)

/-! ### Memory instructions (12 R303-R316, 01 R14-R33, 16 R390) -/

namespace Sys2Proof.Claim

/-- The offset of a memory operand (12 Table 12.1), and the length it gives the instruction. -/
def offInt : Off → Int
  | .short v => v.toInt
  | .long v => v.toInt
def offLen : Off → Nat
  | .short _ => 8
  | .long _ => 16
def optInt : Option W32 → Int
  | some v => v.toInt
  | none => 0
def optLen : Option W32 → Nat
  | some _ => 16
  | none => 8

/-- The address, or scratch offset, of lane `l`: base, index and offset added modulo 2^64 (12 R304, Table 12.2). -/
def addr (s : State) (m : AMode) (off : Int) (l : Nat) : Nat :=
  let base : Int := match m with
    | .c a => (s.g.creg a).cursor
    | .cs a b => (s.g.creg a).cursor + (s.g.sreg b).toNat
    | .cv a b => (s.g.creg a).cursor + ((s.g.vreg b).at l).toInt
    | .cp a b => (s.g.creg a).cursor + s.g.laneOf true b l
    | .scr => 0
    | .scrs b => (s.g.sreg b).toNat
    | .scrv b => ((s.g.vreg b).at l).toNat
  ((base + off) % 2 ^ 64).toNat

/-- Bytes of an access (12 Table 12.3). -/
def accLenS (sz : Size) (ty : STy) : Nat :=
  match sz with
  | .full => sWidth ty / 8
  | .byte => 1
  | .half => 2
  | .word => 4
def accLen (sz : Size) (ty : ETy) : Nat :=
  match sz with
  | .full => if ty.pair then 8 else if ty = .f16 ∨ ty = .bf16 then 2 else 4
  | .byte => 1
  | .half => 2
  | .word => 4

/-- The modes in which a capability register gives the address, and those with one address for all lanes. -/
def viaCap (m : AMode) : Prop := match m with
  | .c _ => True
  | .cs _ _ => True
  | .cv _ _ => True
  | .cp _ _ => True
  | .scr => False
  | .scrs _ => False
  | .scrv _ => False
def uniform (m : AMode) : Prop := match m with
  | .c _ => True
  | .cs _ _ => True
  | .cv _ _ => False
  | .cp _ _ => False
  | .scr => True
  | .scrs _ => True
  | .scrv _ => False

/-- The selected lanes, lowest first. -/
def picked (s : State) (p : Pred) : List Nat := (List.range 32).filter fun l => (s.sel p).getLsbD l

/-- The issue of a memory instruction of `n` bytes, from the state `s0` that its checks start in: when every lane passes its
checks and translates, its release (if it has one) is ready, nothing in program order holds it back, and the leaves it writes
through have DF set, an operation is opened for its requests, each request sets out for its performing point, and the path moves on; with a request to another
package the path waits at the instruction for the operation (16 R390). Until its release is ready the instruction does not
start. -/
def Issues (s s0 : State) (i : Instr) (n : Nat) (m : MemOp) : Prop :=
  ∀ (u v w : State) (passed : List (LaneAcc × List (Nat × Nat × Trans))) (ready same : Bool),
    m.lanes ≠ [] → m.check s0 = ⟨u, passed, []⟩ →
    (if ordRel m.ord then u.releaseAt s.cur.gid s.cur.b m.sc false = (v, ready) else v = u ∧ ready = true) →
    m.setDirty v passed = (w, same) →
    let rs := m.reqs u.c u.g.asid u.p.wrote [] passed
    (ready = false → exec i s = .next v) ∧
    (ready = true → v.orderStall rs = true → exec i s = .next v) ∧
    (ready = true → v.orderStall rs = false → same = false → exec i s = .next w) ∧
    (ready = true → v.orderStall rs = false → same = true → rs ≠ [] → w.parkedOp w.cur.gid w.cur.b = none →
      ∃ o : OpRec, o.gid = w.cur.gid ∧ o.b = w.cur.b ∧ o.chA = !w.cur.b ∧ o.chB = w.cur.b ∧ o.flag = w.p.flagOf false ∧
        o.fin = m.fin ∧ o.out = rs.length ∧ o.lanes = m.mask ∧ o.writes = [] ∧ o.bad = none ∧
        let z := (rs.map fun r => { r with op := w.fresh }).foldl State.route
          { w with ops := Store.put w.ops w.fresh o, fresh := w.fresh + 1 }
        ((∀ r ∈ rs, r.page.mt ≠ 3) →
            exec i s = .next (if m.waits then (z.retire n).park (.op w.fresh) else z.retire n)) ∧
        ((∃ r ∈ rs, r.page.mt = 3) → exec i s = .next (z.park (.op w.fresh))))

/-- A load or store through capability `c`. -/
def plainOp (c : Cap) (acc : Acc) (q : MemQ) (lanes : List LaneAcc) (mask : Mask) (once : Bool) (fin : Fin) : MemOp :=
  { cap := c, acc := acc, align := false, extra := none, target := .any, lanes := lanes, mask := mask, once := once
    cp := q.cp, ord := q.ord, sc := q.sc, fin := fin }

/-- An atomic or bank operation: naturally aligned, with LD, ST and AT. -/
def atomicOp (c : Cap) (q : MemQ) (target : Target) (lanes : List LaneAcc) (mask : Mask) (once : Bool) (fin : Fin) : MemOp :=
  { cap := c, acc := .atomic, align := true, extra := none, target := target, lanes := lanes, mask := mask, once := once
    cp := q.cp, ord := q.ord, sc := q.sc, fin := fin }

/-- A store ends the restartability of its task at issue (16 R401). -/
def spent (s : State) : State := s.modG fun g => { g with restart := false }

end Sys2Proof.Claim

/-- R304 to R309, R32, R390: a load or store of one access per path or per selected lane, through a capability: its
addresses, widths, lanes and data; CLD and CST move 16 aligned bytes with their tag. -/
def Obligations.LoadsAndStores : Prop :=
  ∀ s : State, s.issuing → ∀ (p : Pred) (sz : Size) (st : STy) (ty : ETy) (q : MemQ) (d : SReg) (v : VReg) (cr : CReg)
      (m : AMode) (off : Off), viaCap m →
    let c := s.g.capOf m
    let a := addr s m (offInt off)
    let n := accLenS sz st
    let k := accLen sz ty
    let one : Bool := sameAddr m
    let low := (picked s p).head?.toList
    let top := (picked s p).getLast?.toList
    let data (l : Nat) : Act := .store (bytesOf k (s.g.laneOf ty.pair v l))
    (one = true ↔ uniform m) ∧
    Issues s s (.ld sz st q d m off) (offLen off)
      (plainOp c .load q [⟨0, a 0, n, .load⟩] s.act true (.scalar st d)) ∧
    Issues s (spent s) (.st sz st q d m off) (offLen off)
      (plainOp c .store q [⟨0, a 0, n, .store (bytesOf n (s.g.sreg d).toNat)⟩] s.act true .none) ∧
    (one = false → Issues s s (.vld p sz ty q v m off) (offLen off)
      (plainOp c .load q ((picked s p).map fun l => ⟨l, a l, k, .load⟩) (s.sel p) false (.vector ty false v))) ∧
    (one = true → Issues s s (.vld p sz ty q v m off) (offLen off)
      (plainOp c .load q (low.map fun _ => ⟨0, a 0, k, .load⟩) (s.sel p) true (.vector ty true v))) ∧
    (one = false → Issues s (spent s) (.vst p sz ty q v m off) (offLen off)
      (plainOp c .store q ((picked s p).map fun l => ⟨l, a l, k, data l⟩) (s.sel p) false .none)) ∧
    (one = true → Issues s (spent s) (.vst p sz ty q v m off) (offLen off)
      (plainOp c .store q (top.map fun l => ⟨l, a l, k, data l⟩) (s.sel p) true .none)) ∧
    (uniform m → Issues s s (.vldc p sz ty q v m off) (offLen off)
      (plainOp c .load q ((picked s p).map fun l => ⟨l, (a 0 + l * k) % 2 ^ 64, k, .load⟩) (s.sel p) false (.vector ty false v))) ∧
    (uniform m → Issues s (spent s) (.vstc p sz ty q v m off) (offLen off)
      (plainOp c .store q ((picked s p).map fun l => ⟨l, (a 0 + l * k) % 2 ^ 64, k, data l⟩) (s.sel p) false .none)) ∧
    Issues s s (.cld q cr m off) (offLen off)
      { plainOp c .load q [⟨0, a 0, 16, .loadCap c.lc⟩] s.act true (.cap cr) with align := true } ∧
    Issues s (spent s) (.cst q cr m off) (offLen off)
      { plainOp c .cst q [⟨0, a 0, 16, .storeCap (s.g.creg cr).bits (s.g.creg cr).tag⟩] s.act true .none with
        align := true
        extra := if (s.g.creg cr).tag = true ∧ (c.sc = false ∨ (s.g.creg cr).gl = false) then some 0x12 else none
        target := .cst (s.g.creg cr).tag } ∧
    (s.sel p = 0 → Passes s (.vld p sz ty q v m off) (offLen off) ∧ Passes s (.vldc p sz ty q v m off) (offLen off) ∧
      exec (.vst p sz ty q v m off) s = .next ((spent s).retire (offLen off)) ∧
      exec (.vstc p sz ty q v m off) s = .next ((spent s).retire (offLen off)))

/-- R313 to R316: atomics and bank operations: one naturally aligned access per path or selected lane, that reads, combines
and writes; the old value is the result; bank operations reach common memory only. -/
def Obligations.AtomicsAndBankOperations : Prop :=
  ∀ s : State, s.issuing → ∀ (p : Pred) (op : Rmw) (ty : ETy) (q : MemQ) (d c : SReg) (v w : VReg) (m : AMode)
      (off : Option W32), viaCap m → ty = .i32 ∨ ty = .n32 ∨ ty = .i64 ∨ ty = .n64 ∨ ty = .f32 →
    let b := if ty.pair then 64 else 32
    let a := addr s m (optInt off)
    let cap := s.g.capOf m
    let st : STy := match ty with | .i32 => .i32 | .i64 => .i64 | .n64 => .n64 | _ => .n32
    let x (r : VReg) (l : Nat) : W64 := BitVec.ofNat 64 (s.g.laneOf ty.pair r l)
    let one (act : Act) : List LaneAcc := [⟨0, a 0, b / 8, act⟩]
    let all (act : Nat → Act) : List LaneAcc := (picked s p).map fun l => ⟨l, a l, b / 8, act l⟩
    Issues s (spent s) (.amo op ty q d m off c) (optLen off)
      (atomicOp cap q .amo (one (.rmw op b (s.g.sreg c))) s.act true (.scalar st d)) ∧
    Issues s (spent s) (.acas ty q d m off c) (optLen off)
      (atomicOp cap q .amo (one (.cas b (s.g.sreg d) (s.g.sreg c))) s.act true (.scalar st d)) ∧
    Issues s (spent s) (.vamo p op ty q v m off w) (optLen off)
      (atomicOp cap q .amo (all fun l => .rmw op b (x w l)) (s.sel p) false (.vector ty false v)) ∧
    Issues s (spent s) (.vacas p ty q v m off w) (optLen off)
      (atomicOp cap q .amo (all fun l => .cas b (x v l) (x w l)) (s.sel p) false (.vector ty false v)) ∧
    Issues s (spent s) (.bop op ty q d m off c) (optLen off)
      (atomicOp cap q (.bank (op == .pmaxs)) (one (.rmw op b (s.g.sreg c))) s.act true (.scalar st d)) ∧
    Issues s (spent s) (.bcas ty q d m off c) (optLen off)
      (atomicOp cap q (.bank false) (one (.cas b (s.g.sreg d) (s.g.sreg c))) s.act true (.scalar st d)) ∧
    Issues s (spent s) (.vbop p op ty q v m off w) (optLen off)
      (atomicOp cap q (.bank (op == .pmaxs)) (all fun l => .rmw op b (x w l)) (s.sel p) false (.vector ty false v)) ∧
    (s.sel p = 0 → exec (.vamo p op ty q v m off w) s = .next ((spent s).retire (optLen off)) ∧
      exec (.vacas p ty q v m off w) s = .next ((spent s).retire (optLen off)) ∧
      exec (.vbop p op ty q v m off w) s = .next ((spent s).retire (optLen off)))

namespace Sys2Proof.Claim

/-- The cause of 01 R14 for an access of `n` bytes at `a`, the lowest where several checks fail. -/
def CapCause (c : Cap) (perms : List Nat) (a n : Nat) (code : Nat) : Prop :=
  let inside := c.bounds.base ≤ a ∧ ((a + n : Nat) : Int) ≤ c.bounds.top ∧ a + n ≤ 2 ^ 57
  (code = 0x10 ∧ c.tag = false) ∨ (code = 0x11 ∧ c.tag = true ∧ ¬ inside) ∨
    (code = 0x12 ∧ c.tag = true ∧ inside ∧ ∃ b ∈ perms, c.bits.getLsbD (57 + b) = false)

/-- The access passes R14. -/
def CapPasses (c : Cap) (perms : List Nat) (a n : Nat) : Prop :=
  c.tag = true ∧ c.bounds.base ≤ a ∧ ((a + n : Nat) : Int) ≤ c.bounds.top ∧ a + n ≤ 2 ^ 57 ∧
    ∀ b ∈ perms, c.bits.getLsbD (57 + b) = true

/-- Bytes of one die's common memory. -/
def inCmem (pa n : Nat) : Prop := ∀ k, k < n → mtOf (localOf (pa + k)) = some 1 ∧ homeDie (pa + k) = homeDie pa

/-- A die has the leaf of an address in its translation cache, with DF set for a write, and it maps the address, for this access, to
common memory at `t`: an access there needs no walk and changes no entry (01 R27, R28, R36). -/
def Mapped (s : State) (die asid va : Nat) (acc : Acc) (t : Trans) : Prop :=
  ∃ e, (s.die die).cached asid va = some e ∧
    let p := Pte.ofNat e.pte.toNat
    p.checkLeaf s.pkg (s.partOf asid) e.lvl acc = none ∧ (accWrites acc = true → p.df = true) ∧ t = p.trans e.lvl va ∧
      mtOf (localOf t.pa) = some 1 ∧ t.page.mt = 1

/-- The issuing group's access to the `n` aligned bytes at `va` through a capability passes its checks and reaches common memory at
`pa`, where no granule is in error and no allowance counter has holders. -/
def Reaches (s : State) (c : Cap) (perms : List Nat) (acc : Acc) (va n pa : Nat) : Prop :=
  CapPasses c perms va n ∧ va % n = 0 ∧ (∃ t, Mapped s (dieOf s.c) s.g.asid va acc t ∧ t.pa = pa) ∧ inCmem pa n ∧
    s.poisoned pa n = false ∧ s.recordsMet pa n = []

/-- The issuing path does not wait, no operation of its group is open, its group has seen no store of another core, and no access to
another package is on its way. -/
def Calm (s : State) : Prop :=
  s.p.wait = .none ∧ (∀ o ∈ s.ops, o.2.gid ≠ s.cur.gid) ∧ s.g.seen = [] ∧ ∀ i ∈ s.agenda, ∀ r, i ≠ .remoteAccess r

/-- No release of the issuing core has to wait: it holds no lease, returns none, and no guest line of its die is dirty. -/
def Settled (s : State) : Prop :=
  (∀ l ∈ (s.core s.c).lines, l.lease = false) ∧ s.lretInFlight s.c = false ∧ ∀ g ∈ (s.die (dieOf s.c)).guests, g.dirty = 0

/-- Loaded bytes as a scalar register (12 R306). -/
def loaded (ty : STy) (bs : List Byte) : W64 :=
  match ty with
  | .i32 => (BitVec.ofNat (8 * bs.length) (natOf bs)).signExtend 64
  | .i64 => (BitVec.ofNat (8 * bs.length) (natOf bs)).signExtend 64
  | .n32 => BitVec.ofNat 64 (natOf bs)
  | .n64 => BitVec.ofNat 64 (natOf bs)

/-- Loaded bytes as a lane of a vector register (12 R306). -/
def loadedLane (ty : ETy) (bs : List Byte) : Nat :=
  if ty = .i32 then ((BitVec.ofNat (8 * bs.length) (natOf bs)).signExtend 32).toNat
  else if ty = .i64 then ((BitVec.ofNat (8 * bs.length) (natOf bs)).signExtend 64).toNat
  else natOf bs

/-- The operation of a scratch access: performed at issue, with what its completion writes. -/
def ScrOpened (s t : State) (n : Nat) (ws : List RegWrite) : Prop :=
  Opened s t n false (fun o => o.out = 0 ∧ o.fin = .none ∧ o.writes = ws ∧ o.flags = 0) ∧
    t.agenda = s.agenda ++ [.countedComplete s.fresh]

/-- The window of the issuing group lies within its core's SCR capacity (07 R174). -/
def windowFits (s : State) : Prop := s.g.scrBase + s.g.scrSize ≤ roleCap (s.core s.c).brr 1

/-- A scratch store of `bs` at offset `a`: those bytes, the other bytes of the window kept, and nothing changed in memory
or in any other core. -/
def ScrStored (s t : State) (a : Nat) (bs : List Byte) : Prop :=
  t.scrRead t.cur.gid a bs.length = bs ∧
  (∀ o, o < s.g.scrSize → (o < a ∨ a + bs.length ≤ o) → t.scrRead t.cur.gid o 1 = s.scrRead s.cur.gid o 1) ∧
  (∀ x, x ≠ s.c → t.core x = s.core x) ∧ (t.core s.c).brr = (s.core s.c).brr ∧ t.mem = s.mem ∧ t.tags = s.tags

end Sys2Proof.Claim

/-- R14, R309, R390, R391: an access that acts once and fails a check traps with the lowest cause, at its address, with
nothing performed; a CLD or CST that passes R14 at a misaligned address raises ALIGN. A store has already ended its
task's restartability (R401). -/
def Obligations.AccessChecks : Prop :=
  ∀ s : State, s.issuing → s.parkedOp s.cur.gid s.cur.b = none → ∀ (sz : Size) (st : STy) (ty : ETy) (op : Rmw) (q : MemQ)
      (d e : SReg) (cr : CReg) (m : AMode) (off : Off) (oo : Option W32) (code : Nat), viaCap m → q.ord = .plain ∨ q.ord = .acq →
    let c := s.g.capOf m
    let a := addr s m (offInt off) 0
    let b := addr s m (optInt oo) 0
    let n := accLenS sz st
    let w := if ty.pair then 8 else 4
    let at_ (x : Nat) : W64 := BitVec.ofNat 64 x
    (CapCause c [0] a n code → Traps s (.ld sz st q d m off) code (at_ a)) ∧
    (CapCause c [1] a n code → exec (.st sz st q d m off) s = .next ((spent s).trapAll code (at_ a))) ∧
    (CapCause c [0] a 16 code → Traps s (.cld q cr m off) code (at_ a)) ∧
    (CapPasses c [0] a 16 → a % 16 ≠ 0 → Traps s (.cld q cr m off) 0x18 (at_ a)) ∧
    (CapCause c [1] a 16 code → (s.g.creg cr).tag = false →
      exec (.cst q cr m off) s = .next ((spent s).trapAll code (at_ a))) ∧
    (CapPasses c [1] a 16 → (s.g.creg cr).tag = true → (c.bits.getLsbD 62 = false ∨ (s.g.creg cr).bits.getLsbD 63 = false) →
      exec (.cst q cr m off) s = .next ((spent s).trapAll 0x12 (at_ a))) ∧
    (CapPasses c [1] a 16 → ((s.g.creg cr).tag = true → c.bits.getLsbD 62 = true ∧ (s.g.creg cr).bits.getLsbD 63 = true) →
      a % 16 ≠ 0 → exec (.cst q cr m off) s = .next ((spent s).trapAll 0x18 (at_ a))) ∧
    (CapCause c [0, 1, 2] b w code → exec (.amo op ty q d m oo e) s = .next ((spent s).trapAll code (at_ b)) ∧
      exec (.bop op ty q d m oo e) s = .next ((spent s).trapAll code (at_ b))) ∧
    (CapPasses c [0, 1, 2] b w → b % w ≠ 0 → exec (.amo op ty q d m oo e) s = .next ((spent s).trapAll 0x18 (at_ b)) ∧
      exec (.acas ty q d m oo e) s = .next ((spent s).trapAll 0x18 (at_ b)))

/-- R305, R308, R309, R51: loads and stores of the task's scratch window: performed at issue within the window; outside it
they raise SCR_BOUNDS at the offset; a load of a granule in error raises ECC_UNCORRECTED (R20); vector accesses in each selected lane, a higher lane's store last. -/
def Obligations.ScratchAccesses : Prop :=
  ∀ s : State, s.issuing → s.parkedOp s.cur.gid s.cur.b = none → windowFits s → ∀ (p : Pred) (sz : Size) (st : STy) (ty : ETy) (q : MemQ)
      (d : SReg) (v : VReg) (cr : CReg) (m : AMode) (off : Off), ¬ viaCap m →
    let n := accLenS sz st
    let k := accLen sz ty
    let a := addr s m (offInt off) 0
    let la (l : Nat) : Nat := if sameAddr m then (a + l * k) % 2 ^ 64 else addr s m (offInt off) l
    let size := s.g.scrSize
    let sel (l : Nat) : Bool := (s.sel p).getLsbD l
    let sound (x y : Nat) : Prop := s.scrPoisoned s.cur.gid x y = false
    (a + n ≤ size → sound a n → Ends (.ld sz st q d m off) s fun t =>
      ScrOpened s t (offLen off) [.s d (loaded st (s.scrRead s.cur.gid a n))] ∧ s.sameButOps t) ∧
    (a + n ≤ size → ¬ sound a n → Traps s (.ld sz st q d m off) 0x28 (BitVec.ofNat 64 a)) ∧
    (size < a + n → Traps s (.ld sz st q d m off) 0x14 (BitVec.ofNat 64 a) ∧
      Traps s (.st sz st q d m off) 0x14 (BitVec.ofNat 64 a)) ∧
    (a + n ≤ size → Ends (.st sz st q d m off) s fun t =>
      ScrOpened s t (offLen off) [] ∧ ScrStored s t a (bytesOf n (s.g.sreg d).toNat)) ∧
    (a + 16 ≤ size → a % 16 = 0 → sound a 16 → Ends (.cld q cr m off) s fun t =>
      ScrOpened s t (offLen off) [.c cr ⟨BitVec.ofNat 128 (natOf (s.scrRead s.cur.gid a 16)), s.scrTag s.cur.gid a⟩] ∧
        s.sameButOps t) ∧
    (a + 16 ≤ size → a % 16 = 0 → s.g.scrBase % 16 = 0 → Ends (.cst q cr m off) s fun t =>
      ScrOpened s t (offLen off) [] ∧ ScrStored s t a (bytesOf 16 (s.g.creg cr).bits.toNat) ∧
        t.scrTag t.cur.gid a = (s.g.creg cr).tag) ∧
    (size < a + 16 → Traps s (.cld q cr m off) 0x14 (BitVec.ofNat 64 a) ∧ Traps s (.cst q cr m off) 0x14 (BitVec.ofNat 64 a)) ∧
    (a + 16 ≤ size → a % 16 ≠ 0 → Traps s (.cld q cr m off) 0x18 (BitVec.ofNat 64 a) ∧
      Traps s (.cst q cr m off) 0x18 (BitVec.ofNat 64 a)) ∧
    (s.sel p = 0 → Passes s (.vlds p sz ty v m off) (offLen off) ∧ Passes s (.vsts p sz ty v m off) (offLen off)) ∧
    (s.sel p ≠ 0 → (∀ l, l < 32 → sel l = true → la l + k ≤ size ∧ sound (la l) k) → Ends (.vlds p sz ty v m off) s fun t =>
      s.sameButOps t ∧ ∃ x y : Lanes,
        ScrOpened s t (offLen off) (.v v (s.sel p) x :: if ty.pair then [.v (v + 1) (s.sel p) y] else []) ∧
        ∀ l, l < 32 → sel l = true → (x.at l).toNat + (if ty.pair then (y.at l).toNat * 2 ^ 32 else 0) =
          loadedLane ty (s.scrRead s.cur.gid (la l) k)) ∧
    (s.sel p ≠ 0 → (∀ l, l < 32 → sel l = true → la l + k ≤ size) → Ends (.vsts p sz ty v m off) s fun t =>
      ScrOpened s t (offLen off) [] ∧
      (∀ l i, l < 32 → sel l = true → i < k →
        (∀ j, l < j → j < 32 → sel j = true → ¬ (la j ≤ la l + i ∧ la l + i < la j + k)) →
        t.scrRead t.cur.gid (la l + i) 1 = [BitVec.ofNat 8 (s.g.laneOf ty.pair v l / 2 ^ (8 * i))]) ∧
      (∀ o, o < size → (∀ l, l < 32 → sel l = true → ¬ (la l ≤ o ∧ o < la l + k)) →
        t.scrRead t.cur.gid o 1 = s.scrRead s.cur.gid o 1)) ∧
    (∀ low, low < 32 → sel low = true → size < la low + k →
      (∀ l, l < 32 → sel l = true → size < la l + k → la low ≤ la l) → ∀ bad : Mask,
      (∀ l, l < 32 → (bad.getLsbD l = true ↔ sel l = true ∧ size < la l + k)) →
      ((∀ l, l < 32 → sel l = true → la l + k ≤ size → sound (la l) k) →
        ∃ u : State, exec (.vlds p sz ty v m off) s = .next (u.trap 0x14 (BitVec.ofNat 64 (la low)) bad) ∧ u.g = s.g) ∧
      ∃ u : State, exec (.vsts p sz ty v m off) s = .next (u.trap 0x14 (BitVec.ofNat 64 (la low)) bad) ∧ (s.g.debug = false → u.g = s.g))

/-! ### Synchronisation (12 R311, R320-R325) -/

namespace Sys2Proof.Claim

/-- An instruction on one object is about to be performed, as one step, at physical address `pa` of a page, in state `w`: its
checks pass from `s0` on, its release (if it has one) is ready, nothing in program order holds it back, and the leaves that it
writes through have DF set. -/
def ReadyAt (s s0 : State) (m : MemOp) (w : State) (pa : Nat) (page : PageInfo) : Prop :=
  ∃ (u v : State) (passed : List (LaneAcc × List (Nat × Nat × Trans))) (r : Req) (rs : List Req), m.check s0 = ⟨u, passed, []⟩ ∧
    (if ordRel m.ord then u.releaseAt s.cur.gid s.cur.b m.sc false = (v, true) else v = u) ∧
    m.reqs u.c u.g.asid [] [] passed = r :: rs ∧ v.orderStall (r :: rs) = false ∧ (∀ x ∈ r :: rs, v.remoteQueued x = false) ∧
    m.setDirty v passed = (w, true) ∧ w.issuing ∧ w.p.wait = .none ∧ pa = r.pa ∧ page = r.page

/-- An instruction on one object, performed as one step. Where it is ready to act, `P` holds of the state that it acts in, the
object's physical address and its page. Until then it stays at its address. -/
def ActsAt (s s0 : State) (i : Instr) (m : MemOp) (P : State → Nat → PageInfo → Prop) : Prop :=
  (∀ (u v w : State) (passed : List (LaneAcc × List (Nat × Nat × Trans))) (ready same : Bool), m.check s0 = ⟨u, passed, []⟩ →
    (if ordRel m.ord then u.releaseAt s.cur.gid s.cur.b m.sc false = (v, ready) else v = u ∧ ready = true) →
    m.setDirty v passed = (w, same) →
    let rs := m.reqs u.c u.g.asid [] [] passed
    let stalls := ready = false ∨ v.orderStall rs = true ∨ ∃ x ∈ rs, v.remoteQueued x = true
    (stalls → exec i s = .next v) ∧ (¬ stalls → same = false → exec i s = .next w)) ∧
  ∀ w pa page, ReadyAt s s0 m w pa page → P w pa page

/-- The group keeps what `w` does not name; its other path may have been readied, and it may have taken over stores that its next
release carries (03 R89). -/
def KeptBut (v t : State) (w : Writes) : Prop :=
  v.g.Kept ({ t.g with seen := v.g.seen }.setPath (!v.cur.b) (v.g.path (!v.cur.b))) v.cur.b w

/-- The frame of an instruction that writes registers and nothing else, but for the stores that its group has taken over. -/
def FrameBut (s t : State) (w : Writes) : Prop :=
  s.g.Kept { t.g with seen := s.g.seen } s.cur.b w ∧ s.sameOutside t ∧ s.sameOthers t ∧ s.sameBytes t

/-- The instruction's end: a scalar result, and the path past it. -/
def Answers (v t : State) (d : SReg) (x : W64) : Prop := t.g.sreg d = x ∧ t.p = v.p.past 8 ∧ KeptBut v t { s := [d] }

/-- Every byte of memory but those of a set reads as before. -/
def KeepsBytes (v t : State) (changed : Nat → Prop) : Prop := ∀ x, ¬ changed x → t.readByte x = v.readByte x

end Sys2Proof.Claim

/-- R320, R89: a FENCE without acquire waits for the covered operations of its path and then moves on; one with acquire waits
for the covered reads; with none in flight and a scope within the core it moves on at once. R311: PREF never faults; where the
check or the translation would stop a load it does nothing but be counted; with .ca it asks for a fill of the line into the L1,
and its count stands until the serving slice accepts that. -/
def Obligations.FencesAndPrefetch : Prop :=
  ∀ s : State, s.issuing → s.parkedOp s.cur.gid s.cur.b = none → ∀ (u : Bool) (ord : Ord) (sc : Scope) (cp : Policy) (m : AMode) (off : Off),
    let mine (o : OpRec) : Prop := o.gid = s.cur.gid ∧ (if s.cur.b then o.chB else o.chA) = true ∧ o.parked = false ∧
      (u = true ∨ o.uo = false)
    let c := s.g.capOf m
    let a := addr s m (offInt off) 0
    let die := dieOf s.c
    ((∀ o ∈ s.ops, ¬ mine o.2) → sc = .grp → Passes s (.fence u ord sc) 8) ∧
    ((∀ o ∈ s.ops, ¬ mine o.2) → sc = .core → (∀ e ∈ s.g.seen, e.l1 = true ∨ s.outstanding e.sid = false) →
      Ends (.fence u ord sc) s fun t => t.p = s.p.past 8 ∧ FrameBut s t {}) ∧
    ((∃ o ∈ s.ops, mine o.2 ∧ o.2.stores = true) → ord ≠ .acq → Ends (.fence u ord sc) s fun t => t.g = s.g ∧ s.sameBytes t) ∧
    ((∃ o ∈ s.ops, mine o.2 ∧ o.2.reads = true ∧ o.2.out ≠ 0 ∧ o.2.got.length < o.2.spans.length) →
      Ends (.fence u ord sc) s fun t => t.g = s.g ∧ s.sameBytes t) ∧
    ((¬ CapPasses c [0] a 1) ∨ (∃ (x : State) (f : TFault), s.look die s.g.asid a .load = (x, .error f)) →
      Ends (.pref cp m off) s fun t => ScrOpened s t (offLen off) [] ∧ s.sameButOps t) ∧
    (∀ (x : State) (t : Trans), CapPasses c [0] a 1 → s.look die s.g.asid a .load = (x, .ok t) → x.issuing →
      x.parkedOp x.cur.gid x.cur.b = none → t.page.mt = 0 → t.page.ord ≠ 1 → t.page.pol = .ca → cp = .ca →
      0 < (x.core x.c).cacheBanks → (x.core x.c).framesUsed a < 8 → (x.core x.c).line x.g.asid a = none →
      Ends (.pref cp m off) s fun y =>
        Opened x y (offLen off) false (fun o => o.out = 1 ∧ o.writes = [] ∧ o.fin = .none) ∧
        y.agenda = x.agenda ++ [.fillreq x.c x.g.asid (a / 128 * 128) (t.pa / 128 * 128)] ∧
        ∃ l ∈ (y.core x.c).lines, l.asid = x.g.asid ∧ l.va = a / 128 * 128 ∧ l.pa = t.pa / 128 * 128 ∧ l.pending = true)

/-- R321 to R323: WAITC tests its word at the word's home: when the condition holds it writes the value and moves on;
when it does not, the path parks on a monitor entry while one is free; in common memory, with nothing in the way, at once. POLL is a counted load of the word, for which its
path waits past the instruction. -/
def Obligations.WaitingOnWords : Prop :=
  ∀ s : State, s.issuing → ∀ (c : Cmp) (ty : STy) (ord : Ord) (sc : Scope) (d x : SReg) (m : AMode) (off : Option W32) (po : Off),
    viaCap m →
    let n := sWidth ty / 8
    let word (va : Nat) (fin : Fin) (waits : Bool) : MemOp :=
      { cap := s.g.capOf m, acc := .load, align := true, extra := none, target := .word, lanes := [⟨0, va, n, .poll⟩]
        mask := s.act, once := true, cp := .sl, ord := ord, sc := sc, fin := fin, waits := waits }
    let va := addr s m (optInt off) 0
    let pa' := addr s m (offInt po) 0
    let i : Instr := .waitc c ty ord sc d m off x
    ActsAt s s i (word va .none false) (fun v pa page =>
      ∀ (h : State) (free : Bool), (if page.mt = 0 then v.homeReady (dieOf v.c) pa n = (h, free) else h = v ∧ free = true) →
        let val := h.readNat pa n
        let holds := cmpInt c (sNum ty (BitVec.ofNat 64 val)) (sNum ty (h.g.sreg x))
        let kept (t : State) (w : Writes) : Prop := h.g.Kept { t.g with seen := h.g.seen } h.cur.b w
        (free = false → exec i s = .next h) ∧
        (free = true → holds → Ends i s fun t =>
          t.g.sreg d = sRes ty val ∧ t.p = h.p.past (optLen off) ∧ kept t { s := [d] } ∧ h.sameOthers t ∧ h.sameBytes t) ∧
        (free = true → ¬ holds → page.mt ≤ 1 →
          ((h.die (homeDie pa)).monitors.filter fun e => e.slice == monSlice pa).length < 1024 → Ends i s fun t =>
          t.p = { h.p with wait := .monitor, parkedAt := h.time } ∧
          (∃ e, (t.die (homeDie pa)).monitors = (h.die (homeDie pa)).monitors ++ [e] ∧ e.pa = pa ∧ e.cond = c ∧ e.ty = ty ∧
            e.cmp = h.g.sreg x ∧ e.gid = h.cur.gid ∧ e.b = h.cur.b) ∧
          kept t {} ∧ h.sameBytes t)) ∧
    (∀ pa, Calm s → Settled s → Reaches s (s.g.capOf m) [0] .load va n pa →
      let val := s.readNat pa n
      let holds := cmpInt c (sNum ty (BitVec.ofNat 64 val)) (sNum ty (s.g.sreg x))
      let mons (y : State) := (y.die (homeDie pa)).monitors
      (holds → Ends i s fun t => t.g.sreg d = sRes ty val ∧ t.p = s.p.past (optLen off) ∧ s.sameBytes t ∧
        s.g.Kept { t.g with seen := s.g.seen } s.cur.b { s := [d] }) ∧
      (¬ holds → ((mons s).filter fun e => e.slice == monSlice pa).length < 1024 → Ends i s fun t =>
        t.p = { s.p with wait := .monitor, parkedAt := s.time } ∧ s.sameBytes t ∧
        ∃ e, mons t = mons s ++ [e] ∧ e.pa = pa ∧ e.cond = c ∧ e.ty = ty ∧ e.cmp = s.g.sreg x ∧ e.gid = s.cur.gid ∧ e.b = s.cur.b)) ∧
    Issues s s (.poll ty ord sc d m po) (offLen po) (word pa' (.poll ty d (BitVec.ofNat 64 pa')) true)

/-- R324, R325, Table 12.8, on an object in whose line no allowance counter has holders (04 R113): BARI sets a barrier up; an
arrival (BARA, BARAW) adds one to COUNT or, when it completes the phase, clears COUNT, adds one to PHASE and releases the
waiters; BARW goes on when the phase has passed and is chained on the object when it has not: its link takes the old head of the
chain, and the head names it (07 R185). On an object in common memory, with nothing in the way, each does so at once. -/
def Obligations.Barriers : Prop :=
  ∀ s : State, s.issuing → ∀ (sc : Scope) (d b : SReg) (a : CReg),
    let obj (remote : Bool) (ord : Ord) (sc : Scope) : MemOp := objectOp (s.g.creg a) 16 s.act (.barrier remote) ord sc
    let cnt (v : State) (pa : Nat) := v.readNat pa 4
    let phase (v : State) (pa : Nat) := v.readNat (pa + 4) 4
    let exp (v : State) (pa : Nat) := v.readNat (pa + 8) 4
    let waits (v : State) (pa : Nat) := v.readNat (pa + 12) 2
    let head (v : State) (pa : Nat) := v.readNat (pa + 14) 2
    let within (pa n : Nat) (x : Nat) : Prop := pa ≤ x ∧ x < pa + n
    let last (v : State) (pa : Nat) : Prop := exp v pa ≤ (cnt v pa + 1) % 2 ^ 32
    let arrived (v t : State) (pa : Nat) : Prop :=
      (last v pa → cnt t pa = 0 ∧ phase t pa = (phase v pa + 1) % 2 ^ 32) ∧
      (¬ last v pa → cnt t pa = (cnt v pa + 1) % 2 ^ 32 ∧ phase t pa = phase v pa)
    let waiting (v t : State) (pa p : Nat) : Prop := t.p.wait = .gong pa ∧ t.p.pc = v.p.pc ∧ t.p.phase = some (BitVec.ofNat 32 p) ∧
      waits t pa = waits v pa + 1 ∧ t.p.link = BitVec.ofNat 16 (head v pa) ∧ head t pa = v.g.wid % 65536
    ActsAt s (spent s) (.bari d a b) (obj false .plain .grp) (fun v pa _ => v.recordsMet pa 16 = [] →
      let n := (v.g.sreg b).toNat
      (n = 0 ∨ 2 ^ 32 ≤ n → Ends (.bari d a b) s fun t => Answers v t d 1 ∧ v.sameBytes t) ∧
      (0 < n → n < 2 ^ 32 → Ends (.bari d a b) s fun t => Answers v t d 0 ∧ cnt t pa = 0 ∧ exp t pa = n ∧
        KeepsBytes v t fun x => within pa 4 x ∨ within (pa + 8) 4 x)) ∧
    ActsAt s (spent s) (.bara sc d a) (obj true .rel sc) (fun v pa _ => v.recordsMet pa 16 = [] →
      Ends (.bara sc d a) s fun t => Answers v t d (BitVec.ofNat 64 (phase v pa)) ∧ arrived v t pa ∧ exp t pa = exp v pa ∧
        KeepsBytes v t fun x => within pa 8 x ∨ within (pa + 12) 4 x) ∧
    ActsAt s s (.barw sc d a b) (obj false .plain .grp) (fun v pa _ => v.recordsMet pa 16 = [] →
      let p := match v.p.phase with | some p => p.toNat | none => (v.g.sreg b).toNat % 2 ^ 32
      let ahead := (phase v pa + 2 ^ 32 - p) % 2 ^ 32
      (1 ≤ ahead → ahead < 2 ^ 31 → Ends (.barw sc d a b) s fun t =>
        t.g.sreg d = BitVec.ofNat 64 (phase v pa) ∧ t.p = { v.p with phase := none }.past 8 ∧ v.sameBytes t) ∧
      (¬ (1 ≤ ahead ∧ ahead < 2 ^ 31) → waits v pa < 65535 → Ends (.barw sc d a b) s fun t =>
        waiting v t pa p ∧ KeptBut v t {})) ∧
    (s.p.phase = none → ActsAt s (spent s) (.baraw sc d a) (obj false .rel sc) fun v pa _ => v.recordsMet pa 16 = [] →
      (last v pa → Ends (.baraw sc d a) s fun t => arrived v t pa ∧
        t.g.sreg d = BitVec.ofNat 64 ((phase v pa + 1) % 2 ^ 32) ∧ t.p = { v.p with phase := none }.past 8) ∧
      (¬ last v pa → waits v pa < 65535 → Ends (.baraw sc d a) s fun t => arrived v t pa ∧ waiting v t pa (phase v pa))) ∧
    (∀ pa, Calm s → Reaches s (s.g.creg a) [0, 1, 2] .atomic (s.g.creg a).cursor 16 pa →
      let n := (s.g.sreg b).toNat
      let p := match s.p.phase with | some p => p.toNat | none => n % 2 ^ 32
      let ahead := (phase s pa + 2 ^ 32 - p) % 2 ^ 32
      let arrives (t : State) : Prop := arrived s t pa ∧ exp t pa = exp s pa ∧ KeepsBytes s t fun x => within pa 8 x ∨ within (pa + 12) 4 x
      (n = 0 ∨ 2 ^ 32 ≤ n → Ends (.bari d a b) s fun t => Answers (spent s) t d 1 ∧ s.sameBytes t) ∧
      (0 < n → n < 2 ^ 32 → Ends (.bari d a b) s fun t => Answers (spent s) t d 0 ∧ cnt t pa = 0 ∧ exp t pa = n ∧
        KeepsBytes s t fun x => within pa 4 x ∨ within (pa + 8) 4 x) ∧
      (Settled s → Ends (.bara sc d a) s fun t => Answers (spent s) t d (BitVec.ofNat 64 (phase s pa)) ∧ arrives t) ∧
      (1 ≤ ahead → ahead < 2 ^ 31 → Ends (.barw sc d a b) s fun t =>
        t.g.sreg d = BitVec.ofNat 64 (phase s pa) ∧ t.p = { s.p with phase := none }.past 8 ∧ s.sameBytes t) ∧
      (¬ (1 ≤ ahead ∧ ahead < 2 ^ 31) → waits s pa < 65535 → Ends (.barw sc d a b) s fun t => waiting s t pa p ∧ KeptBut s t {} ∧
        KeepsBytes s t (within (pa + 12) 4)) ∧
      (s.p.phase = none → Settled s → last s pa → Ends (.baraw sc d a) s fun t => arrives t ∧
        t.g.sreg d = BitVec.ofNat 64 ((phase s pa + 1) % 2 ^ 32) ∧ t.p = s.p.past 8) ∧
      (s.p.phase = none → Settled s → ¬ last s pa → waits s pa < 65535 → Ends (.baraw sc d a) s fun t =>
        arrives t ∧ waiting s t pa (phase s pa)))

/-! ### Allowance counters (04 R111-R128, 12 R317-R319) -/

namespace Sys2Proof.Claim

/-- The issue of an allowance instruction: its record at `pa`, an operation that addresses it, and `P` of the state with the
operation open (`w`), the operation's number and the state answered but for the move past the instruction (`t`). An
instruction that needs the core's one request of the record waits while one is outstanding (04 R115); the path of one that `waits`
waits past the instruction until it is answered (12 R319). -/
def CtrIssues (s s0 : State) (i : Instr) (a : CReg) (d : SReg) (pair : Bool) (ord : Ord) (home waits : Bool)
    (P : State → Nat → Nat → State → Prop) : Prop :=
  let m : MemOp :=
    { cap := s.g.creg a, acc := .atomic, align := true, extra := none, target := .counter
      lanes := [⟨0, (s.g.creg a).cursor, 64, .load⟩], mask := s.act, once := true, cp := .ca, ord := ord, sc := .pkg
      fin := .status d pair }
  ∀ (u z v : State) (passed : List (LaneAcc × List (Nat × Nat × Trans))) (ready same : Bool), m.check s0 = ⟨u, passed, []⟩ →
    (if ord = .rel then u.releaseAt s.cur.gid s.cur.b .pkg false = (z, ready) else z = u ∧ ready = true) →
    m.setDirty z passed = (v, same) →
    ∀ r, m.reqs u.c u.g.asid [] [] passed = [r] →
    let stalls := ready = false ∨ z.orderStall [r] = true ∨ (home = true ∧ ∃ x ∈ (z.core z.c).areqs, x.1 = r.pa)
    (stalls → exec i s = .next z) ∧ (¬ stalls → same = false → exec i s = .next v) ∧
    (¬ stalls → same = true → v.parkedOp v.cur.gid v.cur.b = none → v.issuing →
      ∃ (o : OpRec) (w t : State), o.gid = v.cur.gid ∧ o.fin = .status d pair ∧ o.out = 1 ∧ o.ctr = r.pa ∧
        o.ctrVa = (s.g.creg a).cursor ∧ o.flag = v.p.flagOf false ∧ o.got = [] ∧
        w = { v with ops := Store.put v.ops v.fresh o, fresh := v.fresh + 1 } ∧ P w r.pa v.fresh t ∧
        (waits = false → exec i s = .next (t.retire 8)) ∧
        (∀ o', Store.find t.ops v.fresh = some o' → waits = true →
          exec i s = .next (if o'.out = 0 then t.retire 8 else (t.retire 8).park (.op v.fresh))))

/-- Operation `id` has its status and value, and its completion is on its way. -/
def StatusOf (w t : State) (id status value : Nat) : Prop :=
  ∃ o, Store.find t.ops id = some o ∧ o.out = 0 ∧ o.got = [⟨0, 0, bytesOf 8 status ++ bytesOf 8 value, false⟩] ∧
    Instr.countedComplete id ∈ t.agenda ∧ t.groups = w.groups ∧ t.mem = w.mem

/-- The request of an operation has set out for the record's home, and is the core's one request of it. -/
def Asks (w t : State) (pa id : Nat) (msg : Instr) : Prop :=
  t = { w with cores := t.cores, agenda := w.agenda ++ [msg] } ∧ (t.core w.c).areqs = (w.core w.c).areqs ++ [(pa, id)] ∧
    ∀ c, c ≠ w.c → t.core c = w.core c

end Sys2Proof.Claim

/-- R115, R117, R121, R122, R318, R319 with Table 4.2: an ADEC of 0, or of no more than the core's entry holds, is done
at the core; a larger one takes the entry's amount to the home; while a request is outstanding it waits for it. Its path waits
until its operation is answered. ACINIT,
AINC, AREADX and AREADA ask the home; ACRET returns the core's entries. -/
def Obligations.AllowanceInstructions : Prop :=
  ∀ s : State, s.issuing → ∀ (nw : Bool) (d b c : SReg) (a : CReg),
    let k := (s.g.sreg b).toNat
    let va := (s.g.creg a).cursor
    let held (w : State) : Nat := match (w.core w.c).allowAt w.g.asid va with | some e => e.amount.toNat | none => 0
    CtrIssues s (spent s) (.acinit d a b c) a d false .rel true false (fun w pa id t =>
      Asks w t pa id (.aop w.c pa id (.acinit (s.g.sreg b) (s.g.sreg c)))) ∧
    CtrIssues s (spent s) (.ainc d a b) a d false .rel true false (fun w pa id t =>
      Asks w t pa id (.aop w.c pa id (.ainc (s.g.sreg b)))) ∧
    CtrIssues s s (.areadx d a) a d true .acq true false (fun w pa id t => Asks w t pa id (.aop w.c pa id .areadx)) ∧
    CtrIssues s s (.areada d a) a d true .plain true false (fun w pa id t => Asks w t pa id (.aop w.c pa id .areada)) ∧
    CtrIssues s (spent s) (.adec nw d a b) a d false .plain false true (fun w pa id t =>
      (k = 0 → StatusOf w t id 0 0 ∧ t.cores = w.cores) ∧
      (0 < k → k ≤ held w → StatusOf w t id 0 0 ∧
        ∃ e, (t.core w.c).allowAt w.g.asid va = some e ∧ e.pa = ((w.core w.c).allowAt w.g.asid va).elim e.pa (·.pa) ∧
          e.amount.toNat = held w - k) ∧
      (held w < k → (∀ x ∈ (w.core w.c).areqs, x.1 ≠ pa) →
        Asks w t pa id (.areq w.c pa id (BitVec.ofNat 64 k) (BitVec.ofNat 64 (held w)) nw) ∧
          (t.core w.c).allowAt w.g.asid va = none) ∧
      (held w < k → (∃ x ∈ (w.core w.c).areqs, x.1 = pa) →
        t = { w with cores := t.cores } ∧ (t.core w.c).await = (w.core w.c).await ++ [(pa, id, BitVec.ofNat 64 k, nw)] ∧
          (t.core w.c).allow = (w.core w.c).allow)) ∧
    CtrIssues s (spent s) (.acret d a) a d false .rel false false (fun w pa id t =>
      StatusOf w t id 0 0 ∧ (∀ e ∈ (t.core w.c).allow, e.pa ≠ pa) ∧
        (∀ e ∈ (w.core w.c).allow, e.pa ≠ pa → e ∈ (t.core w.c).allow) ∧
        ((∃ e ∈ (w.core w.c).allow, e.pa = pa) → ∃ x, Instr.aret w.c pa x ∈ t.agenda))

/-! ### Tasks (07 R180-R192, 13 R327-R336) -/

namespace Sys2Proof.Claim

/-- The fields of a future cell (07 Table 7.4): STATE, GEN, WCNT, VALUE. -/
def futSt (s : State) (pa : Nat) : Nat := (s.readByte pa).toNat % 4
def futGen (s : State) (pa : Nat) : Nat := s.readNat (pa + 4) 4
def futWaits (s : State) (pa : Nat) : Nat := s.readNat (pa + 8) 2
def futVal (s : State) (pa : Nat) : Nat := s.readNat (pa + 16) 16

/-- A range of bytes. -/
def within (pa n : Nat) (x : Nat) : Prop := pa ≤ x ∧ x < pa + n

/-- A pair of scalar registers as 128 bits. -/
def pairOf (s : State) (b : SReg) : Nat := (s.g.sreg b).toNat + (s.g.sreg (b + 1)).toNat * 2 ^ 64

/-- The results of a JOIN or JOINT of a cell that is not EMPTY, in d, d + 1 and d + 2 (13 Table 13.2). -/
def Joined (v t : State) (pa : Nat) (d : SReg) : Prop :=
  let st := futSt v pa
  let x := futVal v pa
  t.g.sreg d = BitVec.ofNat 64 ((if st = 1 then 0 else if st = 2 then 1 else 2) + futGen v pa * 2 ^ 32) ∧
  t.g.sreg (d + 1) = BitVec.ofNat 64 (if st = 1 then x else if st = 2 then x % 2 ^ 57 else 0) ∧
  t.g.sreg (d + 2) = BitVec.ofNat 64 (if st = 1 then x / 2 ^ 64 else if st = 2 then x / 2 ^ 64 % 256 else 0)

/-- The path is chained on the object at `pa`, whose WHEAD and WCNT stand at `whead` and `wcnt`, and waits there for its gong: it
links to the old head, and the head names it (07 R185). -/
def Chained (v t : State) (pa whead wcnt : Nat) : Prop :=
  t.p.wait = .gong pa ∧ t.p.pc = v.p.pc ∧ t.p.link = BitVec.ofNat 16 (v.readNat whead 2) ∧ t.readNat whead 2 = v.g.wid % 65536 ∧
    t.readNat wcnt 2 = v.readNat wcnt 2 + 1 ∧ KeptBut v t {}

end Sys2Proof.Claim

/-- R329 to R332, Tables 7.5 and 13.2, on a cell in whose line no allowance counter has holders: FNEW empties the cell and
counts its generation up; FFILL fills an EMPTY cell, after its release, and answers 1 at any other; JOIN takes the result of
a cell that is not EMPTY and waits on one that is; JOINT never waits; JOIN.t traps when the task failed. On a cell in common memory, with nothing in the way, each
does so at once. A task's end fills its EMPTY cell with the task's value. -/
def Obligations.Futures : Prop :=
  ∀ s : State, s.issuing → ∀ (d b : SReg) (a : CReg),
    let m : MemOp := objectOp (s.g.creg a) 32 s.act (.object false) .plain .grp
    ActsAt s (spent s) (.fnew d a) m (fun v pa _ => v.recordsMet pa 32 = [] →
      let gen := (futGen v pa + 1) % 2 ^ 32
      Ends (.fnew d a) s fun t => Answers v t d (BitVec.ofNat 64 gen) ∧ futSt t pa = 0 ∧ futGen t pa = gen ∧ futVal t pa = 0 ∧
        futWaits t pa = 0 ∧ KeepsBytes v t (within pa 32)) ∧
    ActsAt s (spent s) (.ffill (.value b) d a) m (fun v pa _ => v.recordsMet pa 32 = [] →
      let i : Instr := .ffill (.value b) d a
      (futSt v pa ≠ 0 → Ends i s fun t => Answers v t d 1 ∧ v.sameBytes t) ∧
      (futSt v pa = 0 → ∀ u r, v.releaseAt v.cur.gid v.cur.b .pkg true = (u, r) →
        (r = false → exec i s = .next u) ∧
        (r = true → Ends i s fun t => Answers u t d 0 ∧ futSt t pa = 1 ∧ futVal t pa = pairOf u b ∧ futWaits t pa = 0 ∧
          futGen t pa = futGen v pa ∧ KeepsBytes u t (within pa 32)))) ∧
    ActsAt s (spent s) (.ffill .cancel d a) m (fun v pa _ => v.recordsMet pa 32 = [] →
      let i : Instr := .ffill .cancel d a
      (futSt v pa ≠ 0 → Ends i s fun t => Answers v t d 1 ∧ v.sameBytes t) ∧
      (futSt v pa = 0 → ∀ u r, v.releaseAt v.cur.gid v.cur.b .pkg true = (u, r) →
        (r = false → exec i s = .next u) ∧
        (r = true → Ends i s fun t => Answers u t d 0 ∧ futSt t pa = 3 ∧ futVal t pa = 0 ∧ KeepsBytes u t (within pa 32)))) ∧
    (∀ tf, ActsAt s s (.join tf d a) m fun v pa _ => v.recordsMet pa 32 = [] →
      let i : Instr := .join tf d a
      (futSt v pa ≠ 0 → tf = false ∨ futSt v pa = 1 → Ends i s fun t => Joined v t pa d ∧ t.p = v.p.past 8 ∧ v.sameBytes t) ∧
      (futSt v pa ≠ 0 → tf = true → futSt v pa ≠ 1 → ∃ x fa, exec i s = .next (State.trap x 0x58 fa 0) ∧ Joined v x pa d ∧
        x.p = v.p.past 8) ∧
      (futSt v pa = 0 → futWaits v pa < 65535 → Ends i s fun t => Chained v t pa (pa + 10) (pa + 8))) ∧
    ActsAt s s (.joint d a) m (fun v pa _ =>
      (futSt v pa ≠ 0 → Ends (.joint d a) s fun t => Joined v t pa d ∧ t.p = v.p.past 8 ∧ v.sameBytes t) ∧
      (futSt v pa = 0 → Ends (.joint d a) s fun t => Answers v t d (BitVec.ofNat 64 (3 + futGen v pa * 2 ^ 32)) ∧ v.sameBytes t)) ∧
    (∀ (die asid : Nat) (f : Cap) (w : Option Waiter) (o : Nat) (x : W128) (u : State) (pa : Nat), f.tag = true →
      s.futCell die asid f = (u, .ok pa) → u.recordsMet pa 32 = [] → futSt u pa = 0 →
      let t := s.fillTask die asid f w o (.value x)
      futSt t pa = 1 ∧ futVal t pa = x.toNat ∧ KeepsBytes u t (within pa 32)) ∧
    (∀ pa tf, Calm s → Reaches s (s.g.creg a) [0, 1, 2] .atomic (s.g.creg a).cursor 32 pa →
      let gen := (futGen s pa + 1) % 2 ^ 32
      let fills (f : Fill) (st v : Nat) : Prop := Ends (.ffill f d a) s fun t => Answers (spent s) t d 0 ∧ futSt t pa = st ∧
        futVal t pa = v ∧ futWaits t pa = 0 ∧ futGen t pa = futGen s pa ∧ KeepsBytes s t (within pa 32)
      Ends (.fnew d a) s (fun t => Answers (spent s) t d (BitVec.ofNat 64 gen) ∧ futSt t pa = 0 ∧ futGen t pa = gen ∧ futVal t pa = 0 ∧
        futWaits t pa = 0 ∧ KeepsBytes s t (within pa 32)) ∧
      (futSt s pa = 0 → Settled s → fills (.value b) 1 (pairOf s b) ∧ fills .cancel 3 0) ∧
      (futSt s pa ≠ 0 → (∀ f, Ends (.ffill f d a) s fun t => Answers (spent s) t d 1 ∧ s.sameBytes t) ∧
        Ends (.joint d a) s (fun t => Joined s t pa d ∧ t.p = s.p.past 8 ∧ s.sameBytes t) ∧
        (tf = false ∨ futSt s pa = 1 → Ends (.join tf d a) s fun t => Joined s t pa d ∧ t.p = s.p.past 8 ∧ s.sameBytes t)) ∧
      (futSt s pa = 0 → Ends (.joint d a) s (fun t => Answers s t d (BitVec.ofNat 64 (3 + futGen s pa * 2 ^ 32)) ∧ s.sameBytes t) ∧
        (futWaits s pa < 65535 → Ends (.join tf d a) s fun t => Chained s t pa (pa + 10) (pa + 8))))

/-- R180, R181 to R183, R186, R328, R332, R336: SPAWN and SPAWNL push a well-formed closure from scratch at the hot end of
the core's deque, after their release, and count the task in; a malformed one raises ENGINE. EXIT stops both paths; with
nothing left in flight the task is gone. LHINT marks its launch; WAITPRED waits for the predecessor of a kernel that
started early. -/
def Obligations.TasksStartAndEnd : Prop :=
  ∀ s : State, s.issuing → ∀ (m : AMode) (off : Byte) (d : SReg) (v : Option SReg) (loc : Bool),
    let i : Instr := if loc then .spawnl m off else .spawn m off
    let a := addr s m off.toInt 0
    let c := natOf (s.scrRead s.cur.gid a 128)
    let n := match s.launchOf s.g with | some l => l.entries.length | none => 0
    let futTag := s.scrTag s.cur.gid (a + 16)
    (s.g.scrSize < a + 128 → exec i s = .next ((spent s).trapAll 0x14 (BitVec.ofNat 64 a))) ∧
    (a + 128 ≤ s.g.scrSize → a % 128 ≠ 0 → exec i s = .next ((spent s).trapAll 0x18 (BitVec.ofNat 64 a))) ∧
    (a + 128 ≤ s.g.scrSize → a % 128 = 0 → badClosure c n = true → exec i s = .next ((spent s).trapAll 0x50 0)) ∧
    (a + 128 ≤ s.g.scrSize → a % 128 = 0 → badClosure c n = false → futTag = false → ∀ u r,
      (spent s).releaseAt s.cur.gid s.cur.b .core true = (u, r) →
      (r = false → exec i s = .next u) ∧
      (r = true → (u.core u.c).deque.length < 2048 → Ends i s fun t =>
        (∃ e, (t.core u.c).deque = e :: (u.core u.c).deque ∧ e.launch = s.g.launch ∧
          (e.st = .ready ↔ c / 2 ^ 21 % 8 = 0) ∧
          (∀ k, k < 1024 → e.closure.getLsbD k = (c.testBit k || (k == 24 && loc) || (k == 18 && s.g.early)))) ∧
        t.p = s.p.past 8 ∧ u.g.Kept t.g u.cur.b {} ∧
        (∀ l, Store.find u.launches s.g.launch = some l → ∃ l', Store.find t.launches s.g.launch = some l' ∧
          l'.tasks = l.tasks + 1))) ∧
    ((∃ o ∈ s.ops, o.2.gid = s.cur.gid ∧ o.2.parked = false) → (∀ g ∈ s.groups, g.2.ending = none) →
      Ends (.exit v) s fun t => t.g.pa.live = false ∧ t.g.pb.live = false ∧
        t.g.ending = some (.value (match v with | none => 0 | some r => BitVec.ofNat 128 (pairOf s r)))) ∧
    ((∀ o ∈ s.ops, o.2.gid = s.cur.gid → o.2.parked = true) → (∀ g ∈ s.groups, g.2.ending = none) → s.g.fut.tag = false →
      (∀ e ∈ s.g.seen, s.outstanding e.sid = false) → (∀ l ∈ (s.core s.c).lines, l.lease = false) → s.lretInFlight s.c = false →
      (∀ g ∈ (s.die (dieOf s.c)).guests, g.dirty = 0) →
      Ends (.exit v) s fun t => Store.find t.groups s.cur.gid = none ∧ ∀ o ∈ t.ops, o.2.gid ≠ s.cur.gid) ∧
    Ends .lhint s (fun t => t.p = s.p.past 8 ∧ s.g.Kept t.g s.cur.b {} ∧ s.sameBytes t ∧
      ∀ l, s.launchOf s.g = some l → (Store.find t.launches s.g.launch).map (·.lhinted) = some true) ∧
    (∀ l, s.launchOf s.g = some l →
      (l.early = false ∨ l.pred = none → Ends (.waitpred d) s fun t =>
        t.g.sreg d = 0 ∧ t.p = s.p.past 8 ∧ t.g.early = false ∧ s.sameBytes t) ∧
      (∀ k q, l.early = true → l.pred = some k → Store.find s.launches k = some q →
        (q.done = true → Ends (.waitpred d) s fun t =>
          t.g.sreg d = (if q.aborted then 1 else 0) ∧ t.p = s.p.past 8 ∧ t.g.early = false ∧ s.sameBytes t) ∧
        (q.done = false → Ends (.waitpred d) s fun t => t.p = { s.p with wait := .pred, parkedAt := s.time } ∧ s.Frame t {})))

/-- R191, R333 to R335, in lines where no allowance counter has holders: QAPP and QPOP move one 64-byte record between
scratch and a feed queue and answer 0, or 1 or 2 when the queue is full, empty or closed; REGRP answers ALONE for a group
that is not on one path, waits for the operations of its path, is recorded in an empty cell, or joins the recorded group of its
kernel. On a queue or cell in common memory, with nothing in the way, each does so at once. -/
def Obligations.FeedsAndRegrouping : Prop :=
  ∀ s : State, s.issuing → ∀ (d b : SReg) (a : CReg) (nb : Bool) (x y : VReg),
    let m : MemOp := objectOp (s.g.creg a) 64 s.act (.object false) .plain .grp
    let cell : MemOp := objectOp (s.g.creg a) 16 s.act (.object true) .plain .grp
    let o := (s.g.sreg b).toNat
    let room := o + 64 ≤ s.g.scrSize ∧ o % 64 = 0
    let head (v : State) (pa : Nat) := v.readNat pa 8
    let tail (v : State) (pa : Nat) := v.readNat (pa + 8) 8
    let slot (v : State) (pa k : Nat) := feedRecord pa (v.feed pa).capl k
    let full (v : State) (pa : Nat) : Prop := (tail v pa + 2 ^ 64 - head v pa) % 2 ^ 64 = 2 ^ (v.feed pa).capl
    let ok (v : State) (pa : Nat) : Prop := (v.feed pa).valid = true ∧ v.recordsMet pa 64 = []
    let bad (v : State) (i : Instr) (pa : Nat) : Prop :=
      (v.feed pa).valid = false → exec i s = .next (v.trapAll 0x18 (BitVec.ofNat 64 (s.g.creg a).cursor))
    let tells (v : State) (i : Instr) (k : W64) : Prop := Ends i s fun t => Answers v t d k ∧ v.sameBytes t
    let pop : Instr := .qpop nb d a b
    let app : Instr := .qapp (.app b) d a
    let close : Instr := .qapp .close d a
    let rg : Instr := .regrp (.range x y) d a
    let fl : Instr := .regrp .flush d a
    let alone (v : State) : Prop := (v.q.live = false ∨ v.q.wait = .reconv) ∧ v.g.pa.stack = [] ∧ v.g.pb.stack = []
    let idle (v : State) : Prop := ∀ o ∈ v.ops, o.2.gid ≠ v.cur.gid
    (room → windowFits s → ActsAt s (spent s) pop m fun v pa _ => bad v pop pa ∧ (ok v pa →
      (head v pa ≠ tail v pa → Ends pop s fun t => Answers v t d 0 ∧ head t pa = (head v pa + 1) % 2 ^ 64 ∧
        t.scrRead t.cur.gid o 64 = v.read (slot v pa (head v pa)) 64 ∧ KeepsBytes v t (within pa 8)) ∧
      (head v pa = tail v pa → (v.feed pa).closed = true → tells v pop 2) ∧
      (head v pa = tail v pa → (v.feed pa).closed = false → nb = true → tells v pop 1) ∧
      (head v pa = tail v pa → (v.feed pa).closed = false → nb = false → v.readNat (pa + 18) 2 < 65535 →
        Ends pop s fun t => Chained v t pa (pa + 20) (pa + 18)))) ∧
    (room → ActsAt s (spent s) app m fun v pa _ => bad v app pa ∧ (ok v pa →
      ((v.feed pa).closed = true → tells v app 2) ∧
      ((v.feed pa).closed = false → full v pa → tells v app 1) ∧
      ((v.feed pa).closed = false → ¬ full v pa → v.recordsMet (slot v pa (tail v pa)) 64 = [] →
        ∀ u r, v.releaseAt v.cur.gid v.cur.b .pkg true = (u, r) →
          (r = false → exec app s = .next u) ∧
          (r = true → Ends app s fun t => Answers u t d 0 ∧ tail t pa = (tail v pa + 1) % 2 ^ 64 ∧ head t pa = head v pa ∧
            t.read (slot v pa (tail v pa)) 64 = v.scrRead v.cur.gid o 64)))) ∧
    ActsAt s (spent s) close m (fun v pa _ => bad v close pa ∧ (ok v pa → Ends close s fun t =>
      Answers v t d 0 ∧ (t.feed pa).closed = true ∧ t.readNat (pa + 18) 2 = 0 ∧ head t pa = head v pa ∧ tail t pa = tail v pa)) ∧
    ActsAt s (spent s) rg cell (fun v pa _ => v.recordsMet pa 16 = [] →
      (¬ alone v → tells v rg 1) ∧
      (alone v → v.charging = true → exec rg s = .next v) ∧
      (alone v → idle v → 1 < v.readNat pa 2 → exec rg s = .next (v.trapAll 0x18 (BitVec.ofNat 64 (s.g.creg a).cursor))) ∧
      (alone v → idle v → v.readNat pa 2 = 0 → Ends rg s fun t =>
        t.p.wait = .regroup pa ∧ t.p.pc = v.p.pc ∧ t.g.regroup = some ⟨pa, v.cur.b, x, y, d⟩ ∧ t.readNat pa 2 = 1 ∧
          KeepsBytes v t (within pa 16))) ∧
    ActsAt s (spent s) fl cell (fun v pa _ => v.recordsMet pa 16 = [] → v.readNat pa 2 ≤ 1 → v.g.regroup = none → idle v →
      Ends fl s fun t => t.g.sreg d = 1 ∧ t.p = v.p.past 8 ∧ t.readNat pa 2 = 0) ∧
    (∀ pa, Calm s → Reaches s (s.g.creg a) [0, 1, 2] .atomic (s.g.creg a).cursor 64 pa → (s.feed pa).valid = true →
      (room → windowFits s →
        (head s pa ≠ tail s pa → Ends pop s fun t => Answers (spent s) t d 0 ∧ head t pa = (head s pa + 1) % 2 ^ 64 ∧
          t.scrRead t.cur.gid o 64 = s.read (slot s pa (head s pa)) 64 ∧ KeepsBytes s t (within pa 8)) ∧
        (head s pa = tail s pa → (s.feed pa).closed = true → tells (spent s) pop 2) ∧
        (head s pa = tail s pa → (s.feed pa).closed = false → nb = true → tells (spent s) pop 1) ∧
        (head s pa = tail s pa → (s.feed pa).closed = false → nb = false → s.readNat (pa + 18) 2 < 65535 →
          Ends pop s fun t => Chained (spent s) t pa (pa + 20) (pa + 18))) ∧
      (room → ((s.feed pa).closed = true → tells (spent s) app 2) ∧
        ((s.feed pa).closed = false → full s pa → tells (spent s) app 1) ∧
        ((s.feed pa).closed = false → ¬ full s pa → Settled s → s.recordsMet (slot s pa (tail s pa)) 64 = [] → Ends app s fun t =>
          Answers (spent s) t d 0 ∧ tail t pa = (tail s pa + 1) % 2 ^ 64 ∧ head t pa = head s pa ∧
            t.read (slot s pa (tail s pa)) 64 = s.scrRead s.cur.gid o 64)) ∧
      Ends close s fun t => Answers (spent s) t d 0 ∧ (t.feed pa).closed = true ∧ t.readNat (pa + 18) 2 = 0 ∧ head t pa = head s pa ∧
        tail t pa = tail s pa) ∧
    (∀ pa, Calm s → Reaches s (s.g.creg a) [0, 1, 2] .atomic (s.g.creg a).cursor 16 pa → homeDie pa = dieOf s.c →
      (¬ alone s → tells (spent s) rg 1) ∧
      (alone s → s.readNat pa 2 = 0 → Ends rg s fun t => t.p.wait = .regroup pa ∧ t.p.pc = s.p.pc ∧
        t.g.regroup = some ⟨pa, s.cur.b, x, y, d⟩ ∧ t.readNat pa 2 = 1 ∧ KeepsBytes s t (within pa 16)) ∧
      (s.readNat pa 2 ≤ 1 → s.g.regroup = none → Ends fl s fun t => t.g.sreg d = 1 ∧ t.p = s.p.past 8 ∧ t.readNat pa 2 = 0))

/-! ### The matrix unit (08 R209-R214, 14 R353-R362) -/

namespace Sys2Proof.Claim

/-- A quarter that an MMA or MZERO computes (14 R359). -/
def quarter (s : State) (p : Pred) (q : Nat) : Prop :=
  q < 4 ∧ (s.sel p).getLsbD (8 * q) = true ∧ ∀ i, i < 8 → s.act.getLsbD (8 * q + i) = true

/-- The slot indices that lane 8q of v[A] names (14 R358). -/
def slotA (s : State) (a : VReg) (q : Nat) : Nat := ((s.g.vreg a).at (8 * q)).toNat % 65536
def slotB (s : State) (a : VReg) (q : Nat) : Nat := ((s.g.vreg a).at (8 * q)).toNat / 65536

/-- `x` is the least number with a property. -/
def least (P : Nat → Prop) (x : Nat) : Prop := P x ∧ ∀ y, P y → x ≤ y

/-- Bytes of tile that an operand's slot holds, at TOB slot `n`. -/
def tile (s : State) (k : Nat) (d : Side) (n : Nat) : List Byte := s.tobRead s.cur.gid (2048 * n) (k * efBits d.ef)

/-- The writes of an accumulator block at D: eight registers under one mask, column j's lanes from `x j`. -/
def blockOf (d : VReg) (m : Mask) (x : Nat → Lanes) : List RegWrite := (List.range 8).map fun j => .v (d + BitVec.ofNat 8 j) m (x j)

/-- The group's TOB slots lie in the core's TOB banks. -/
def slotsFit (s : State) : Prop := 2048 * (s.g.tobBase + s.g.tobCnt) ≤ roleCap (s.core s.c).brr 2

/-- What PLANE writes for an element of its source (14 R357). -/
def planeOf (s : State) (ty : ETy) (d : Side) (r : Rnd) (c : Nat) : Nat × Nat :=
  let rm := s.g.roundMode r.rm
  let x := decodeBase (fmtOf ty) c
  let n := eNum ty c
  let into (sg : Bool) (z : Int) : Int :=
    if sg then max (-(2 ^ (d.pd - 1))) (min (2 ^ (d.pd - 1) - 1) z) else max 0 (min (2 ^ d.pd - 1) z)
  match d.ef, etyFloat ty with
  | .flt f, true => cvt f rm r.sat x
  | .flt f, false => cvt f rm r.sat (.fin (decide (n < 0)) n.natAbs 0 false)
  | .int sg w, true => (((intOf sg d.pd (toInt d.pd sg rm x).1) % 2 ^ w).toNat, (toInt d.pd sg rm x).2)
  | .int sg w, false => ((into sg n % 2 ^ w).toNat, 0)

/-- A product of a block that is finite and of valid factors (08 R213). -/
def finVal : Val → Prop
  | .fin _ _ _ st => st = false
  | .inf _ => False
  | .nan _ => False

/-- The exact scale that a code gives (08 R201). -/
def scaleRat (c : Nat) : ℚ := if c = 0 then 0 else (2 : ℚ) ^ ((c : Int) - 128)

/-- The exact sum of a block's products. -/
def blockRat (ps : List (Val × Val)) (sa sb : Nat) : ℚ := (ps.map fun x => ratOf x.1 * ratOf x.2 * scaleRat sa * scaleRat sb).sum

/-- Some product of the block is 0 × ∞ (08 R213). -/
def zeroTimesInf (ps : List (Val × Val)) (sa sb : Nat) : Prop :=
  ∃ x ∈ ps, (isInf x.1 = true ∨ isInf x.2 = true) ∧ (isZero x.1 = true ∨ isZero x.2 = true ∨ sa = 0 ∨ sb = 0)

end Sys2Proof.Claim

/-- R355 to R359, R361, R362: MFMT loads a format slot from four scalar registers, or raises ILLEGAL_FIELD for an invalid
block; PLANE checks the format, the slot and the segment and writes the codes of its selected lanes' elements into the
tile; MMA checks the format, the TOB slots and the scales of its computed quarters and opens an operation that holds
their elements; MZERO's holds zeros; with no quarter computed neither does anything. -/
def Obligations.MatrixUnit : Prop :=
  ∀ s : State, s.issuing → s.parkedOp s.cur.gid s.cur.b = none →
    ∀ (p : Pred) (n : BitVec 2) (a : SReg) (d v : VReg) (half : Bool) (ty : ETy) (r : Rnd) (seg : Byte) (slot : SReg),
    let word (i : Nat) : Nat := (s.g.sreg (a + BitVec.ofNat 6 i)).toNat
    let blk := word 0 + word 1 * 2 ^ 64 + word 2 * 2 ^ 128 + word 3 * 2 ^ 192
    let later (P : OpRec → Prop) (t : State) : Prop :=
      ∃ o, Store.find t.ops s.fresh = some o ∧ o.gid = s.cur.gid ∧ o.flag = s.p.flagOf true ∧ o.out = 0 ∧ P o ∧
        t.p = s.p.past 8 ∧ t.agenda = s.agenda ++ [.countedComplete s.fresh] ∧ s.sameOthers t ∧ s.sameBytes t
    (fmtSlot blk = none → exec (.mfmt n a) s = .next (s.trapHere 0x05)) ∧
    (fmtSlot blk ≠ none → Ends (.mfmt n a) s fun t => later (fun o => o.writes = []) t ∧ t.g.fmtAt n = fmtSlot blk ∧
      (∀ m, m ≠ n → t.g.fmtAt m = s.g.fmtAt m) ∧ { t.g with fmts := s.g.fmts, pa := s.g.pa, pb := s.g.pb } = s.g) ∧
    (s.g.fmtAt n = none → exec (.plane half p ty r slot v n seg) s = .next (s.trapHere 0x05) ∧
      exec (.mma p d v n) s = .next (s.trapHere 0x05)) ∧
    (∀ f, s.g.fmtAt n = some f →
      let side := if half then f.b else f.a
      let m := elemCount ty
      let k := (s.g.sreg slot).toNat
      let mine (e : Nat) : Prop := 32 * m * seg.toNat ≤ e ∧ e < 32 * m * (seg.toNat + 1) ∧
        (s.sel p).getLsbD (e % (32 * m) / m) = true
      let src (e : Nat) : Nat := elemAt ty ((s.g.vreg v).at (e % (32 * m) / m)).toNat (e % m)
      let i : Instr := .plane half p ty r slot v n seg
      (s.g.tobCnt ≤ k → Traps s i 0x14 (s.g.sreg slot)) ∧
      (k < s.g.tobCnt → 8 * f.k ≤ seg.toNat * (32 * m) → Traps s i 0x14 (seg.zeroExtend 64)) ∧
      (k < s.g.tobCnt → seg.toNat * (32 * m) < 8 * f.k → s.sel p = 0 → Passes s i 8) ∧
      (k < s.g.tobCnt → seg.toNat * (32 * m) < 8 * f.k → s.sel p ≠ 0 → ty.pair = false → slotsFit s → Ends i s fun t =>
        later (fun o => o.writes = [] ∧ ∀ b, b < 64 → (o.flags.getLsbD b = true ↔
          ∃ e, mine e ∧ (planeOf s ty side r (src e)).2.testBit b = true)) t ∧
        (∀ e, e < 8 * f.k → mine e →
          tileCode (tile t f.k side k) f.k (efBits side.ef) e = (planeOf s ty side r (src e)).1 % 2 ^ efBits side.ef) ∧
        (∀ e, e < 8 * f.k → ¬ mine e →
          tileCode (tile t f.k side k) f.k (efBits side.ef) e = tileCode (tile s f.k side k) f.k (efBits side.ef) e) ∧
        (∀ j, j < s.g.tobCnt → j ≠ k → t.tobRead s.cur.gid (2048 * j) 2048 = s.tobRead s.cur.gid (2048 * j) 2048))) ∧
    (∀ f, s.g.fmtAt n = some f →
      let nb := f.k / f.bl
      let w := s.g.scrSize
      let badSlot (x : Nat) : Prop := s.g.tobCnt ≤ x ∧ ∃ q, quarter s p q ∧ (x = slotA s v q ∨ x = slotB s v q)
      let badScale (x : Nat) : Prop := w ≤ x ∧ ∃ q c, quarter s p q ∧ (c = f.a ∨ c = f.b) ∧ c.sce = true ∧
        c.scl + 8 * q * nb ≤ x ∧ x < c.scl + (8 * q + 8) * nb
      let scale (c : Side) (i b : Nat) : Nat := if c.sce then natOf (s.scrRead s.cur.gid (c.scl + i * nb + b) 1) else 128
      let block (q i j b : Nat) : List (Val × Val) × Nat × Nat :=
        ((List.range f.bl).map fun t =>
            (operandVal f.a (tileCode (tile s f.k f.a (slotA s v q)) f.k (efBits f.a.ef) (i * f.k + (b * f.bl + t))),
              operandVal f.b (tileCode (tile s f.k f.b (slotB s v q)) f.k (efBits f.b.ef) (j * f.k + (b * f.bl + t)))),
          scale f.a (8 * q + i) b, scale f.b (8 * q + j) b)
      let elem (q i j : Nat) : Nat × Nat :=
        let old := ((s.g.vreg (d + BitVec.ofNat 8 j)).at (8 * q + i)).toNat
        let bs := (List.range nb).map (block q i j)
        if f.acc then mmaInt old bs else mmaFloat old bs
      let i : Instr := .mma p d v n
      (∀ x, least badSlot x → Traps s i 0x14 (BitVec.ofNat 64 x)) ∧
      ((∀ x, ¬ badSlot x) → ∀ x, least badScale x → Traps s i 0x14 (BitVec.ofNat 64 x)) ∧
      ((∀ x, ¬ badSlot x) → (∀ x, ¬ badScale x) → (∃ q, quarter s p q) → Ends i s fun t => s.g.Kept t.g s.cur.b {} ∧
        later (fun o => ∃ (mk : Mask) (x : Nat → Lanes), o.writes = blockOf d mk x ∧
          (∀ l, l < 32 → (mk.getLsbD l = true ↔ quarter s p (l / 8))) ∧
          (∀ j l, j < 8 → l < 32 → quarter s p (l / 8) → (x j).at l = BitVec.ofNat 32 (elem (l / 8) (l % 8) j).1) ∧
          (∀ b, b < 64 → (o.flags.getLsbD b = true ↔
            ∃ q i j, quarter s p q ∧ i < 8 ∧ j < 8 ∧ (elem q i j).2.testBit b = true))) t) ∧
      ((∀ q, ¬ quarter s p q) → Passes s i 8)) ∧
    ((∃ q, quarter s p q) → Ends (.mzero p d) s fun t => s.g.Kept t.g s.cur.b {} ∧
      later (fun o => ∃ (mk : Mask) (x : Nat → Lanes), o.writes = blockOf d mk x ∧ o.flags = 0 ∧
        (∀ l, l < 32 → (mk.getLsbD l = true ↔ quarter s p (l / 8))) ∧ ∀ j l, j < 8 → l < 32 → (x j).at l = 0) t) ∧
    ((∀ q, ¬ quarter s p q) → Passes s (.mzero p d) 8)

/-- R353, R354, R209, R210, R212 to R214: a tile holds bit b of each element's code in plane b; an operand's value at its
declared precision; a block's exact sum, with its special cases; an FP32 element takes two roundings a block; an INT32
element is the exact total, rounded and clamped. -/
def Obligations.MatrixArithmetic : Prop :=
  (∀ (bs : List Byte) (k w e b : Nat), b < w →
    (tileCode bs k w e).testBit b = (bs.getD (b * k + e / 8) 0).getLsbD (e % 8) ∧ tileCode bs k w e < 2 ^ w) ∧
  (∀ (d : Side) (c : Nat),
    (∀ w, d.ef = .int true w → operandVal d c = intVal (BitVec.ofNat d.pd c).toInt) ∧
    (∀ w, d.ef = .int false w → operandVal d c = intVal ((c % 2 ^ d.pd : Nat) : Int)) ∧
    (d.ef = .flt .f4 → c % 16 = 8 → operandVal d c = decodeBase bf16 d.x) ∧
    (∀ f, d.ef = .flt f → (f = .f4 → c % 16 ≠ 8) → fmtPrec f ≤ d.pd → operandVal d c = decodeBase f c) ∧
    (∀ f s m e st, d.ef = .flt f → (f = .f4 → c % 16 ≠ 8) → d.pd < fmtPrec f → decodeBase f c = .fin s m e st →
      ∃ m', operandVal d c = .fin s m' e st ∧ m' ≤ m ∧ m - m' < 2 ^ (fmtPrec f - d.pd) ∧ 2 ^ (fmtPrec f - d.pd) ∣ m')) ∧
  (∀ (ps : List (Val × Val)) (sa sb : Nat),
    let v := blockSum ps sa sb
    (sa = 0xFF ∨ sb = 0xFF → v = (.nan false, fNV)) ∧
    (sa < 0xFF → sb < 0xFF → (∀ x ∈ ps, finVal x.1 ∧ finVal x.2) →
      finVal v.1 ∧ ratOf v.1 = blockRat ps sa sb ∧ v.2 = 0 ∧ (blockRat ps sa sb = 0 → signOf v.1 = false)) ∧
    (sa < 0xFF → sb < 0xFF → zeroTimesInf ps sa sb → v = (.nan false, fNV)) ∧
    (sa < 0xFF → sb < 0xFF → ¬ zeroTimesInf ps sa sb → (∃ x ∈ ps, isNan x.1 = true ∨ isNan x.2 = true) →
      (∀ x ∈ ps, isInf x.1 = false ∧ isInf x.2 = false) →
      v = (.nan false, if ∃ x ∈ ps, isSig x.1 = true ∨ isSig x.2 = true then fNV else 0))) ∧
  (∀ (old : Nat) (l : List (List (Val × Val) × Nat × Nat)) (b : List (Val × Val) × Nat × Nat),
    mmaFloat old [] = (old, 0) ∧
    (let a := mmaFloat old l
     let x := blockSum b.1 b.2.1 b.2.2
     let r := cvt fp32 .rne false x.1
     let y := addF .rne (decodeBase fp32 a.1) (decodeBase fp32 r.1)
     let z := cvt fp32 .rne false y.1
     mmaFloat old (l ++ [b]) = (z.1, a.2 ||| x.2 ||| r.2 ||| y.2 ||| z.2))) ∧
  (∀ (old : Nat) (l : List (List (Val × Val) × Nat × Nat)),
    ((∃ b ∈ l, b.2.1 = 0xFF ∨ b.2.2 = 0xFF) → mmaInt old l = (0x80000000, fNV)) ∧
    ((∀ b ∈ l, b.2.1 < 0xFF ∧ b.2.2 < 0xFF ∧ ∀ x ∈ b.1, finVal x.1 ∧ finVal x.2) →
      let total : ℚ := ((BitVec.ofNat 32 old).toInt : ℚ) + (l.map fun b => blockRat b.1 b.2.1 b.2.2).sum
      ∃ n : Int, |total - n| ≤ 1 / 2 ∧ (|total - n| = 1 / 2 → n % 2 = 0) ∧
        let c := max (-2147483648) (min 2147483647 n)
        mmaInt old l = ((c % 2 ^ 32).toNat, (if total = n then 0 else fNX) ||| (if c = n then 0 else fIS))))

/-! ### Engine commands and exchange instructions (05 R129-R147, 06 R152-R165, 14 R363-R373) -/

namespace Sys2Proof.Claim

/-- The issue of an engine command from the state `s0` that its checks start in, after a release at .die: with fewer than 64
commands of the context, no acquire of its path outstanding and its release ready, the command takes the context's next number and its copies of the
registers that it reads, its token (unless s0) is marked, and its start is on its way; a full context or an acquire not yet
performed stalls it. -/
def Commands (s s0 : State) (i : Instr) (tok : SReg) (ctx : Nat) (caps : List Cap) (args : List W64) (regs : List Lanes) : Prop :=
  ∀ (u : State) (r : Bool), s0.releaseAt s.cur.gid s.cur.b .die false = (u, r) →
    let c := s0.core s.c
    let n := (c.ctx ctx).issue + 1
    let free := c.liveCmds ctx < 64 ∧ s0.acquiring = false
    (¬ free → exec i s = .next s0) ∧
    (free → n = 2 ^ 62 → exec i s = .next (s0.trapAll 0x50 0)) ∧
    (free → n ≠ 2 ^ 62 → r = false → exec i s = .next u) ∧
    (free → n ≠ 2 ^ 62 → r = true → Ends i s fun t =>
      t.p = s.p.past 8 ∧ (∃ cmd, (t.core s.c).cmds = (u.core s.c).cmds ++ [cmd] ∧ cmd.ctx = ctx ∧ cmd.n = n ∧ cmd.ins = i ∧
        cmd.caps = caps ∧ cmd.args = args ∧ cmd.regs = regs ∧ cmd.gid = s.cur.gid ∧ cmd.asid = s.g.asid ∧
        cmd.token = (if tok = 0 then none else some tok) ∧ cmd.started = false ∧ cmd.done = false) ∧
      (t.core s.c).ctx ctx = { (u.core s.c).ctx ctx with issue := n } ∧
      (∀ k, k ≠ ctx → (t.core s.c).ctx k = (u.core s.c).ctx k) ∧
      (tok ≠ 0 → (⟨s.c, ctx, n, tok⟩ : Token) ∈ t.g.tokens) ∧ (tok = 0 → t.g.tokens = s.g.tokens) ∧
      { t.g with tokens := s.g.tokens, nums := s.g.nums, pa := s.g.pa, pb := s.g.pb } = s0.g ∧ s.sameOthers t ∧
      s.sameBytes t ∧ Instr.commandStart s.c ctx n ∈ t.agenda)

/-- The issuing path can read its descriptor's exchange identifier now: it is `xid`, and the path goes on in `v`. -/
def ReadsXid (s : State) (a : CReg) (v : State) (xid : W64) : Prop := ∀ act, s.readXid a act = act v xid

end Sys2Proof.Claim

/-- R129 to R133, R137, R312, R317, R364 to R367: the issue of the six engine commands, each with what it copies. CPY of
more than 2^32 bytes raises ENGINE; CPYT.st waits for its group's operations on scratch, slots and the matrix unit, and DRAIN for
those that write its accumulator. -/
def Obligations.CommandIssue : Prop :=
  ∀ s : State, s.issuing → ∀ (op : L2Op) (rop : Rmw) (ty : ETy) (st add i32 : Bool) (tok : SReg) (ctx : BitVec 4) (a b : CReg)
      (x y z : SReg) (v : VReg),
    let sr := s.g.sreg
    let cr := s.g.creg
    let busy := ∃ o ∈ s.ops, o.2.gid = s.cur.gid ∧ (if s.cur.b then o.2.chB else o.2.chA) = true ∧
      ∃ r ∈ o.2.pendingV, v.toNat ≤ r ∧ r < v.toNat + 8
    let near := ∃ o ∈ s.ops, o.2.gid = s.cur.gid ∧ o.2.parked = false ∧ o.2.reads = false ∧ o.2.stores = false
    Commands s s (.l2pf op tok ctx a x) tok ctx.toNat [cr a] [sr x] [] ∧
    Commands s (spent s) (.bupd rop ty tok ctx a x y) tok ctx.toNat [cr a] [sr x, sr y] [] ∧
    ((sr x).toNat ≤ 2 ^ 32 → Commands s (spent s) (.cpy st tok ctx a b x) tok ctx.toNat [cr a, cr b] [sr x] []) ∧
    (2 ^ 32 < (sr x).toNat → exec (.cpy st tok ctx a b x) s = .next ((spent s).trapAll 0x50 0)) ∧
    Commands s s (.cpyt false st tok ctx x y z) tok ctx.toNat [] [sr x, sr y, sr z] [] ∧
    (near → exec (.cpyt true st tok ctx x y z) s = .next s) ∧
    (¬ near → Commands s (spent s) (.cpyt true st tok ctx x y z) tok ctx.toNat [] [sr x, sr y, sr z] []) ∧
    Commands s s (.stage st tok ctx x y z) tok ctx.toNat [] [sr x, sr y, sr z] [] ∧
    (busy → exec (.drain add i32 st tok ctx v x y) s = .next s) ∧
    (¬ busy → Commands s (spent s) (.drain add i32 st tok ctx v x y) tok ctx.toNat [] [sr x, sr y]
      ((List.range 8).map fun j => s.g.vreg (v + BitVec.ofNat 8 j)))

/-- R146, R147, R368, R369: TWAIT goes on when the context's TL has reached its number and no recorded error lies at or
below it, raises ENGINE with EADDR when one does, and else waits; TREAD reads the five words of the context, and .clr
clears EV in the same step. -/
def Obligations.EngineContexts : Prop :=
  ∀ s : State, s.issuing → ∀ (ctx : BitVec 4) (f : TwForm) (clr : Bool) (d : SReg),
    let x := (s.core s.c).ctx ctx.toNat
    let n : Nat := match f with
      | .back c => x.issue - c.toNat
      | .reg a imm => ((match s.g.tokens.find? fun t => t.reg == a with
          | some t => t.n
          | none => (s.g.sreg a).toNat % 2 ^ 62) + (imm.signExtend 64).toNat) % 2 ^ 62
    let len := match f with | .back _ => 8 | .reg _ _ => 16
    let word (k : Nat) (v : Nat) (t : State) : Prop := t.g.sreg (d + BitVec.ofNat 6 k) = BitVec.ofNat 64 v
    (n ≤ x.tl → ¬ (x.ev = true ∧ x.enum ≤ n) → Ends (.twait ctx f) s fun t =>
      t.p = { s.p with wait := .none }.past len ∧ FrameBut s t {}) ∧
    (n ≤ x.tl → x.ev = true → x.enum ≤ n → ∃ u : State, { u.g with seen := s.g.seen } = s.g.setPath s.cur.b { s.p with wait := .none } ∧ u.cur = s.cur ∧
      exec (.twait ctx f) s = .next (u.trap 0x50 (BitVec.ofNat 64 x.eaddr) s.p.mask)) ∧
    (x.tl < n → Ends (.twait ctx f) s fun t =>
      t.p = { s.p with wait := .twait s.c ctx.toNat n len, parkedAt := s.time } ∧ s.Frame t {}) ∧
    Ends (.tread clr d ctx) s fun t =>
      word 0 x.issue t ∧ word 1 x.tl t ∧ word 2 (x.ecode % 256 + if x.ev then 2 ^ 63 else 0) t ∧ word 3 x.enum t ∧
      word 4 (x.eaddr % 2 ^ 57) t ∧ t.p = s.p.past 8 ∧ s.g.Kept t.g s.cur.b { s := [d, d + 1, d + 2, d + 3, d + 4] } ∧
      (t.core s.c).ctx ctx.toNat = (if clr then { x with ev := false } else x) ∧
      (∀ k, k ≠ ctx.toNat → (t.core s.c).ctx k = (s.core s.c).ctx k) ∧ s.sameOthers t ∧ s.sameBytes t ∧
      (clr = false → s.sameOutside t)

/-- R152, R153, R160, R162, R163, R165, R370 to R373: what the exchange instructions do with the context of the descriptor's
identifier on their die. DPOST starts its next round, and raises ENGINE while one is open or when no context is free;
XSEND joins the open round once; XWAIT gives the status of a round that has ended, waits for one that has not, and gives 0
for none; .unbind frees the context; XSTAT reads an item of the record. -/
def Obligations.ExchangeInstructions : Prop :=
  ∀ s : State, s.issuing → ∀ (tok : SReg) (ctx : BitVec 4) (a b c : CReg) (d e : SReg) (v : State) (xid : W64) (unb : Bool),
    let die := dieOf v.c
    let caps := [v.g.creg a, v.g.creg b, v.g.creg c]
    let post : Instr := .dpost tok ctx a b c
    let snd : Instr := .xsend tok ctx a b c
    let stop := v.trapAll 0x50 (BitVec.ofNat 64 (v.g.creg a).cursor)
    let opens (old : Nat) (t : State) (n : Nat) : Prop :=
      ∃ x, t.xctx die xid = some x ∧ x.round = (old + 1) % 2 ^ 32 ∧ x.isOpen = true ∧ x.endpoint = true ∧ x.recv = v.g.creg c ∧
        x.asid = v.g.asid ∧ ∃ p ∈ (t.die die).xposts, p.xid = xid ∧ p.round = x.round ∧ p.cmd = (v.c, ctx.toNat, n) ∧ p.dacks = []
    (ReadsXid (spent s) a v xid → v.issuing → v.cur = s.cur → { v.g with seen := s.g.seen } = (spent s).g →
      (v.core v.c).liveCmds ctx.toNat < 64 → v.acquiring = false → ((v.core v.c).ctx ctx.toNat).issue + 1 ≠ 2 ^ 62 →
      (∀ x, v.xctx die xid = some x → x.isOpen = true → exec post s = .next stop) ∧
      (v.xctx die xid = none → 8 ≤ (v.die die).xctxs.length → exec post s = .next stop) ∧
      (v.xctx die xid = none → exec snd s = .next stop) ∧
      (∀ x, v.xctx die xid = some x → x.isOpen = false ∨ x.xsend.isSome = true ∨ x.acts.isSome = true → exec snd s = .next stop) ∧
      (∀ u, v.releaseAt v.cur.gid v.cur.b .dom false = (u, true) → u.releaseAt v.cur.gid v.cur.b .die false = (u, true) →
        (∀ old, v.xctx die xid = some old → old.isOpen = false → Ends post s fun t =>
          t.p = s.p.past 8 ∧ ∃ n, opens old.round t n ∧ Instr.commandStart v.c ctx.toNat n ∈ t.agenda ∧
            ∃ cmd ∈ (t.core v.c).cmds, cmd.n = n ∧ cmd.ins = post ∧ cmd.caps = caps) ∧
        (v.xctx die xid = none → (v.die die).xctxs.length < 8 → Ends post s fun t =>
          t.p = s.p.past 8 ∧ ∃ n, opens 0 t n ∧ Instr.commandStart v.c ctx.toNat n ∈ t.agenda ∧
            ∃ cmd ∈ (t.core v.c).cmds, cmd.n = n ∧ cmd.ins = post ∧ cmd.caps = caps) ∧
        (∀ x, v.xctx die xid = some x → x.isOpen = true → x.xsend = none → x.acts = none → Ends snd s fun t =>
          t.p = s.p.past 8 ∧ ∃ n, t.xctx die xid = some { x with xsend := some (v.c, ctx.toNat, n) } ∧
            Instr.commandStart v.c ctx.toNat n ∈ t.agenda ∧
            ∃ cmd ∈ (t.core v.c).cmds, cmd.n = n ∧ cmd.ins = snd ∧ cmd.caps = caps))) ∧
    (ReadsXid s a v xid → v.issuing →
      let i : Instr := .xwait unb d a
      ((v.xctx die xid = none ∨ ∃ x, v.xctx die xid = some x ∧ (x.endpoint = false ∨ x.active = false)) → Ends i s fun t =>
        t.g.sreg d = 0 ∧ v.Frame t { s := [d] } ∧ t.p = v.p.past 8) ∧
      (∀ x, v.xctx die xid = some x → x.endpoint = true → x.active = true →
        (x.ended = false → Ends i s fun t => t.p = { v.p with wait := .exchange xid d unb, parkedAt := v.time } ∧ v.Frame t {}) ∧
        (x.ended = true → Ends i s fun t =>
          t.g.sreg d = BitVec.ofNat 64 (x.round % 2 ^ 32 * 2 ^ 32 + (x.abort.getD 0) * 2 ^ 8 +
            (if x.abort.isSome then 64 else 0) + (if x.failover then 32 else 0) + (if x.flovf then 16 else 0) +
            (if x.partSt then 8 else 0) + (if x.short then 4 else 0) + (if x.left.any (0 < ·) then 2 else 0) + 1) ∧
          t.p = v.p.past 8 ∧ v.g.Kept { t.g with seen := v.g.seen } v.cur.b { s := [d] } ∧ v.sameBytes t ∧
          (unb = true → ∀ y, t.xctx die xid = some y → y.endpoint = false)))) ∧
    (ReadsXid s a v xid → v.issuing → Ends (.xstat d a e) s fun t =>
      let it := match v.xctx die xid with | some x => x.item (v.g.sreg e).toNat | none => 0
      t.g.sreg d = BitVec.ofNat 64 it ∧ t.g.sreg (d + 1) = BitVec.ofNat 64 (it / 2 ^ 64) ∧
        v.Frame t { s := [d, d + 1] } ∧ t.p = v.p.past 8)

/-! ### Special registers, traps and flushes (13 R337-R344, 16 R389-R394, 01 R38) -/

namespace Sys2Proof.Claim

/-- What a special register holds, zero-extended (13 Table 13.4). -/
def srOf (s : State) : Sr → Nat
  | .laneid => 0
  | .grpid => s.g.slot
  | .core => s.g.core % 32
  | .die => s.g.core / 32
  | .pkg => s.pkg
  | .cycle => (s.core s.g.core).cycle.toNat
  | .fut => 0
  | .cause => s.g.cause.toNat
  | .faddr => s.g.faddr.toNat
  | .epc => s.g.epc.toNat
  | .emask => s.g.emask.toNat
  | .fpcsr => s.g.fpcsr.toNat
  | .f4x => s.g.f4x.toNat

/-- What each writable special register of a group holds, in one list. -/
def srs (g : Group) : List Nat := [g.cause.toNat, g.faddr.toNat, g.epc.toNat, g.emask.toNat, g.fpcsr.toNat, g.f4x.toNat]

/-- A write of a special register: the registers `srs` are `l`, and the rest of the group and the machine is as before but
for the path, which moves past the instruction. -/
def WritesSr (s : State) (i : Instr) (l : List Nat) : Prop := Ends i s fun t =>
  srs t.g = l ∧ t.p = s.p.past 8 ∧ s.sameOutside t ∧ s.sameOthers t ∧
    { t.g with cause := s.g.cause, faddr := s.g.faddr, epc := s.g.epc, emask := s.g.emask, fpcsr := s.g.fpcsr
               f4x := s.g.f4x, pa := s.g.pa, pb := s.g.pb } = s.g

/-- The registers after a trap whose trap point the path's program counter is, and the path in its handler at `h`
(16 R391): `replays` tells the replay causes from the resume causes. -/
def EntersHandler (s t : State) (gid : Nat) (b : Bool) (h : VA) (code : Nat) (faddr : W64) (unf : Mask) (replays : Bool) : Prop :=
  let p := (s.grp gid).path b
  let g := t.grp gid
  let q := g.path b
  g.cause = BitVec.ofNat 8 code ∧ g.faddr = faddr ∧ g.epc = p.pc.zeroExtend 64 ∧ g.emask = (if replays then unf else 0) ∧
    (∃ f, q.frame = some f ∧ f.left = p.left ∧ f.seta = p.seta ∧ f.setb = p.setb ∧ f.loops = p.loops ∧ f.mask = p.mask ∧
      f.epc = p.pc.zeroExtend 64 ∧ f.replays = replays) ∧
    q.loops = [] ∧ q.left = 0 ∧ q.pc = h ∧ q.mask = p.mask ∧ q.live = p.live ∧ q.wait = .none ∧ q.stack = p.stack ∧
    g.path (!b) = (s.grp gid).path (!b) ∧ g.sregs = (s.grp gid).sregs ∧ g.vregs = (s.grp gid).vregs ∧
    g.cregs = (s.grp gid).cregs ∧ g.kregs = (s.grp gid).kregs ∧ g.fpcsr = (s.grp gid).fpcsr ∧
    (∀ k, k ≠ gid → Store.find t.groups k = Store.find s.groups k) ∧ s.sameOutside t

/-- A group takes traps in its kernel's handler, at `h`: it is not debugged, and neither path is in a handler. -/
def hasHandler (s : State) (gid : Nat) (h : VA) : Prop :=
  (Store.find s.groups gid).isSome = true ∧ (s.grp gid).debug = false ∧ (s.grp gid).pa.frame = none ∧ (s.grp gid).pb.frame = none ∧
    ∃ l e, s.launchOf (s.grp gid) = some l ∧ l.entries[l.hent]? = some e ∧ h = BitVec.ofNat 57 (l.code.cursor + e.off)

end Sys2Proof.Claim

/-- R337, R339, R206, Table 13.4: RDSR reads each special register, zero-extended, the lane numbers lane by lane and sr.fut
with its tag; WRSR writes as many low bits as the register is wide, keeps the reserved bits of sr.fpcsr 0 and its RM on a
reserved code, and raises PRIV for a read-only register. -/
def Obligations.SpecialRegisters : Prop :=
  ∀ s : State, s.issuing → ∀ (r : Sr) (a d : SReg) (v : VReg) (c : CReg),
    let x := s.g.sreg a
    let old := srs s.g
    (r ≠ .laneid → r ≠ .fut → SetsS s (.rdsr (.s d) r) 8 d (BitVec.ofNat 64 (srOf s r))) ∧
    Ends (.rdsr (.v v) r) s (fun t => (∀ l, l < 32 →
      (t.g.vreg v).at l = if s.act.getLsbD l then BitVec.ofNat 32 (if r = .laneid then l else srOf s r) else (s.g.vreg v).at l) ∧
      s.Frame t { v := [v] } ∧ t.p = s.p.past 8) ∧
    SetsC s (.rdsr (.c c) .fut) 8 c s.g.fut ∧
    WritesSr s (.wrsr .cause a) (old.set 0 (x.toNat % 256)) ∧
    WritesSr s (.wrsr .faddr a) (old.set 1 x.toNat) ∧
    WritesSr s (.wrsr .epc a) (old.set 2 x.toNat) ∧
    WritesSr s (.wrsr .emask a) (old.set 3 (x.toNat % 2 ^ 32)) ∧
    (∃ w : W64, WritesSr s (.wrsr .fpcsr a) (old.set 4 w.toNat) ∧ ∀ b, b < 64 →
      w.getLsbD b = if b < 6 ∨ (8 ≤ b ∧ b < 13) then x.getLsbD b
        else if 16 ≤ b ∧ b < 19 then (if x.toNat / 2 ^ 16 % 8 < 5 then x.getLsbD b else s.g.fpcsr.getLsbD b) else false) ∧
    WritesSr s (.wrsr .f4x a) (old.set 5 (x.toNat % 2 ^ 16)) ∧
    (r = .laneid ∨ r = .grpid ∨ r = .core ∨ r = .die ∨ r = .pkg ∨ r = .cycle ∨ r = .fut →
      Traps s (.wrsr r a) 0x08 (s.p.pc.zeroExtend 64))

/-- R391, R392, R340, R344: a trap of a group with a handler writes sr.cause, sr.faddr, sr.epc and sr.emask, saves its
trap frame, and continues at the handler; TRAP does so behind itself, BRK and UDF at themselves. While the other path is in
its handler, a replay cause is dropped and a resume cause is held. R394, R180: a trap in handler mode, or of a kernel
without a handler, stops both paths, ends the task with its cause and fault address, marks its launch aborted, and writes an
event to its partition. -/
def Obligations.TrapEntry : Prop :=
  (∀ (s : State) (gid : Nat) (b : Bool) (code : Nat) (faddr : W64) (unf : Mask) (imm : Byte),
    let resumes := code = 0x30 ∨ code = 0x40 ∨ code = 0x58
    (∀ h, hasHandler s gid h →
      (resumes → EntersHandler s (s.trapOn gid b code faddr unf) gid b h code faddr unf false) ∧
      (¬ resumes → EntersHandler s (s.trapOn gid b code faddr unf) gid b h code faddr unf true)) ∧
    ((s.grp gid).debug = false → ((s.grp gid).path b).frame = none → ((s.grp gid).path (!b)).frame.isSome = true →
      (¬ resumes → s.trapOn gid b code faddr unf = s) ∧
      (resumes → s.trapOn gid b code faddr unf = s.modPath gid b fun p => { p with held := some ⟨code, faddr⟩ })) ∧
    (∀ h, hasHandler s s.cur.gid h →
      Ends (.trap imm) s (fun t => EntersHandler (s.modP fun p => p.past 8) t s.cur.gid s.cur.b h 0x40 (imm.zeroExtend 64) 0 false) ∧
      Ends (.brk imm) s (fun t => EntersHandler s t s.cur.gid s.cur.b h 0x48 (imm.zeroExtend 64) s.act true) ∧
      Ends .udf s fun t => EntersHandler s t s.cur.gid s.cur.b h 0x04 (s.p.pc.zeroExtend 64) s.act true)) ∧
  (∀ (s : State) (gid : Nat) (b : Bool) (code : Nat) (faddr : W64) (unf : Mask) (g : Group) (l : Launch),
    Store.find s.groups gid = some g → Store.find s.launches g.launch = some l → g.debug = false → g.ending = none →
    (g.path b).frame.isSome = true ∨ (g.pa.frame = none ∧ g.pb.frame = none ∧ l.entries[l.hent]? = none) →
    (∃ o ∈ s.ops, o.2.gid = gid ∧ o.2.parked = false) → (∀ x ∈ s.groups, x.2.ending = none) →
    let t := s.trapOn gid b code faddr unf
    (t.grp gid).pa.live = false ∧ (t.grp gid).pb.live = false ∧ (t.grp gid).ending = some (.fault code faddr.toNat) ∧
      (Store.find t.launches g.launch).map (·.aborted) = some true ∧
      (t.part (s.partOf g.asid)).eseq = (s.part (s.partOf g.asid)).eseq + 1)

/-- R393: a RET or JMPI to the address that sr.epc holds, in handler mode, restores the frame's loop stack and active mask;
with sr.epc as the trap left it, the clause state too, and a replay cause's lanes are issued again; with sr.epc changed it
is a taken transfer to a clause start, and no operation of the path waits for a replay any more. -/
def Obligations.HandlerReturn : Prop :=
  ∀ s : State, s.issuing → ∀ (a : SReg) (f : Frame), s.p.frame = some f → s.g.sreg a = s.g.epc → s.g.epc.toNat < 2 ^ 57 →
    s.q.held = none →
    let back (t : State) : Prop := t.p.pc = s.g.epc.truncate 57 ∧ t.p.frame = none ∧ t.p.loops = f.loops ∧ t.p.mask = f.mask ∧
      t.p.stack = s.p.stack
    let kept (t : State) : Prop := back t ∧ s.Frame t {} ∧ t.p.left = f.left ∧ t.p.seta = f.seta ∧ t.p.setb = f.setb ∧
      t.p.replay = if f.replays then some (s.g.emask &&& f.mask) else none
    let moved (t : State) : Prop := back t ∧ s.Frame { t with ops := s.ops } {} ∧ t.p.left = 0 ∧ t.p.replay = none ∧
      ∀ o ∈ t.ops, o.2.gid = s.cur.gid → o.2.b = s.cur.b → o.2.parked = false
    (s.g.epc = f.epc → Ends (.ret a) s kept ∧ Ends (.jmpi a) s kept) ∧
    (s.g.epc ≠ f.epc → Ends (.ret a) s moved ∧ Ends (.jmpi a) s moved)

/-- R341 to R343, R38: PHINT records its hint and has no other effect, and raises SCR_BOUNDS for more scratch than the
window; INVV purges the translations and the page-walk caches of its pages in scope and waits; CFLUSH drops the cached code of its range in scope.
Both check tag and bounds, and do nothing for a length of 0. -/
def Obligations.HintsAndFlushes : Prop :=
  ∀ s : State, s.issuing → ∀ (d a b c : VReg) (smask : W32) (scrx : BitVec 16) (tobl pkg : Bool) (cr : CReg) (y : SReg) (f : FlushScope),
    let k := s.g.creg cr
    let n := (s.g.sreg y).toNat
    let within := k.bounds.base ≤ k.cursor ∧ ((k.cursor + n : Nat) : Int) ≤ k.bounds.top ∧ k.cursor + n ≤ 2 ^ 57
    let lo := k.cursor / 2 ^ 15 * 2 ^ 15
    let hi := (k.cursor + n + 2 ^ 15 - 1) / 2 ^ 15 * 2 ^ 15
    let die := dieOf s.c
    let purged (t : State) (x : Nat) : Prop :=
      (∀ e ∈ (t.die x).tcache, e.asid = s.g.asid → e.va < hi → e.va + 2 ^ (15 + 10 * e.lvl) ≤ lo) ∧
      ∀ e ∈ (t.die x).wcache, e.asid = s.g.asid → e.va < hi → e.va + 2 ^ (15 + 10 * e.lvl) ≤ lo
    let hit (e : Nat × Nat) : Prop := e.1 = s.g.asid ∧ e.2 < k.cursor + n ∧ k.cursor < e.2 + 32
    let dropped (t : State) (x : Nat) : Prop :=
      (∀ e ∈ (t.core x).icache, ¬ hit (e.1, e.2.1)) ∧ ∀ e ∈ (s.core x).icache, ¬ hit (e.1, e.2.1) → e ∈ (t.core x).icache
    (128 * scrx.toNat ≤ s.g.scrSize → Ends (.phint d a b c smask scrx tobl) s fun t =>
      t.p = { s.p.past 16 with hint := some ⟨d, a, b, c, smask, scrx, tobl⟩, atHint := true } ∧ s.Frame t {}) ∧
    (s.g.scrSize < 128 * scrx.toNat → Traps s (.phint d a b c smask scrx tobl) 0x14 (BitVec.ofNat 64 s.g.scrSize)) ∧
    (k.tag = false → Traps s (.invv pkg cr y) 0x10 (BitVec.ofNat 64 k.cursor) ∧ Traps s (.cflush f cr y) 0x10 (BitVec.ofNat 64 k.cursor)) ∧
    (k.tag = true → n = 0 → Passes s (.invv pkg cr y) 8 ∧ Passes s (.cflush f cr y) 8) ∧
    (k.tag = true → 0 < n → ¬ within →
      Traps s (.invv pkg cr y) 0x11 (BitVec.ofNat 64 k.cursor) ∧ Traps s (.cflush f cr y) 0x11 (BitVec.ofNat 64 k.cursor)) ∧
    (k.tag = true → 0 < n → within →
      Ends (.invv pkg cr y) s (fun t => t.p = { s.p.past 8 with wait := .shootdown s.fresh, parkedAt := s.time } ∧
        KeptBut s t {} ∧ ((∀ x, ∀ e ∈ (s.die x).dirs, e.lease = none) → s.sameBytes t) ∧ Instr.shootdownComplete s.fresh ∈ t.agenda ∧
        purged t die ∧ (pkg = true → ∀ x, x < 8 → purged t x) ∧ (pkg = false → ∀ x, x ≠ die → (t.die x).tcache = (s.die x).tcache ∧ (t.die x).wcache = (s.die x).wcache)) ∧
      Ends (.cflush f cr y) s fun t => t.p = s.p.past 8 ∧ s.g.Kept t.g s.cur.b {} ∧ s.sameBytes t ∧ dropped t s.c ∧
        (f = .die → ∀ x, dieOf x = die → dropped t x) ∧ (f = .pkg → ∀ x, x < 256 → dropped t x) ∧
        (f = .core → ∀ x, x ≠ s.c → t.core x = s.core x))

/-! ### Encodings, fetch, the step, and reset (09 R215-R231, 15 R387, Table 2.1) -/

namespace Sys2Proof.Claim

/-- The opcodes that 09 Table 9.7 assigns, UDF apart. -/
def assigned (op : Nat) : Prop :=
  op ≤ 0x09 ∨ (0x10 ≤ op ∧ op ≤ 0x26) ∨ (0x30 ≤ op ∧ op ≤ 0x36) ∨ (0x38 ≤ op ∧ op ≤ 0x3E) ∨ (0x40 ≤ op ∧ op ≤ 0x58) ∨
    (0x60 ≤ op ∧ op ≤ 0x76) ∨ (0x80 ≤ op ∧ op ≤ 0x88) ∨ (0x90 ≤ op ∧ op ≤ 0x9B) ∨ (0xA0 ≤ op ∧ op ≤ 0xAD) ∨
    (0xB0 ≤ op ∧ op ≤ 0xB6) ∨ (0xC0 ≤ op ∧ op ≤ 0xCB) ∨ (0xD0 ≤ op ∧ op ≤ 0xD3) ∨ (0xE0 ≤ op ∧ op ≤ 0xE9) ∨
    (0xF0 ≤ op ∧ op ≤ 0xF6)

/-- Bytes of code of a base word's instruction (09 Table 9.1). -/
def codeLen (w : Nat) : Nat := if w % 4 = 1 ∨ w % 4 = 2 then 16 else 8

/-- A 64-bit instruction's word. -/
def reads (w : Nat) (i : Instr) : Prop := decode (BitVec.ofNat 128 w) = .ok i 8

end Sys2Proof.Claim

/-- Words that the spec's own tables and worked examples give, one of every class, decode to their instructions. -/
def Obligations.DecodedWords : Prop :=
  reads 0x0000000000000000 .nop ∧
  reads 0x0008000181410040 (.sadd .i64 4 5 (.reg 6)) ∧
  reads 0x200C00000000C080 (.smov .n64 3 (.imm 0)) ∧
  reads 0x0008000140C19078 (.scmp .gt .i64 6 3 (.reg 5)) ∧
  reads 0x200000000200453C (.vcmp ⟨0, false⟩ .ne .i32 1 8 (.imm 0)) ∧
  reads 0x0120C000C0828180 (.vfadd ⟨3, false⟩ .f32 ⟨.rtz, false⟩ 10 2 (.reg 3)) ∧
  reads 0x0000400002024210 (.vscan ⟨1, false⟩ .add false .i32 9 8) ∧
  reads 0x4038400100800248 (.vld ⟨1, false⟩ .full .bf16 ⟨.plain, .grp, .ca⟩ 0 (.cv 2 4) (.short 0)) ∧
  reads 0x200C05048205F290 (.bop .sup .n64 ⟨.plain, .grp, .ca⟩ 23 (.cs 8 18) none 20) ∧
  reads 0x00000003C08406A4 (.adec true 16 2 15) ∧
  reads 0x03000000010542D8 (.baraw .pkg 21 4) ∧
  reads 0x0000008000C3431C (.regrp (.range 0 2) 13 3) ∧
  reads 0x0000400001040348 (.mma ⟨1, false⟩ 16 4 0) ∧
  reads 0x000004844406038C (.drain false false false 24 0 16 17 18) ∧
  reads 0x00000003C08403A4 (.xstat 16 2 15) ∧
  reads 0x00000000000003FC .udf ∧
  reads 0x0000000000FFC007 (.clauseHeader 1 15 15 3 false) ∧
  decode (BitVec.ofNat 128 (0x000400000001C149 + 0x1F00 * 2 ^ 64)) = .ok (.vli ⟨0, false⟩ .n32 7 0x1F00) 16

/-- R215, R217, R218: decoding the encoding of any well-formed instruction or clause header gives it back, with every
operand, and the bytes it occupies. -/
def Obligations.DecodeOfEncode : Prop :=
  ∀ (i : Instr) (w : BitVec 128), i.wf = true → encode i = some w → decode w = .ok i (codeLen w.toNat)

/-- R218, R228, R231: what decodes is well formed and is its own encoding, bit for bit, so that no field without a meaning
may be nonzero; an unassigned opcode is refused as one, but for UDF. -/
def Obligations.EncodeOfDecode : Prop :=
  ∀ (w : BitVec 128),
    (∀ i n, decode w = .ok i n → i.wf = true ∧ n = codeLen w.toNat ∧ ∃ v, encode i = some v ∧
      ∀ b, b < 8 * n → v.getLsbD b = w.getLsbD b) ∧
    (w.toNat % 4 < 3 → ¬ assigned (w.toNat / 4 % 256) → w.toNat % 2 ^ 64 ≠ 0x3FC → decode w = .bad true false false)

/-- R216, R222, R223, R226, R231, R387: a turn of a path issues the instruction that its next bytes decode to: the bytes come
through the CODE capability, the word is well formed, in the group's budgets and in a clause, and nothing that it needs is
pending. The instruction has its meaning, with results of earlier operations that it takes in place of the registers they will
write; if the path then stalls without holding its port, the port's next path has its turn. A turn of an event takes the event. -/
def Obligations.StepRunsDecoded : Prop :=
  ∀ (s : State) (r : List Turn),
    let z := ({ s with time := s.time + 1 } : State).beat
    (∀ (p : PathId) (gid : Nat) (b : Bool) (rest : List (Nat × Bool)) (l : Launch) (u : State) (lo : List Byte) (i : Instr)
        (n : Nat) (o : Host.Outcome State Fault Refusal), s.turns = .path p :: r → z.portPaths p.core p.slot = (gid, b) :: rest →
      let x := { ({ z with turns := r } : State).tick (s.grp gid).core with cur := ⟨gid, b⟩ }
      let pc := x.p.pc.toNat
      let word := natOf lo
      let ext := if codeLen word = 16 then u.extensionAt x.g.core x.g.asid pc else 0
      x.p.held = none → x.launchOf x.g = some l → x.fetchAt x.g.core x.g.asid l.code pc 8 = (u, .ok lo) →
      decode (BitVec.ofNat 128 (word + ext * 2 ^ 64)) = .ok i n → inBudget x.g.v x.g.s i = true →
      pc % 8 = 0 → (codeLen word = 16 → pc % 32 ≠ 24) → (word % 4 = 3 → x.p.left = 0) →
      (word % 4 ≠ 3 → 0 < x.p.left ∨ i = .udf) → tokenStall x.g i = false → u.countStall i = false → u.p.replay ≠ some 0 →
      (u.feeders i = [] ∧ o = exec i u) ∨ (u.feeders i ≠ [] ∧ ∃ t, exec i (u.forward i) = .next t ∧ o = .next (t.unforward u i)) →
      ((∀ t, o = .next t → stalled s t gid b = false ∨ t.portHeld gid b = true) → step s = o) ∧
      (∀ t, o = .next t → stalled s t gid b = true → t.portHeld gid b = false → step s = runPaths rest t)) ∧
    (∀ (n : Nat) (i : Instr), s.turns = .event n :: r → s.agenda[eventAt s.agenda n]? = some i →
      step s = exec i { z with turns := r, agenda := s.agenda.eraseIdx (eventAt s.agenda n), taken := some i })

/-- R48, R60, R67, R129, R396, R399, R403, R430, Table 2.1: what reset leaves: every core's banks in their default roles,
every engine context at 0, every die's registers at their reset values, no pager ring, no event ring. That memory then reads as
zeros everywhere (assumption 1), in its canonical form, and that sr.cycle starts at 0 are the model's choices. -/
def Obligations.ResetState : Prop :=
  let s := State.reset
  (∀ c k, k < 32 → bitsAt (s.core c).brr.toNat (2 * k) 2 = if k < 16 then 0 else if k < 24 then 1 else 2) ∧
  (∀ c n, ((s.core c).ctx n) = ⟨0, 0, false, 0, 0, 0, []⟩) ∧ (∀ c, s.hunger c = 0) ∧
  (∀ d, (s.die d).l2ctl = 8 ∧ (∀ n, Store.get 0 (s.die d).res n = 0) ∧ (∀ n, Store.get 0 (s.die d).fv n = 0) ∧ (s.die d).lth = 0 ∧
    (s.die d).prectl = 10000 ∧ (s.die d).wdctl = 2 ^ 32 + 200000 ∧ (s.die d).pgbase = 0 ∧ (s.die d).pgack = 0 ∧ (s.die d).pglost = 0) ∧
  (∀ p, (s.part p).evbase = 0 ∧ (s.part p).evack = 0 ∧ (s.part p).evlost = 0) ∧
  s.groups = [] ∧ s.ops = [] ∧ s.launches = [] ∧ (∀ a, s.readByte a = 0) ∧ (∀ c, (s.core c).cycle = 0) ∧ s.memOk

/-- The model's memory keeps its canonical form: no instruction, no event and no step leaves it otherwise. -/
def Obligations.StepKeepsMemory : Prop := ∀ s t : State, s.memOk → step s = .next t → t.memOk

/-! ### Translation, shootdowns and zeroing (01 R23-R46) -/

namespace Sys2Proof.Claim

/-- The level and the address of the table entry that a walk reads after `k` table entries (01 R27). -/
def entryAt (va tbl lvl : Nat) : Nat := tbl + va / 2 ^ (15 + 10 * lvl) % 1024 * 16

/-- The table that a walk has reached after `k` entries. -/
def tableAt (s : State) (va root : Nat) : Nat → Nat
  | 0 => root
  | k + 1 => s.readNat (entryAt va (tableAt s va root k) (3 - k)) 16 / 2 ^ 16 % 2 ^ 38 * 2 ^ 14

/-- An entry that points to the next table: V is 1, LEAF is 0, and its reserved bits are 0 (01 R26). -/
def pointsOn (n : Nat) : Prop := n % 4 = 1 ∧ n / 4 % 2 ^ 14 = 0 ∧ n / 2 ^ 54 % 2 ^ 74 = 0

/-- A walk of a valid context, through tables outside the reserved ranges (01 R22), reads the leaf `n` at level `lvl` (01 R27). -/
def WalksTo (s : State) (asid va lvl n : Nat) : Prop :=
  ∃ c, s.asctx asid = some c ∧ c.valid asid = true ∧ lvl ≤ 3 ∧
    let t := (if va / 2 ^ 55 % 4 = 0 then c.ttb0 else if va / 2 ^ 55 % 4 = 1 then c.ttb1 else if va / 2 ^ 55 % 4 = 2 then c.ttb2
      else c.ttb3).toNat
    let root := t / 2 ^ 14 % 2 ^ 38 * 2 ^ 14
    t % 2 = 1 ∧ (∀ k, k < 3 - lvl → pointsOn (s.readNat (entryAt va (tableAt s va root k) (3 - k)) 16)) ∧
    (∀ k, k ≤ 3 - lvl → mtOf (localOf (entryAt va (tableAt s va root k) (3 - k))) ≠ none) ∧
    s.readNat (entryAt va (tableAt s va root (3 - lvl)) lvl) 16 = n ∧ n % 4 = 3

/-- What check_leaf refuses as malformed (01 R23, R25, R27). -/
def badLeaf (pkg lvl : Nat) (p : Pte) : Prop :=
  p.resv = true ∨ 4 < p.mt ∨ p.cpc = 3 ∨ 7 < p.own ∨ ¬ (2 ^ (15 + 10 * lvl) ∣ p.pa) ∨ p.consistent pkg = false ∨
    (p.tags = true ∧ (p.mt = 2 ∨ p.mt = 4)) ∨ (p.mt = 4 ∧ p.ord ≠ 1) ∨ (p.mt = 1 ∧ lvl = 2)

/-- The accesses that a leaf's permissions refuse. -/
def refusesAcc (p : Pte) : Acc → Prop
  | .load => False
  | .fetch => p.x = false
  | .store => p.w = false
  | .cst => p.w = false
  | .atomic => p.w = false ∨ p.ap = false

end Sys2Proof.Claim

/-- R27, R28, R33, R36, R38, R44 to R46: a walk reads one entry a level, from T3 down, to a leaf at T2, T1 or T0, whose checks
come in the order of check_leaf; PAGE_WALK caches the leaf (with no table of the address cached and no lease standing); SHOOTDOWN_COMPLETE readies the path when nothing is left to do;
ZERO_ENGINE_DONE leaves the frame zero, untagged and no longer pending; a reassigned die holds nothing of its partition. -/
def Obligations.TranslationAndZeroing : Prop :=
  ∀ (s : State) (die asid va lvl n np : Nat) (acc : Acc),
    let p := Pte.ofNat n
    let part := s.partOf asid
    let unleased := ∀ x, ∀ e ∈ (s.die x).dirs, e.lease = none
    (WalksTo s asid va lvl n → lvl ≤ 2 → ∃ a, s.walk asid va = .ok (lvl, a, n)) ∧
    (WalksTo s asid va 3 n → s.walk asid va = .error ⟨0x20, 1⟩) ∧
    (lvl ≤ 2 → (badLeaf s.pkg lvl p → p.checkLeaf s.pkg part lvl acc = some ⟨0x20, 1⟩) ∧
      (¬ badLeaf s.pkg lvl p →
        (p.zp = true → p.checkLeaf s.pkg part lvl acc = some ⟨0x20, 2⟩) ∧
        (p.zp = false → p.own ≠ part → p.checkLeaf s.pkg part lvl acc = some ⟨0x21, 0⟩) ∧
        (p.zp = false → p.own = part → p.ord = 3 → p.checkLeaf s.pkg part lvl acc = some ⟨0x19, 0⟩) ∧
        (p.zp = false → p.own = part → p.ord ≠ 3 → refusesAcc p acc → p.checkLeaf s.pkg part lvl acc = some ⟨0x21, 0⟩) ∧
        (p.zp = false → p.own = part → p.ord ≠ 3 → ¬ refusesAcc p acc → p.checkLeaf s.pkg part lvl acc = none))) ∧
    ((s.die die).cached asid va = none → (s.die die).tableFor asid va = none → unleased → WalksTo s asid va lvl n → lvl ≤ 2 → ¬ badLeaf s.pkg lvl p → p.zp = false → p.af = true →
      p.own = part → p.ord ≠ 3 → (accWrites acc = true → p.df = true) → ¬ refusesAcc p acc → mtOf (localOf (p.pa + va % 2 ^ (15 + 10 * lvl))) ≠ none →
      (∃ t, s.translate die asid va acc = (t, .ok ⟨p.pa + va % 2 ^ (15 + 10 * lvl),
        ⟨p.mt, p.ord, p.tags, if p.cpc = 1 then .sl else if p.cpc = 2 then .st else .ca⟩⟩) ∧ s.sameBytes t) ∧
      Ends (.pageWalk die asid va acc) s fun t =>
        ((t.die die).cached asid va).map (fun e => (e.lvl, e.pte.toNat)) = some (lvl, n) ∧ s.sameBytes t) ∧
    (∀ k : Shoot, s.shoots = [k] → s.shootBusy k = false → s.aretInFlight k.dies = false →
      (∀ c ∈ s.cores, ∀ e ∈ c.2.allow, ¬ (e.asid = k.asid ∧ k.lo ≤ e.va ∧ e.va < k.hi)) →
      (∀ x, ∀ g ∈ (s.die x).guests, g.dirty = 0) →
      Ends (.shootdownComplete k.sid) s fun t => t.shoots = [] ∧ s.sameBytes t ∧
        (k.gid ≠ 0 → ((s.grp k.gid).path k.b).wait = .shootdown k.sid → (Store.find s.groups k.gid).isSome = true →
          ((t.grp k.gid).path k.b).wait = .none)) ∧
    (∀ a, s.readNat a 16 = n → n % 4 = 3 → p.zp = true → lvl ≤ 2 → unleased → s.recordsMet a 16 = [] →
      s.recordsIn p.pa (2 ^ (15 + 10 * lvl)) = [] →
      (a + 16 ≤ p.pa ∨ p.pa + 2 ^ (15 + 10 * lvl) ≤ a) → Ends (.zeroEngineDone a lvl) s fun t =>
        t.readNat a 16 = n - 2 ^ 13 ∧ (Pte.ofNat (t.readNat a 16)).zp = false ∧
        ∀ x, (p.pa ≤ x → x < p.pa + 2 ^ (15 + 10 * lvl) → t.readByte x = 0 ∧ t.tagAt x = false) ∧
          (x < p.pa ∨ p.pa + 2 ^ (15 + 10 * lvl) ≤ x → x < a ∨ a + 16 ≤ x → t.readByte x = s.readByte x)) ∧
    (die < 8 → s.recordsIn (s.pkg * 2 ^ 43 + 2 ^ 40 + die * 2 ^ 26) (2 ^ 26) = [] → Ends (.partitionReassign die np) s fun t =>
      (∀ q, die ∈ (t.part q).dies ↔ (q = np ∧ np < 8)) ∧ (∀ g ∈ t.groups, dieOf g.2.core ≠ die) ∧
      (∀ c, dieOf c = die → (t.core c).brr = 0xAAAA555500000000 ∧ (t.core c).loc = [] ∧ (t.core c).deque = [] ∧
        (t.core c).ctxs = [] ∧ t.hunger c = 0) ∧
      (t.die die).stealPtr = 0 ∧ (t.die die).xctxs = [] ∧
      ∀ x, (s.pkg * 2 ^ 43 + 2 ^ 40 + die * 2 ^ 26 ≤ x → x < s.pkg * 2 ^ 43 + 2 ^ 40 + (die + 1) * 2 ^ 26 →
          t.readByte x = 0 ∧ t.tagAt x = false) ∧
        (x < s.pkg * 2 ^ 43 + 2 ^ 40 + die * 2 ^ 26 ∨ s.pkg * 2 ^ 43 + 2 ^ 40 + (die + 1) * 2 ^ 26 ≤ x → t.readByte x = s.readByte x))

/-! ### Events of the memory hierarchy (02 R49-R82) -/

namespace Sys2Proof.Claim

/-- A part of an operation returns its bytes and is performed. -/
def Returned (s t : State) (r : Req) (bs : List Byte) (tag : Bool) : Prop :=
  ∀ o, Store.find s.ops r.op = some o → ∃ o', Store.find t.ops r.op = some o' ∧ o'.got = o.got ++ [⟨r.lane, r.part, bs, tag⟩] ∧
    o'.out = o.out - 1 ∧ (o.out = 1 → o.parked = false → o.after = [] → Instr.countedComplete r.op ∈ t.agenda)

/-- The signed value of `w` bits. -/
def sg (w v : Nat) : Int := (BitVec.ofNat w v).toInt

/-- The greater key, or the lower index of equal keys, wins (02 R72). -/
def beats (x old : Nat) : Prop :=
  let key (v : Nat) : Nat :=
    let f := v / 2 ^ 32 % 2 ^ 32
    if isNan (decodeBase fp32 f) then 0
    else if f = 2 ^ 31 then 2 ^ 31 + 1
    else (if f / 2 ^ 31 = 1 then 2 ^ 32 - 1 - f else f + 2 ^ 31) + 1
  key old < key x ∨ (key old = key x ∧ x % 2 ^ 32 < old % 2 ^ 32)

/-- The value that a read-modify-write of `w` bits leaves (02 Table 2.6, R72, R73). -/
def leaves (op : Rmw) (w old x : Nat) (sup : Bool) (new : Nat) : Prop :=
  new < 2 ^ w ∧ match op with
  | .add => new = (old + x) % 2 ^ w
  | .smin => (new = old ∨ new = x) ∧ sg w new ≤ sg w old ∧ sg w new ≤ sg w x
  | .smax => (new = old ∨ new = x) ∧ sg w old ≤ sg w new ∧ sg w x ≤ sg w new
  | .umin => (new = old ∨ new = x) ∧ new ≤ old ∧ new ≤ x
  | .umax => (new = old ∨ new = x) ∧ old ≤ new ∧ x ≤ new
  | .and => ∀ b, new.testBit b = (old.testBit b && x.testBit b)
  | .or => ∀ b, new.testBit b = (old.testBit b || x.testBit b)
  | .xor => ∀ b, new.testBit b = (old.testBit b != x.testBit b)
  | .swap => new = x
  | .fadd => new = (cvt fp32 .rne false (addF .rne (decodeBase fp32 old) (decodeBase fp32 x)).1).1
  | .pmax => (beats x old → new = x) ∧ (¬ beats x old → new = old)
  | .pmaxs => (sup = false → beats x old → new = x) ∧ (sup = true ∨ ¬ beats x old → new = old)
  | .sup => ∀ b, new.testBit b = (old.testBit b || b == x % 64)

/-- A read-modify-write or compare-and-swap has been performed at memory: the value read, and what memory holds. -/
def Combined (s t : State) (r : Req) (bs : List Byte) : Prop :=
  (∀ op w x, r.act = .rmw op w x → (op = .fadd → w = 32) → (op = .pmax ∨ op = .pmaxs ∨ op = .sup → w = 64) → w = 8 * r.len →
    bs = s.read r.pa r.len ∧ KeepsBytes s t (within r.pa r.len) ∧
      leaves op w (s.readNat r.pa r.len) (x.toNat % 2 ^ w) (s.suppressed r.pa x.toNat) (t.readNat r.pa r.len)) ∧
  (∀ w e x, r.act = .cas w e x → w = 8 * r.len → bs = s.read r.pa r.len ∧ KeepsBytes s t (within r.pa r.len) ∧
    t.readNat r.pa r.len = if s.readNat r.pa r.len = e.toNat % 2 ^ w then x.toNat % 2 ^ w else s.readNat r.pa r.len)

/-- Byte `i` of a line. -/
def byteOf (d : BitVec 1024) (i : Nat) : Byte := d.extractLsb' (8 * i) 8

/-- No directory entry has a sharer, and no invalidation is unanswered. -/
def noSharers (s : State) : Prop := ∀ d, (∀ e ∈ (s.die d).dirs, e.sharers = []) ∧ (s.die d).leaving = []

/-- No entry of a die is close to being 2^30 versions behind its set (02 R60). -/
def fresh (s : State) (die pa : Nat) : Prop :=
  ∀ e ∈ (s.die die).dirs, (Store.get 0 (s.die die).fv (dirSet (sliceOf pa) pa) + 1 - e.ver).toNat < 0x3FFFFFC0

/-- No lease of the lines of a die's directory stands. -/
def unleased (s : State) (die : Nat) : Prop := ∀ e ∈ (s.die die).dirs, e.lease = none

/-- No task is ending. -/
def noneEnding (s : State) : Prop := ∀ g ∈ s.groups, g.2.ending = none

end Sys2Proof.Claim

/-- R53, R54, R62, R64, R70 to R73, R76, R80, R82, R310: a load reads, and a store writes, at the slice that serves it, where no
lease and no dirty guest line stands in its way: at the home, with UPDs to every sharer, or in the die's guest line; the answer to
a store counts its operation down, unless the store went early from the L1; atomics, bank operations and accesses to another
package, for which a link stands, read and write in one step; the host and other packages read and write this package's memory. -/
def Obligations.MemoryEvents : Prop :=
  ∀ (s : State) (r : Req) (bs : List Byte) (o : OpRec), Store.find s.ops r.op = some o → 0 < r.len → r.len ≤ 16 →
    let die := dieOf r.core
    let home := homeDie r.pa
    let guest := servedByGuest die r.pa r.page r.page.pol
    let sid := 1024 * r.op + (if r.early then 512 else 0) + 16 * r.lane + r.part
    let free (w : Bool) : Prop := s.sliceReady die r.pa r.len false w = (s, true)
    let open_ (w : Bool) : Prop := s.outsideReady r.pa r.len w = (s, true)
    let plain : Prop := s.recordsMet r.pa r.len = []
    let answered (t : State) : Prop := Instr.stack ⟨r.core, sliceId home r.pa, sid⟩ ∈ t.agenda
    let acts (t : State) : Prop := (∃ got tag, Combined s t r got ∧ Returned s t r got tag) ∧
      (r.act = .load → Returned s t r (s.read r.pa r.len) false) ∧ (r.act = .store bs → bs.length = r.len → t.read r.pa r.len = bs)
    (r.act = .load → r.page.mt ≠ 2 → guest = false → free false → Ends (.sliceLoad r) s fun t =>
      Returned s t r (s.read r.pa r.len) false ∧ s.sameBytes t) ∧
    (r.act = .load → r.page.mt = 2 → Ends (.sliceLoad r) s fun t => Returned s t r (s.read r.pa r.len) false ∧ s.sameBytes t) ∧
    (r.act = .load → r.page.mt ≠ 2 → guest = true → s.guestHas die r.pa r.len = true → Ends (.sliceLoad r) s fun t =>
      Returned s t r ((List.range r.len).map fun i => s.guestByte die (r.pa + i)) false ∧ s.sameBytes t) ∧
    (∀ lc, r.act = .loadCap lc → r.page.mt ≠ 2 → guest = false → free false → Ends (.sliceLoad r) s fun t =>
      Returned s t r (s.read r.pa r.len) (lc && PageInfo.canTag r.page && s.tagAt r.pa)) ∧
    (r.act = .store bs → bs.length = r.len → guest = false ∨ r.page.mt = 2 → free true → plain → Ends (.sliceStore r) s fun t =>
      t.read r.pa r.len = bs ∧ KeepsBytes s t (within r.pa r.len) ∧ (∀ x, within r.pa r.len x → t.tagAt x = false) ∧
      (r.page.mt ≠ 2 → noSharers s → answered t) ∧
      (r.page.mt ≠ 2 → mtOf (localOf r.pa) = some 0 → r.pa % 128 + r.len ≤ 128 → fresh s home r.pa →
        ∀ e, (s.die home).dirAt r.pa = some e → ∀ q ∈ e.sharers, ∃ v own,
          Instr.upd q.core sid q.asid (q.vline e.base (lineOf r.pa)) r.pa bs (r.pa % 128) 0 v own ∈ t.agenda)) ∧
    (r.act = .store bs → bs.length = r.len → guest = true → r.page.mt ≠ 2 → s.sliceReady die r.pa r.len true true = (s, true) →
      Ends (.sliceStore r) s fun t => s.sameBytes t ∧ ∀ i, i < r.len → some (t.guestByte die (r.pa + i)) = bs[i]?) ∧
    (noneEnding s → r.lane < 32 → r.part < 8 → ∀ slice, Ends (.stack ⟨r.core, slice, sid⟩) s fun t => s.sameBytes t ∧
      (r.early = true → t.ops = s.ops) ∧
      (r.early = false → ∃ o', Store.find t.ops r.op = some o' ∧ o'.out = o.out - 1 ∧
        (o.out = 1 → o.parked = false → o.after = [] → Instr.countedComplete r.op ∈ t.agenda))) ∧
    (r.page.mt ≠ 0 ∨ free true → plain → Ends (.homeAtomic r) s fun t => ∃ got, Combined s t r got ∧
      (∃ o', Store.find t.ops r.op = some o' ∧ ∃ tag, o'.got = o.got ++ [⟨r.lane, r.part, got, tag⟩]) ∧
      (noSharers s → answered t)) ∧
    (plain → Ends (.bankAccess r) s acts ∧ Ends (.bankAluOp r) s acts) ∧
    (pkgOf r.pa ≠ s.pkg →
      ((s.linkFor die r.pa).isSome = true → plain → Ends (.remoteAccess r) s acts) ∧
      (s.linkFor die r.pa = none → exec (.remoteAccess r) s = .next (s.again (.remoteAccess r)))) ∧
    (pkgOf r.pa = s.pkg →
      (r.act = .load → open_ false → Ends (.remoteAccess r) s fun t =>
        t.replies = s.replies ++ [(r, s.read r.pa r.len, false)] ∧ s.sameBytes t) ∧
      (r.act = .store bs → bs.length = r.len → open_ true → plain → Ends (.remoteAccess r) s fun t =>
        t.replies = s.replies ++ [(r, [], false)] ∧ t.read r.pa r.len = bs ∧ KeepsBytes s t (within r.pa r.len))) ∧
    (∀ mt, mtOf (localOf r.pa) = some mt → mt ≠ 4 → bs.length = r.len →
      (mt = 2 ∨ open_ false → Ends (.hostAccess r.pa r.len none) s fun t =>
        t.hostData = s.hostData ++ [(r.pa, s.read r.pa r.len)] ∧ s.sameBytes t) ∧
      (mt = 2 ∨ open_ true → plain → Ends (.hostAccess r.pa r.len (some bs)) s fun t =>
        t.read r.pa r.len = bs ∧ KeepsBytes s t (within r.pa r.len)))

/-- R49, R54 to R62, R65, R66, R75 to R78: the messages of the directory, of the L1 lines, of leases and of guest lines, each on
the line or the entry that it names. -/
def Obligations.CoherenceEvents : Prop :=
  ∀ (s : State) (core asid va pa sid iid off lo hi slice : Nat) (bs : List Byte) (data : BitVec 1024) (dirty : BitVec 128)
      (tags : BitVec 8) (ver : W32) (own : Bool) (l : Line), va % 128 = 0 → va < 2 ^ 57 → pa % 128 = 0 →
    let line (t : State) := (t.core core).line asid va
    let die := dieOf core
    let home := homeDie pa
    let upd : Instr := .upd core sid asid va pa bs off tags ver own
    let inv : Instr := .inv core slice iid asid (lo, hi) ver
    let grant : Instr := .lgrant core asid va pa data tags ver
    let read (i : Nat) : Bool := if own then decide (l.own.getD i 0 ≤ 1) else l.own.getD i 0 == 0
    (line s = some l → l.pending = false → Ends upd s fun t =>
      Instr.uack sid core asid va pa true ∈ t.agenda ∧ ∃ x, line t = some x ∧
        (olderEq ver l.ver = true → x.data = l.data ∧ x.ver = l.ver) ∧
        (olderEq ver l.ver = false → x.ver = ver ∧ ∀ i, i < 128 → byteOf x.data i =
          if off ≤ i ∧ i < off + bs.length ∧ read i = true then bs.getD (i - off) 0 else byteOf l.data i)) ∧
    (line s = none → Ends upd s fun t => Instr.uack sid core asid va pa false ∈ t.agenda) ∧
    (line s = some l → l.pending = true → Ends upd s fun t => line t = some { l with held := l.held ++ [upd] } ∧ t.agenda = s.agenda) ∧
    (∀ d p, Store.findKey? s.dies (fun x => x.pends.any (·.sid == sid)) = some d → (s.die d).pends.find? (·.sid == sid) = some p →
      noneEnding s → Ends (.uack sid core asid va pa true) s fun t =>
        (p.acks ≤ 1 → (∀ q ∈ (t.die d).pends, q.sid ≠ sid) ∧ ∀ j ∈ p.next, j ∈ t.agenda) ∧
        (1 < p.acks → ∃ q ∈ (t.die d).pends, q.sid = sid ∧ q.acks = p.acks - 1)) ∧
    (∀ e : Leaving, (s.die die).leaving = [e] → e.iid = iid → core ∈ e.cores →
      (1 < e.acks → (s.die die).locks = [] → Ends (.iack iid core) s fun t =>
        (t.die die).leaving = [{ e with acks := e.acks - 1, cores := e.cores.erase core }] ∧ s.sameBytes t) ∧
      (e.acks ≤ 1 → e.sids = [] → ∀ k : Lock, (s.die die).locks = [k] → homeDie k.line = die → Ends (.iack iid core) s fun t =>
        (t.die die).leaving = [] ∧ (t.die die).locks = [] ∧ ∃ v,
          Instr.lgrant k.core k.asid k.va k.line (lineOfBytes (s.read k.line 128)) (s.lineTags k.line) v ∈ t.agenda)) ∧
    ((∀ x ∈ (s.core core).lines, x.pending = false ∧ x.va % 128 = 0) → Ends inv s fun t =>
      Instr.iack iid core ∈ t.agenda ∧
      (∀ x ∈ (t.core core).lines, x.asid = asid → lo ≤ x.va → x.va ≤ hi → olderEq ver x.ver = true) ∧
      (∀ x ∈ (s.core core).lines, x.asid ≠ asid → x ∈ (t.core core).lines)) ∧
    (home = die → s.locked pa 128 = false → s.sliceReady die pa 128 false false = (s, true) → Ends (.fillreq core asid va pa) s fun t =>
      (unleased s die → s.sameBytes t) ∧
      (∃ v, Instr.fillrsp core asid va pa (lineOfBytes (s.read pa 128)) (s.lineTags pa) v ∈ t.agenda) ∧
      ((s.die die).dirAt pa = none → ∃ e, (t.die die).dirAt pa = some e ∧ ∃ q ∈ e.sharers, q.core = core ∧ q.asid = asid ∧
        q.vline e.base pa = va)) ∧
    (line s = some l → l.pending = true → l.pa = pa → l.loads = [] → l.held = [] → l.stale = false →
      Ends (.fillrsp core asid va pa data tags ver) s fun t =>
        line t = some { l with data := data, tags := tags, ver := ver, pending := false }) ∧
    (∀ w : LWait, (s.core core).lwaits = [w] → w.asid = asid → w.va = va → w.pa = pa → w.reqs = [] → w.stale = false →
      line s = some l → l.pa = pa → l.loads = [] → l.held = [] → l.stale = false → (∀ n ∈ l.own, n = 0) → Ends grant s fun t =>
        (t.core core).lwaits = [] ∧ ∃ x, line t = some x ∧ x.pa = pa ∧ x.data = data ∧ x.tags = tags ∧ x.ver = ver ∧ x.lease = true ∧
          x.pending = false ∧ x.dirty = 0) ∧
    ((s.core core).lwaits = [] → Ends grant s fun t => Instr.lret core pa data 0 tags ∈ t.agenda) ∧
    ((s.die home).dirAt pa = none → unleased s home → (s.die home).leaving = [] → (s.die home).locks = [] →
      s.recall pa 128 = (s, true) → s.versionRoom home pa = true → Ends (.lreq core asid va pa) s fun t =>
        (t.die home).leaseOf pa = some core ∧
          ∃ v, Instr.lgrant core asid va pa (lineOfBytes (s.read pa 128)) (s.lineTags pa) v ∈ t.agenda) ∧
    ((s.core core).lines.find? (fun x => x.pa == pa && x.lease) = some l → Ends (.lrecall core pa) s fun t =>
      Instr.lret core pa l.data l.dirty l.tags ∈ t.agenda ∧ ({ l with lease := false, dirty := 0 } : Line) ∈ (t.core core).lines) ∧
    (s.recordsMet pa 128 = [] → noneEnding s →
      Ends (.lret core pa data dirty tags) s (fun t =>
        (∀ i, i < 128 → t.readByte (pa + i) = if dirty.getLsbD i then byteOf data i else s.readByte (pa + i)) ∧
        KeepsBytes s t (within pa 128) ∧
        (∀ e, dirty = 0 → (s.die home).dirAt pa = some e → (∀ x ∈ (s.die home).dirs, x.covers (sliceOf pa) pa = true → x = e) →
          (t.die home).leaseOf pa = none)) ∧
      (s.recall pa 128 = (s, true) → s.versionRoom home pa = true → Ends (.guestFlush die pa data dirty tags) s fun t =>
        (∀ i, i < 128 → t.readByte (pa + i) = if dirty.getLsbD i then byteOf data i else s.readByte (pa + i)) ∧
        KeepsBytes s t (within pa 128) ∧ (noSharers s → Instr.guestFlushAck die pa dirty ∈ t.agenda))) ∧
    (∀ g, (s.die die).guest pa = some g → noneEnding s → Ends (.guestFlushAck die pa dirty) s fun t =>
      (g.leaving = false ∨ g.dirty &&& ~~~dirty ≠ 0 → (t.die die).guest pa = some { g with dirty := g.dirty &&& ~~~dirty }) ∧
      (g.leaving = true → g.dirty &&& ~~~dirty = 0 → (t.die die).guest pa = none)) ∧
    (line s = some l → l.pending = false → Ends (.l1Eviction core asid va) s fun t =>
      line t = none ∧ (l.lease = true → Instr.lret core l.pa l.data l.dirty l.tags ∈ t.agenda)) ∧
    (∀ e, line s = none → (s.core core).allowAt asid va = some e → Ends (.l1Eviction core asid va) s fun t =>
      e ∉ (t.core core).allow ∧ Instr.aret core e.pa e.amount ∈ t.agenda) ∧
    (∀ (x y : DirEntry) (k : Nat), x.base % 2 ^ (k + 1) = 0 → k < 16 → x.k = k →
      y = { x with base := x.base + 2 ^ k, sharers := x.sharers.map fun q => { q with vb := (q.vb + 2 ^ k) % 2 ^ 57 } } →
      x.lease = none → (s.die die).dirs = [x, y] → (s.die die).locks = [] → Ends (.directoryMerge die x.slice x.base k) s fun t =>
        (t.die die).dirs = [{ x with k := k + 1 }])

/-! ### Events of issue and of the allowance protocol (07 R185, 09 R224, 12 R323, 15 R387, 04 R112-R128) -/

namespace Sys2Proof.Claim

/-- Lane `l` of an operation has returned these bytes and this tag. -/
def gave (o : OpRec) (l : Nat) (bs : List Byte) (tag : Bool) : Prop := o.got.filter (fun g => g.lane == l) = [⟨l, 0, bs, tag⟩]

/-- Loaded bytes as a 64-bit number: sign-extended for the signed types (12 R306). -/
def fromBytes (signed : Bool) (bs : List Byte) : W64 :=
  if signed then BitVec.ofInt 64 (BitVec.ofNat (8 * bs.length) (natOf bs)).toInt else BitVec.ofNat 64 (natOf bs)

/-- The register that a write of an operation names. -/
def names : RegWrite → Nat × Nat
  | .s r _ => (0, r.toNat)
  | .v r _ _ => (1, r.toNat)
  | .k r _ => (2, r.toNat)
  | .c r _ => (3, r.toNat)

/-- What a group's register holds once a write has been made. -/
def written (old new : Group) : RegWrite → Prop
  | .s r x => new.sreg r = x
  | .v r m x => ∀ l, l < 32 → (new.vreg r).at l = if m.getLsbD l then x.at l else (old.vreg r).at l
  | .k r x => r ≠ 0 → new.kreg r = x
  | .c r x => new.creg r = x

/-- The fields of a counter record (04 Table 4.1): H, Q, RSEQ, FLAGS, FCNT, the reserved word, HOLD. -/
def ctrH (s : State) (pa : Nat) : Nat := s.readNat pa 8
def ctrQ (s : State) (pa : Nat) : Nat := s.readNat (pa + 8) 8
def ctrSeq (s : State) (pa : Nat) : Nat := s.readNat (pa + 16) 4
def ctrFlags (s : State) (pa : Nat) : Nat := s.readNat (pa + 20) 4
def ctrFcnt (s : State) (pa : Nat) : Nat := s.readNat (pa + 24) 4
def ctrHeld (s : State) (pa c : Nat) : Bool := (s.readNat (pa + 32) 32).testBit c

/-- A valid record (04 R112). -/
def ctrOk (s : State) (pa : Nat) : Prop :=
  ctrFlags s pa % 2 = 1 ∧ ctrFlags s pa < 8 ∧ s.readNat (pa + 28) 4 = 0 ∧ 1 ≤ ctrQ s pa ∧ ctrQ s pa ≤ 2 ^ 32 ∧ ctrH s pa < 2 ^ 63

/-- The home answers. -/
def granted (t : State) (core pa op status g value : Nat) : Prop :=
  ∃ q, Instr.agrant core pa op status (BitVec.ofNat 64 g) (BitVec.ofNat 64 value) q ∈ t.agenda

/-- The registers that an operation of `fin` writes hold what its lanes have returned, in a group that was `old`. -/
def finished (o : OpRec) (old new : Group) : Prop :=
  (∀ ty d bs tag, (o.fin = .scalar ty d ∨ ∃ va, o.fin = .poll ty d va) → gave o 0 bs tag →
    new.sreg d = fromBytes (ty == .i32 || ty == .i64) bs) ∧
  (∀ ty one d l bs tag, o.fin = .vector ty one d → l < 32 → (o.lanes.getLsbD l = true → gave o (if one then 0 else l) bs tag) →
    let x := (fromBytes (ty == .i32 || ty == .i64) bs).toNat
    (new.vreg d).at l = (if o.lanes.getLsbD l then BitVec.ofNat 32 x else (old.vreg d).at l) ∧
    (ty.pair = true → (new.vreg (d + 1)).at l = if o.lanes.getLsbD l then BitVec.ofNat 32 (x / 2 ^ 32) else (old.vreg (d + 1)).at l)) ∧
  (∀ d bs tag, o.fin = .cap d → gave o 0 bs tag → new.creg d = ⟨BitVec.ofNat 128 (natOf bs), tag⟩) ∧
  (∀ d pair bs tag, o.fin = .status d pair → gave o 0 bs tag →
    (pair = false → new.sreg d = BitVec.ofNat 64 (natOf (bs.take 8))) ∧
    (pair = true → d.toNat < 63 → new.sreg d = BitVec.ofNat 64 (natOf (bs.take 8)) ∧
      new.sreg (d + 1) = BitVec.ofNat 64 (natOf (bs.drop 8))))

end Sys2Proof.Claim

/-- R224 to R227, R291, R387, R323, R185, R400: COUNTED_COMPLETE gives an operation's registers their results and its flags
to sr.fpcsr, readies the path that waits for it, and takes it out of its counts; a raised flag whose trap is enabled is held
for the path. PATH_PROMOTION marks a path that may issue; POLL_DELAY_END and GONG ready a path, or mark its saved group. -/
def Obligations.CompletionEvents : Prop :=
  (∀ (s : State) (id : Nat) (o : OpRec) (b : Bool), Store.find s.ops id = some o → o.out = 0 → o.parked = false → o.after = [] → o.bad = none →
    (Store.find s.groups o.gid).isSome = true → noneEnding s →
    let old := s.grp o.gid
    let raised (x : W64) : Prop := ∀ i, i < 64 → x.getLsbD i = (old.fpcsr.getLsbD i || (decide (i < 6) && o.flags.getLsbD i))
    Ends (.countedComplete id) s fun t =>
      let new := t.grp o.gid
      Store.find t.ops id = none ∧ (∀ k, k ≠ id → Store.find t.ops k = (Store.find s.ops k).map fun x => { x with after := x.after.filter (· != id) }) ∧ s.sameBytes t ∧
      raised new.fpcsr ∧ (o.writes = [] → finished o old new) ∧
      (o.fin = .none → ∀ l w r, o.writes = l ++ w :: r → (∀ x ∈ l ++ r, names x ≠ names w) → written old new w) ∧
      ((∀ i, i < 5 → o.flags.getLsbD i = true → old.fpcsr.getLsbD (8 + i) = false) → ∀ c, (old.path c).wait ≠ .op id →
        new.path c = old.path c) ∧
      (o.quiet = false → (∃ i, i < 5 ∧ o.flags.getLsbD i = true ∧ old.fpcsr.getLsbD (8 + i) = true) →
        (old.path o.b).held = none → (old.path o.b).wait ≠ .op id →
        (new.path o.b).held = some ⟨0x30, BitVec.ofNat 64 (o.flags.toNat % 32)⟩) ∧
      ((old.path b).wait = .op id → b = true ∨ old.pb.wait ≠ .op id → (o.quiet = true ∨ o.flags = 0) →
        (o.fin = .none → o.hold = 0 → new.path b = { old.path b with wait := .none }) ∧
        (o.fin = .none → 0 < o.hold → new.path b = { (old.path b).past o.hold with wait := .none }) ∧
        (∀ ty d va bs tag, o.fin = .poll ty d va → o.hold = 0 → gave o 0 bs tag →
          let v := fromBytes (ty == .i32 || ty == .i64) bs
          let same := (old.path b).paddr = va ∧ (old.path b).pval = v
          (new.path b).paddr = va ∧ (new.path b).pval = v ∧
          (same → (new.path b).pdelay = min 4096 (max 16 (2 * (old.path b).pdelay)) ∧ (new.path b).wait = .delay ∧
            Instr.pollDelayEnd ⟨old.core, old.slot, b⟩ ∈ t.agenda) ∧
          (¬ same → (new.path b).pdelay = 0 ∧ (new.path b).wait = .none)))) ∧
  (∀ (s : State) (p : PathId) (gid : Nat), s.inSlot p.core p.slot = some gid → (Store.find s.groups gid).isSome = true →
    let g := s.grp gid
    let x := g.path p.b
    (x.live = true → x.wait = .none → g.resident = true → g.ending = none → g.preempt = false → g.debug = false → x.steps = none →
      (g.path (!p.b)).frame = none → (s.core g.core).halted = false → (s.core g.core).failed = false → x.promoted = none →
      Ends (.pathPromotion p) s fun t => (t.grp gid).path p.b = { x with promoted := some s.time } ∧
        (t.grp gid).path (!p.b) = g.path (!p.b) ∧ s.sameOutside t) ∧
    (x.wait = .delay → Ends (.pollDelayEnd p) s fun t => (t.grp gid).path p.b = { x with wait := .none } ∧
      (t.grp gid).path (!p.b) = g.path (!p.b) ∧ s.sameOutside t)) ∧
  (∀ (s : State) (w : Waiter) (gid : Nat), s.waiterGid w = some gid → (Store.find s.groups gid).isSome = true →
    let g := s.grp gid
    (g.path w.b).wait = .wake → Ends (.gong w) s fun t =>
      (t.grp gid).path w.b = { g.path w.b with wait := .none } ∧ (t.grp gid).path (!w.b) = g.path (!w.b) ∧ s.sameBytes t ∧
      (g.resident = true → s.sameOutside t) ∧
      (∀ d n, g.place = .saved d n → g.saved.ready = none → (t.grp gid).saved.ready = some s.time ∧
        (g.saved.halted = false → Instr.groupRestore (32 * d) d n ∈ t.agenda)))

/-- R112, R113, R117 to R122, R126, R128, Tables 4.2 to 4.4: what the home of an allowance counter and its holders do with
each message of a core that has not failed, where no lease and no dirty guest line stands in the way and no operation waits at
the home: an AREQ grants, fails or opens a round;
each AOP answers; a grant is installed at the core; a recall empties the core; a return is pooled, and clears
the holder's bit unless it answers a round that is over; a forfeit marks units as
lost. -/
def Obligations.AllowanceEvents : Prop :=
  ∀ (s : State) (core pa op : Nat), s.homeReady (dieOf core) pa 64 = (s, true) → (s.home pa).opened = [] →
      (s.core core).failed = false →
    let h := ctrH s pa
    let ok := ctrOk s pa
    let free := ∀ c, c < 256 → ctrHeld s pa c = false
    let idle := (s.home pa).round = false ∧ (s.home pa).closed = []
    let there (t : State) (e : AEntry) : Prop := e ∈ (t.core core).allow
    (idle → ∀ (k a : W64) (nw : Bool),
      let n := min (h + a.toNat) (2 ^ 63 - 1)
      let i : Instr := .areq core pa op k a nw
      let banks := (s.core core).cacheBanks
      (ctrFlags s pa % 2 = 0 → Ends i s fun t => granted t core pa op 4 0 0 ∧ s.sameBytes t) ∧
      (ctrFlags s pa % 2 = 1 → ¬ ok → Ends i s fun t => granted t core pa op 5 0 0 ∧ s.sameBytes t) ∧
      (ok → k.toNat ≤ n → Ends i s fun t => ∃ g, granted t core pa op 0 g 0 ∧ ctrH t pa = n - g ∧ k.toNat ≤ g ∧ g ≤ n ∧
        (banks = 0 ∨ (s.core core).halted = true → g = k.toNat) ∧
        (0 < banks → (s.core core).halted = false → isCmem pa = true ∨ (s.die (homeDie pa)).pinned.length < 1023 → g = min n (max k.toNat (ctrQ s pa))) ∧
        (∀ c, c < 256 → ctrHeld t pa c = (ctrHeld s pa c || (c == core && decide (k.toNat < g)))) ∧
        KeepsBytes s t (within pa 64)) ∧
      (ok → n < k.toNat → nw = true → Ends i s fun t => granted t core pa op 2 0 0 ∧ ctrH t pa = n) ∧
      (ok → n < k.toNat → nw = false → free → Ends i s fun t => granted t core pa op 1 0 0 ∧ ctrH t pa = n) ∧
      (ok → n < k.toNat → nw = false → ¬ free → Ends i s fun t => (t.home pa).round = true ∧ ctrH t pa = n ∧
        ∀ c, c < 256 → ctrHeld s pa c = true → Instr.rcall c pa (BitVec.ofNat 32 (ctrSeq s pa + 1)) ∈ t.agenda)) ∧
    (idle → ∀ (x q : W64),
      (ok → Ends (.aop core pa op (.ainc x)) s fun t =>
        granted t core pa op (if 2 ^ 63 ≤ h + x.toNat then 3 else 0) 0 0 ∧ ctrH t pa = min (h + x.toNat) (2 ^ 63 - 1) ∧
          KeepsBytes s t (within pa 64)) ∧
      (ok → ∀ o ∈ [AOp.areada, .areadx], o = .areada ∨ free → Ends (.aop core pa op o) s fun t =>
        granted t core pa op (if 4 ≤ ctrFlags s pa then 7 else 0) 0 h ∧ ctrH t pa = h) ∧
      (2 ^ 63 ≤ x.toNat ∨ q = 0 ∨ 2 ^ 32 < q.toNat → Ends (.aop core pa op (.acinit x q)) s fun t =>
        granted t core pa op 6 0 0 ∧ s.sameBytes t) ∧
      (x.toNat < 2 ^ 63 → q ≠ 0 → q.toNat ≤ 2 ^ 32 → free → Ends (.aop core pa op (.acinit x q)) s fun t =>
        granted t core pa op 0 0 0 ∧ ctrOk t pa ∧ ctrH t pa = x.toNat ∧ ctrQ t pa = q.toNat ∧ KeepsBytes s t (within pa 64))) ∧
    (∀ (status : Nat) (g value : W64) (q : W32) (o : OpRec), Store.find s.ops op = some o → o.out = 1 → o.parked = false → o.after = [] →
      (∀ e ∈ (s.core core).await, e.1 ≠ pa) → Ends (.agrant core pa op status g value q) s fun t =>
        (∃ o', Store.find t.ops op = some o' ∧ o'.out = 0 ∧
          o'.got = o.got ++ [⟨0, 0, bytesOf 8 status ++ bytesOf 8 value.toNat, false⟩]) ∧
        Instr.countedComplete op ∈ t.agenda ∧ (pa, op) ∉ (t.core core).areqs ∧
        (status = 0 → o.ctrK < g.toNat → (s.core core).halted = false → (∀ e ∈ (s.core core).allow, e.pa ≠ pa) →
          (s.core core).allow.length < 64 → 0 < (s.core core).cacheBanks → (s.core core).framesUsed o.ctrVa < 8 →
          there t ⟨(s.grp o.gid).asid, o.ctrVa, pa, BitVec.ofNat 64 (g.toNat - o.ctrK)⟩) ∧
        (status = 0 → o.ctrK < g.toNat → (s.core core).halted = true →
          Instr.aret core pa (BitVec.ofNat 64 (g.toNat - o.ctrK)) ∈ t.agenda)) ∧
    (∀ q e, Ends (.rcall core pa q) s (fun t => (∀ x ∈ (t.core core).allow, x.pa ≠ pa) ∧
        ((s.core core).allow.filter (fun x => x.pa == pa) = [e] → Instr.rret core pa q e.amount ∈ t.agenda) ∧
        ∀ x ∈ (s.core core).allow, x.pa ≠ pa → there t x) ∧
      Ends (.drop core pa) s fun t => (∀ x ∈ (t.core core).allow, x.pa ≠ pa) ∧ t.agenda = s.agenda ∧
        ∀ x ∈ (s.core core).allow, x.pa ≠ pa → there t x) ∧
    (∀ (a : W64) (q : W32),
      let pooled (t : State) := ctrH t pa = min (h + a.toNat) (2 ^ 63 - 1) ∧ KeepsBytes s t (within pa 64)
      (ok → idle → Ends (.aret core pa a) s fun t => pooled t ∧ ∀ c, c < 256 → ctrHeld t pa c = (ctrHeld s pa c && c != core)) ∧
      (¬ ok → Ends (.aret core pa a) s s.sameBytes) ∧
      (ok → (s.home pa).round = false ∨ q.toNat ≠ ctrSeq s pa → Ends (.rret core pa q a) s fun t => pooled t ∧
        ∀ c, c < 256 → ctrHeld t pa c = ctrHeld s pa c) ∧
      (ok → (s.home pa).round = true → q.toNat = ctrSeq s pa → (∃ c, c < 256 ∧ c ≠ core ∧ ctrHeld s pa c = true) →
        Ends (.rret core pa q a) s fun t => pooled t ∧ (t.home pa).round = true ∧
          ∀ c, c < 256 → ctrHeld t pa c = (ctrHeld s pa c && c != core))) ∧
    (ok → idle → core < 256 → ctrHeld s pa core = true → (s.dies.flatMap fun d => d.2.pinned) = [pa] → Ends (.forfeit core) s fun t =>
      ctrH t pa = h ∧ 4 ≤ ctrFlags t pa ∧ ctrFcnt t pa = min (ctrFcnt s pa + 1) 0xFFFFFFFF ∧
        ∀ c, c < 256 → ctrHeld t pa c = (ctrHeld s pa c && c != core))

/-! ### Events of the engines, the deque and stealing (05 R131-R148, 07 R174, R186-R190, 14 R364-R371) -/

namespace Sys2Proof.Claim

/-- A command has ended with a status and an address, and its completion is on its way (05 R131). -/
def Started (t : State) (core ctx n status eaddr : Nat) : Prop :=
  (∃ y ∈ (t.core core).cmds, y.ctx = ctx ∧ y.n = n ∧ y.started = true ∧ y.status = status ∧ y.eaddr = eaddr) ∧
    Instr.commandComplete core ctx n ∈ t.agenda

/-- The first command of this context and number that has bytes to move is `c`, it has not started, and its core has not come to
rest in a halt (16 R402). -/
def Waits (s : State) (core ctx n : Nat) (c : Cmd) : Prop :=
  s.coreStopped core = false ∧ c.started = false ∧
    (s.core core).cmds.find? (fun x => x.ctx == ctx && x.n == n && (!x.started || !x.todo.isEmpty)) = some c

/-- A task of launch `lid` is over (15 R383). -/
def TaskGone (t : State) (lid : Nat) (l : Launch) : Prop :=
  (Store.find t.launches lid).map (·.tasks) = some (l.tasks - 1) ∧
    (l.tasks ≤ 1 → l.unplaced = [] → l.done = false →
      Instr.packetComplete l.part l.queue l.num (if l.aborted then .aborted else .ok) 0 ∈ t.agenda)

/-- The urgency of a deque entry (07 Table 7.2). -/
def cls (e : Entry) : Nat := e.closure.toNat / 2 ^ 19 % 4

/-- The tiles of an entry (07 Table 7.2). -/
def tiles (e : Entry) : Nat := e.closure.toNat / 2 ^ 21 % 8

/-- A number rounded up to a multiple. -/
def upTo (n unit : Nat) : Nat := (n + unit - 1) / unit * unit

/-- An entry may be stolen by a core of the same die (07 R188). -/
def stealable (s : State) (brr : W64) (idle : Bool) (e : Entry) : Prop :=
  e.st ≠ .running ∧ e.closure.getLsbD 16 = true ∧
    (idle = true ∨ (Store.find s.launches e.launch).map (·.brr) = some brr)

end Sys2Proof.Claim

/-- R131, R132, R134, R135, R145 to R147, R317, R365: a command that starts has its capabilities checked over its whole
extent, moves its data, and sets out to complete: a copy of one transfer unit within pages of common memory writes the source's
bytes and no others; a bulk update of one unit combines each element; a failed check moves nothing and leaves its status and address; a core at
rest in a halt starts none but those of the exchange. COMMAND_COMPLETE
advances TL over all that is done, records the lowest-numbered error, writes the token, and readies the TWAITs that TL has
reached. -/
def Obligations.EngineEvents : Prop :=
  (∀ (s : State) (core ctx n : Nat) (c : Cmd), Waits s core ctx n c →
    let i : Instr := .commandStart core ctx n
    let die := dieOf core
    let dst := c.caps.getD 0 Cap.null
    let src := c.caps.getD 1 Cap.null
    let len := (c.args.getD 0 0).toNat
    let unused (v : State) : Prop := ∀ x ∈ (v.die die).pends, x.sid ≠ 1024 * s.fresh + 1023
    (∀ (tok : SReg) (x : BitVec 4) (a b : CReg) (r : SReg), c.ins = .cpy false tok x a b r →
      (len = 0 → Ends i s fun t => Started t core ctx n 0 0 ∧ s.sameBytes t) ∧
      (0 < len → src.tag = false → CapPasses dst [1] dst.cursor len → Ends i s fun t =>
        Started t core ctx n 1 src.cursor ∧ s.sameBytes t) ∧
      (0 < len → dst.tag = false → CapPasses src [0] src.cursor len → Ends i s fun t =>
        Started t core ctx n 1 dst.cursor ∧ s.sameBytes t) ∧
      (0 < len → CapPasses src [0] src.cursor len → CapPasses dst [1] dst.cursor len →
        src.cursor % 2 ^ 15 + len ≤ 2 ^ 15 → dst.cursor % 2 ^ 15 + len ≤ 2 ^ 15 →
        src.cursor + len ≤ dst.cursor ∨ dst.cursor + len ≤ src.cursor →
        ∀ (u v : State) (p q : Trans), s.translate die c.asid src.cursor .load = (u, .ok p) →
          u.translate die c.asid dst.cursor .store = (v, .ok q) → p.page.mt = 1 → q.page.mt = 1 → mtOf (localOf p.pa) = some 1 →
          u.poisoned p.pa len = false → v.recordsMet q.pa len = [] →
          (∀ k, k < len → mtOf (localOf (q.pa + k)) = some 1 ∧ homeDie (q.pa + k) = homeDie q.pa) → len ≤ 128 → unused v → Ends i s fun t =>
            Started t core ctx n 0 0 ∧ (∀ k, k < len → t.readByte (q.pa + k) = v.readByte (p.pa + k)) ∧
              KeepsBytes v t (within q.pa len))) ∧
    (∀ (op : Rmw) (ty : ETy) (tok : SReg) (x : BitVec 4) (a : CReg) (b d : SReg), c.ins = .bupd op ty tok x a b d →
      let w := if ty.pair then 8 else 4
      let y := (c.args.getD 1 0).toNat % 2 ^ (8 * w)
      (op = .fadd → ty.pair = false) → op ≠ .pmax → op ≠ .pmaxs → op ≠ .sup → 0 < len → CapPasses dst [0, 1, 2] dst.cursor len →
      dst.cursor % w = 0 → len % w = 0 → dst.cursor % 2 ^ 15 + len ≤ 2 ^ 15 →
      ∀ (v : State) (q : Trans), s.translate die c.asid dst.cursor .atomic = (v, .ok q) → q.page.mt = 1 →
        (∀ k, k < len → mtOf (localOf (q.pa + k)) = some 1 ∧ homeDie (q.pa + k) = homeDie q.pa) →
        v.recordsMet q.pa len = [] → len ≤ 128 → unused v → s.leafMt die c.asid dst.cursor = some 1 → Ends i s fun t =>
          Started t core ctx n 0 0 ∧ KeepsBytes v t (within q.pa len) ∧
            ∀ k, k < len / w → leaves op (8 * w) (v.readNat (q.pa + k * w) w) y false (t.readNat (q.pa + k * w) w))) ∧
  (∀ (s : State) (core ctx n : Nat), s.coreStopped core = true → (∀ c ∈ (s.core core).cmds, c.isX = false) →
    exec (.commandStart core ctx n) s = .next (s.again (.commandStart core ctx n))) ∧
  (∀ (s : State) (core ctx n : Nat) (c : Cmd),
    (s.core core).cmds.find? (fun x => x.ctx == ctx && x.n == n && x.started) = some c → noneEnding s →
    s.coreStopped core = false ∨ c.isX = false →
    let x := (s.core core).ctx ctx
    let fails := c.status ≠ 0 ∧ c.status ≠ 12
    let isDone (k : Nat) : Prop := k = n ∨ k ∈ x.doneSet
    (fails ∨ x.ev = true → ∀ g ∈ s.groups, ∀ b k m, (g.2.path b).wait ≠ .twait core ctx k m) → Ends (.commandComplete core ctx n) s fun t =>
      let y := (t.core core).ctx ctx
      x.tl ≤ y.tl ∧ (∀ k, x.tl < k → k ≤ y.tl → isDone k) ∧ ¬ isDone (y.tl + 1) ∧ y.issue = x.issue ∧
      (∀ k, k ∈ y.doneSet ↔ isDone k ∧ y.tl < k) ∧
      (fails → x.ev = false ∨ n < x.enum → y.ev = true ∧ y.ecode = c.status ∧ y.enum = n ∧ y.eaddr = c.eaddr) ∧
      (¬ fails ∨ (x.ev = true ∧ x.enum ≤ n) → y.ev = x.ev ∧ y.ecode = x.ecode ∧ y.enum = x.enum ∧ y.eaddr = x.eaddr) ∧
      (∀ z ∈ (t.core core).cmds, ¬ (z.ctx = ctx ∧ z.n = n)) ∧
      (∀ k, k ≠ ctx → (t.core core).ctx k = (s.core core).ctx k) ∧
      (∀ r, c.token = some r → (Store.find s.groups c.gid).isSome = true → (⟨core, ctx, n, r⟩ : Token) ∈ (s.grp c.gid).tokens →
        (t.grp c.gid).sreg r = BitVec.ofNat 64 (n + (if c.status = 0 ∨ c.status = 12 then 0 else 2 ^ 63) +
            (if c.skip then 2 ^ 62 else 0)) ∧ (⟨core, ctx, n, r⟩ : Token) ∉ (t.grp c.gid).tokens) ∧
      (∀ gid b k bytes, y.ev = false → (Store.find s.groups gid).isSome = true → (s.grp gid).resident = true →
        ((s.grp gid).path b).wait = .twait core ctx k bytes → k ≤ y.tl →
        (t.grp gid).path b = { (s.grp gid).path b with wait := .none }.past bytes))

/-- R142 to R144, R174, R186 to R189, R143: the oldest entry that waits for staging reserves its window and its tiles set
out, once no STAGE waits; a tile that fails ends its task; buffers of an entry that has been stolen are freed with its last tile. DISPATCH starts the hot-most READY entry of
the most urgent class as a group in its initial state, and drops one whose future has been filled. Entries return from the
overflow area in order. A core that has been hungry for 64 cycles asks its neighbours in turn; the victim gives its cold-most eligible entry of the most
urgent class; the thief keeps it at its cold end, to be staged again. -/
def Obligations.DequeEvents : Prop :=
  (∀ (s : State) (core : Nat) (e : Entry) (l : Launch) (r : EntryRec), Store.find s.launches e.launch = some l →
    l.entries[e.closure.toNat % 2 ^ 16]? = some r →
    let c := s.core core
    let scr := upTo r.scr 128
    let tob := upTo r.tob 2048 / 2048
    let bare := (∀ g ∈ s.groups, ∀ n, g.2.place ≠ .res core n) ∧ c.bufs = []
    let calm := c.halted = false ∧ c.staging = false
    let fits := scr ≤ roleCap c.brr 1 ∧ tob ≤ roleCap c.brr 2 / 2048
    (e ∈ c.deque → e.st = .pending → e.staging = false → (∀ y ∈ c.deque, y.st = .pending → y.staging = false → y = e ∨ e.eid < y.eid) →
      bare → fits → calm → Ends (.autoStageStart core) s fun t =>
        (t.core core).bufs = [⟨e.eid, e, 0, scr, 0, tob⟩] ∧ { e with staging := true, tiles := [] } ∈ (t.core core).deque ∧
        (∀ y ∈ c.deque, y.eid ≠ e.eid → y ∈ (t.core core).deque) ∧ ∀ k, k < tiles e → Instr.tileLand core e.eid k ∈ t.agenda) ∧
    (∀ (b : Buf) (k : Nat), calm → c.bufs.find? (·.eid == e.eid) = some b → b.entry.closure = e.closure → b.entry.launch = e.launch →
      e.ctags.getLsbD 1 = false → k < tiles e →
      (2 ≤ e.closure.toNat / 2 ^ (8 * (32 + 16 * k) + 64) % 4 ∨
        (e.closure.toNat / 2 ^ (8 * (32 + 16 * k) + 64) % 4 < 2 ∧ l.tsrs = [])) →
      (c.deque.find? (fun y => y.eid == e.eid && y.staging) = some e → (s.coreRelease core true).2 = true →
        Ends (.tileLand core e.eid k) s fun t => (∀ y ∈ (t.core core).deque, y.eid ≠ e.eid) ∧
          (∀ y ∈ (t.core core).bufs, y.eid ≠ e.eid) ∧ TaskGone t e.launch l) ∧
      ((∀ y ∈ c.deque, y.eid ≠ e.eid) → (∀ j, Instr.tileLand core e.eid j ∉ s.agenda) →
        Ends (.tileLand core e.eid k) s fun t => (t.core core).deque = c.deque ∧ (∀ y ∈ (t.core core).bufs, y.eid ≠ e.eid) ∧
          s.sameBytes t)) ∧
    (∀ (x : EEnd) (b : Buf) (u : State) (m : List Move) (q : List EPage) (k : Nat), calm →
      c.deque.find? (fun y => y.eid == e.eid && y.staging) = some e →
      c.bufs.find? (·.eid == e.eid) = some b → b.entry.closure = e.closure → b.entry.launch = e.launch →
      s.stageTile core l e.launch r (e.closure.toNat / 2 ^ (8 * (32 + 16 * k)) % 2 ^ 128) = ⟨u, some x, m, q⟩ → x.st = 0 →
      (u.core core).deque = c.deque → Ends (.tileLand core e.eid k) s fun t =>
        ∃ y ∈ (t.core core).deque, y.eid = e.eid ∧ y.closure = e.closure ∧ k ∈ y.tiles ∧ (∀ j ∈ e.tiles, j ∈ y.tiles) ∧
          (y.st = .ready ↔ tiles e ≤ y.tiles.length)) ∧
    (∀ (pre post : List Entry), c.halted = false → c.failed = false → s.readied (dieOf core) = [] → c.deque = pre ++ e :: post →
      e.st = .ready → s.earlyFull core e = false → (∀ y ∈ pre, y.st = .ready → s.earlyFull core y = false → cls e < cls y) →
      (∀ y ∈ post, y.st = .ready → cls e ≤ cls y) →
      (∀ u pa, e.ctags.getLsbD 1 = true → s.futCell (dieOf core) l.asid ⟨e.closure.extractLsb' 128 128, true⟩ = (u, .ok pa) →
        (∀ d, u.core d = s.core d) → u.launches = s.launches → futSt u pa ≠ 0 →
        Ends (.dispatch core) s fun t => (∀ y ∈ (t.core core).deque, y.eid ≠ e.eid) ∧ TaskGone t e.launch l) ∧
      (e.ctags.getLsbD 1 = false → e.closure.getLsbD 18 = false → bare → fits → r.regs ≤ 8192 →
        Ends (.dispatch core) s fun t => ∃ g, Store.find t.groups s.fresh = some g ∧ g.place = .res core 0 ∧ g.launch = e.launch ∧ g.asid = l.asid ∧
          g.v = r.regs ∧ g.s = r.scal ∧ g.vbase = 0 ∧ g.scrBase = 0 ∧ g.scrSize = scr ∧ g.tobBase = 0 ∧ g.tobCnt = tob ∧
          g.pri = cls e ∧
          (∀ i : SReg, g.sreg i = if i.toNat < 16 then e.closure.extractLsb' (64 * i.toNat) 64 else 0) ∧
          (∀ i : CReg, g.creg i =
            if i.toNat < 8 ∧ e.ctags.getLsbD i.toNat = true then ⟨e.closure.extractLsb' (128 * i.toNat) 128, true⟩ else ⟨0, false⟩) ∧
          (∀ v n, (g.vreg v).at n = 0) ∧ (∀ k, g.kreg k = 0) ∧ g.fut = ⟨e.closure.extractLsb' 128 128, false⟩ ∧
          srs g = [0, 0, 0, 0, 0, 0x8000] ∧ g.pb = {} ∧
          g.pa = { live := true, pc := BitVec.ofNat 57 (l.code.cursor + r.off), mask := 0xFFFFFFFF } ∧
          (∀ y ∈ (t.core core).deque, y.eid = e.eid → y.st = .running) ∧ t.hunger core = 0))) ∧
  (∀ (s : State) (core thief victim : Nat) (brr : W64) (idle : Bool),
    let c := s.core core
    let v := s.core victim
    let h := s.core thief
    (Ends (.dequeRefill core) s fun t => (t.core core).deque = c.deque ++ c.overflow.take (1024 - c.deque.length) ∧
      (t.core core).overflow = c.overflow.drop (1024 - c.deque.length) ∧ s.sameBytes t) ∧
    (c.ptr < 32 → 64 ≤ s.hunger core → (∀ a b i k, Instr.stealRequest a core b i k ∉ s.agenda) → (∀ a e, Instr.stealAnswer core a e ∉ s.agenda) →
      Ends (.stealAttempt core) s fun t =>
        let first := core / 32 * 32 + (if c.ptr = core % 32 then (c.ptr + 1) % 32 else c.ptr)
        (∃ i, Instr.stealRequest first core c.brr i none ∈ t.agenda) ∧ (t.core core).ptr = (first + 1) % 32 ∧
        (t.core core).victims.length = 7) ∧
    (s.hunger core < 64 → exec (.stealAttempt core) s = .next s) ∧
    ((∀ y ∈ v.deque, ¬ stealable s brr idle y) → Ends (.stealRequest victim thief brr idle none) s fun t =>
      Instr.stealAnswer thief victim none ∈ t.agenda ∧ t.cores = s.cores) ∧
    (∀ (e : Entry) (pre post : List Entry), v.halted = false → v.failed = false → v.deque = pre ++ e :: post → stealable s brr idle e →
      (∀ y ∈ pre, stealable s brr idle y → cls e ≤ cls y) → (∀ y ∈ post, stealable s brr idle y → cls e < cls y) →
      s.coreRelease victim false = (s, true) →
      Ends (.stealRequest victim thief brr idle none) s fun t => Instr.stealAnswer thief victim (some e) ∈ t.agenda ∧
        (∀ y ∈ (t.core victim).deque, y.eid ≠ e.eid) ∧ ∀ y ∈ v.deque, y.eid ≠ e.eid → y ∈ (t.core victim).deque) ∧
    (∀ a r, 64 ≤ s.hunger thief → h.victims = a :: r → Ends (.stealAnswer thief victim none) s fun t =>
      (∃ i, Instr.stealRequest a thief h.brr i none ∈ t.agenda) ∧ (t.core thief).victims = r) ∧
    (s.hunger thief < 64 → Ends (.stealAnswer thief victim none) s fun t => (t.core thief).victims = [] ∧ t.agenda = s.agenda) ∧
    (∀ (e : Entry) (l : Launch), h.deque.length < 2048 → Store.find s.launches e.launch = some l → h.brr = l.brr → h.halted = false → h.failed = false →
      Ends (.stealAnswer thief victim (some e)) s fun t => ∃ y, (t.core thief).deque = h.deque ++ [y] ∧ y.launch = e.launch ∧
        y.closure = e.closure ∧ y.ctags = e.ctags ∧ y.tiles = [] ∧ y.staging = false ∧ (y.st = .ready ↔ tiles e = 0) ∧
        (y.st = .pending ↔ tiles e ≠ 0) ∧ (t.core thief).victims = []))

/-! ### The front end (15 R375-R385, R436; 13 R345, R346) -/

namespace Sys2Proof.Claim

/-- Bytes `o` to `o + n - 1` of a packet's 64. -/
def pf (b o n : Nat) : Nat := b / 2 ^ (8 * o) % 2 ^ (8 * n)

/-- Check 2 of 15 R377 passes: the fields of the packet's type are legal and its reserved bytes are 0. -/
def fieldsOk (b : Nat) : Prop :=
  1 ≤ pf b 4 1 ∧ pf b 4 1 ≤ 8 ∧ pf b 5 1 < 8 ∧ (b.testBit 42 = true → b.testBit 41 = true) ∧ pf b 6 2 = 0 ∧
    (pf b 4 1 = 1 → pf b 16 8 % 16 = 0 ∧ 1 ≤ pf b 26 2 ∧ pf b 26 2 ≤ 4096 ∧ 1 ≤ pf b 28 1 ∧ pf b 28 1 ≤ 7 ∧ pf b 29 1 ≤ 3 ∧ pf b 30 34 = 0) ∧
    (pf b 4 1 = 2 → pf b 16 8 % 64 = 0 ∧ 1 ≤ pf b 24 1 ∧ pf b 24 1 ≤ 64 ∧ pf b 25 39 = 0) ∧
    (pf b 4 1 = 3 → 1 ≤ pf b 24 8 ∧ pf b 24 8 ≤ 2 ^ 32 ∧ pf b 32 32 = 0) ∧
    (pf b 4 1 = 4 → pf b 8 8 % 8 = 0 ∧ pf b 24 40 = 0) ∧
    (pf b 4 1 = 5 → pf b 8 1 ≤ 63 ∧ pf b 9 7 = 0 ∧ pf b 24 40 = 0) ∧
    (pf b 4 1 = 6 → 1 ≤ pf b 16 8 ∧ pf b 16 8 ≤ 2 ^ 40 ∧ pf b 24 40 = 0) ∧
    (pf b 4 1 = 7 → pf b 24 1 ≤ 2 ∧ pf b 25 39 = 0) ∧
    (pf b 4 1 = 8 → pf b 16 48 = 0)

/-- What check 4 covers: the offset of each address, and its number of bytes. -/
def reaches (b : Nat) : List (Nat × Nat) :=
  if pf b 4 1 = 1 then [(8, 64), (16, 112 * pf b 26 2)]
  else if pf b 4 1 = 2 then [(8, 64), (16, 64 * pf b 24 1)]
  else if pf b 4 1 = 3 then [(8, pf b 24 8), (16, pf b 24 8)]
  else if pf b 4 1 = 4 then [(8, 8)]
  else if pf b 4 1 = 6 ∨ pf b 4 1 = 7 then [(8, pf b 16 8)]
  else []

/-- An extent lies within one enabled range of a queue. -/
def allowed (x : Queue) (a n : Nat) : Prop :=
  n = 0 ∨ ∃ i, i < 8 ∧
    let base := (Store.get 0 x.ranges (2 * i)).toNat / 2 ^ 15 % 2 ^ 49 * 2 ^ 15
    let len := (Store.get 0 x.ranges (2 * i + 1)).toNat / 2 ^ 15 % 2 ^ 49 * 2 ^ 15
    0 < len ∧ base ≤ a ∧ a + n ≤ base + len

/-- The front end can read `n` bytes at `va` now: they lie on one page of common memory whose leaf its die has cached, and none is in
error; they are `bs`, with the tags of their granules. -/
def FeReads (s : State) (part q va n : Nat) (bs : List Byte) (tags : List Bool) : Prop :=
  (n = 0 ∧ bs = [] ∧ tags = []) ∨
    ∃ t, Mapped s (s.feDie part) (s.queue part q).asid va .load t ∧ va % 2 ^ 15 + n ≤ 2 ^ 15 ∧ va + n ≤ 2 ^ 57 ∧ inCmem t.pa n ∧
      s.poisoned t.pa n = false ∧ bs = s.read t.pa n ∧
      tags = (List.range (n / 16)).map fun i => va % 16 == 0 && PageInfo.canTag t.page && s.tagAt (t.pa + 16 * i)

/-- A record of `status` and `detail` about the packet of header `h` waits to be written. -/
def Recorded (x : Queue) (t : State) (part q h status detail : Nat) : Prop :=
  ∃ r i, (t.queue part q).records = x.records ++ [(r, i)] ∧ r.toNat / 2 ^ 72 % 256 = status ∧ r.toNat / 2 ^ 192 = detail ∧
    r.toNat % 2 ^ 32 = 0 ∧ r.toNat / 2 ^ 32 % 2 ^ 32 = h % 2 ^ 32 ∧ r.toNat / 2 ^ 80 % 2 ^ 48 = q ∧
    Instr.completionRecord part q ∈ t.agenda

/-- The packet is the queue's, and has started. -/
def carries (s : State) (part q num : Nat) (p : Packet) : Prop :=
  (s.queue part q).packets.find? (fun y => y.num == num) = some p ∧ p.started = true

/-- The packet's completion is on its way. -/
def finishes (t : State) (part q num : Nat) (st : PStatus) (d : Nat) : Prop :=
  Instr.packetComplete part q num st (BitVec.ofNat 64 d) ∈ t.agenda

end Sys2Proof.Claim

/-- R375 to R381, R436, Tables 15.1 to 15.3: what firmware and the host write to a queue's registers; a packet is fetched and
passes the checks in their order, or halts its queue with a record; a packet that nothing holds back starts; its completion
moves QTL and leaves a record where one is asked for; a record is written with the next CSEQ while the ring has room. -/
def Obligations.QueueEvents : Prop :=
  ∀ (s : State) (part q num : Nat), q < 64 →
    let x := s.queue part q
    let fd := s.feDie part
    let now (t : State) := t.queue part q
    let here (a n : Nat) : Prop := pkgOf a = s.pkg ∧ pkgOf (a + n - 1) = s.pkg ∧
      (mtOf (localOf a) = some 0 ∨ mtOf (localOf a) = some 2) ∧ mtOf (localOf (a + n - 1)) = mtOf (localOf a)
    (Ends (.queueEnable part q) s fun t => (now t).consumed = 1 ∧ (now t).doorbell = 1 ∧ (now t).qtl = 0 ∧ (now t).cseq = 1 ∧
      (now t).packets = [] ∧ (now t).records = [] ∧ (x.qlog ≤ 16 → x.cplLog ≤ 16 → here x.base (64 * 2 ^ x.qlog) →
        here x.cplAt (32 * 2 ^ x.cplLog) → (now t).state = 1) ∧ (pkgOf x.base ≠ s.pkg → (now t).state = 0)) ∧
    (∀ v : W32, (s.outsideDone = true → Ends (.doorbell part q v) s fun t => (now t).doorbell = v ∧ s.sameBytes t ∧
        (x.state = 1 → x.consumed ≠ v → Instr.packetFetch part q ∈ t.agenda)) ∧
      Ends (.cplack part q v) s fun t => now t = { x with cplack := v } ∧ s.sameBytes t) ∧
    (∀ v : W64, Ends (.queueResume part q v) s fun t => (now t).ctrl = v ∧ s.sameBytes t ∧
      (v.getLsbD 32 = true → x.state = 2 → (v.toNat + 2 ^ 32 - x.consumed.toNat) % 2 ^ 32 < 2 ^ 31 →
        (now t).state = 1 ∧ (now t).consumed = v.truncate 32 ∧ ((now t).consumed ≠ x.doorbell → Instr.packetFetch part q ∈ t.agenda)) ∧
      (v.getLsbD 32 = false ∨ x.state ≠ 2 → (now t).state = x.state ∧ (now t).consumed = x.consumed)) ∧
    (x.state = 1 → x.consumed ≠ x.doorbell → (s.part part).halted = false →
      let a := x.base + x.consumed.toNat % 2 ^ x.qlog * 64
      ∀ u, (s.acquireAt fd .sys).homeReady fd a 64 = (u, true) →
        let b := u.readNat a 64
        let i : Instr := .packetFetch part q
        let seq := b % 2 ^ 32 = x.consumed.toNat
        let halts (status : Nat) (detail : Nat → Prop) : Prop := Ends i s fun t => (now t).state = 2 ∧ (now t).consumed = x.consumed ∧
          ∃ d, detail d ∧ Recorded x t part q b status d
        (¬ seq → halts 1 fun d => d = 0) ∧
        (seq → ¬ fieldsOk b → halts 2 fun d => d < 64 ∧ (pf b 4 1 = 0 ∨ 8 < pf b 4 1 → d = 4)) ∧
        (seq → fieldsOk b → x.opmask.getLsbD (pf b 4 1) = false → halts 3 fun d => d = 4) ∧
        (seq → fieldsOk b → x.opmask.getLsbD (pf b 4 1) = true → (∃ e ∈ reaches b, ¬ allowed x (pf b e.1 8) e.2) →
          halts 4 fun d => ∃ e ∈ reaches b, ¬ allowed x (pf b e.1 8) e.2 ∧ d = e.1) ∧
        (seq → fieldsOk b → x.opmask.getLsbD (pf b 4 1) = true → (∀ e ∈ reaches b, allowed x (pf b e.1 8) e.2) →
          Ends i s fun t => (now t).consumed = x.consumed + 1 ∧ (now t).fetched = x.fetched + 1 ∧ (now t).state = 1 ∧
            (∃ p, (now t).packets = x.packets ++ [p] ∧ p.num = x.fetched + 1 ∧ p.bits.toNat = b ∧ p.started = false) ∧
            Instr.packetStart part q (x.fetched + 1) ∈ t.agenda ∧
            (x.consumed + 1 ≠ x.doorbell → Instr.packetFetch part q ∈ t.agenda))) ∧
    (∀ p, x.packets.find? (fun y => y.num == num) = some p → p.started = false → (s.part part).halted = false →
      let ty := pf p.bits.toNat 4 1
      let earlier (y : Packet) : Prop := y ∈ x.packets ∧ y.num < num
      (∀ y, earlier y → y.started = true ∧ pf y.bits.toNat 4 1 ≠ 5 ∧ pf y.bits.toNat 4 1 ≠ 8) →
      (p.bits.getLsbD 40 = true ∨ ty = 4 → ∀ y, ¬ earlier y) → Ends (.packetStart part q num) s fun t =>
        carries t part q num { p with started := true, early := false } ∧
        ∀ e ∈ [(1, Instr.launch part q num), (2, .feed part q num), (3, .copy part q num), (4, .signal part q num),
          (5, .waittl part q num), (6, .zero part q num), (7, .inval part q num), (8, .qfence part q num)],
          ty = e.1 → e.2 ∈ t.agenda) ∧
    (∀ p st, x.packets.find? (fun y => y.num == num) = some p → ∀ d : W64, Ends (.packetComplete part q num st d) s fun t =>
      (∀ y, y ∈ (now t).packets ↔ y ∈ x.packets ∧ y.num ≠ num) ∧ s.sameBytes t ∧
      ((now t).packets = [] → (now t).qtl = x.fetched) ∧
      ((now t).packets ≠ [] → ∃ y ∈ (now t).packets, (now t).qtl = y.num - 1 ∧ ∀ z ∈ (now t).packets, y.num ≤ z.num) ∧
      (p.bits.getLsbD 41 = true ∨ (st ≠ .ok ∧ st ≠ .skipped) → ∃ code, Recorded x t part q p.bits.toNat code d.toNat ∧
        (code = 0 ↔ st = .ok ∨ st = .skipped) ∧ (st = .fault → code = 8) ∧ (st = .aborted → code = 9)) ∧
      (p.bits.getLsbD 41 = false → st = .ok ∨ st = .skipped → (now t).records = x.records)) ∧
    (∀ (r : BitVec 256) (irq : Bool) (rest : List (BitVec 256 × Bool)) (u : State), x.records = (r, irq) :: rest →
      let a := x.cplAt + x.cseq.toNat % 2 ^ x.cplLog * 32
      (x.cseq - x.cplack - 1).toNat ≠ 2 ^ x.cplLog → s.homeReady fd a 32 = (u, true) → u.recordsMet a 32 = [] →
        Ends (.completionRecord part q) s fun t => (now t).records = rest ∧ (now t).cseq = x.cseq + 1 ∧
          (irq = false → t.readNat a 32 = (r.toNat + x.cseq.toNat) % 2 ^ 256 ∧ KeepsBytes s t (within a 32)) ∧
          (irq = true → 2 ^ 42 ≤ x.irqaddr.toNat → x.irqaddr.toNat < 2 ^ 43 →
            t.readNat (s.pkg * 2 ^ 43 + x.irqaddr.toNat / 4 * 4) 4 = x.irqdata.toNat)) ∧
    (∀ (r : BitVec 256) (rest : List (BitVec 256 × Bool)), x.records = (r, false) :: rest →
      let a := x.cplAt + x.cseq.toNat % 2 ^ x.cplLog * 32
      (x.cseq - x.cplack - 1).toNat ≠ 2 ^ x.cplLog → mtOf (localOf a) = some 2 ∨ s.homeReady fd a 32 = (s, true) → s.recordsMet a 32 = [] →
        Ends (.completionRecord part q) s fun t => (now t).records = rest ∧ (now t).cseq = x.cseq + 1 ∧
          t.readNat a 32 = (r.toNat + x.cseq.toNat) % 2 ^ 256 ∧ KeepsBytes s t (within a 32))

/-- R378, R382 to R385, R345, R346, R192: what each started packet does, and where it completes: a copy, a signal and zeros are
written, with FAULT and the lowest address where they cannot be; WAITTL and QFENCE end once their timelines have come, and wait till
then; INVAL flushes; FEED finds its queue, and its records are appended one by one; a launch whose descriptor, entry table,
arguments and shape records are read and valid is recorded, and places its roots, each at the cold end of a core of its die; an
early start reads the descriptor once. Through pages of common memory that the die has cached, a copy, a signal, zeros, a feed and a
launch are done at once. -/
def Obligations.PacketEvents : Prop :=
  (∀ (s : State) (part q num : Nat) (p : Packet), carries s part q num p →
    let x := s.queue part q
    let fd := s.feDie part
    let f := pf p.bits.toNat
    let ok (t : State) : Prop := finishes t part q num .ok 0
    let fault (t : State) (d : Nat) : Prop := finishes t part q num .fault d
    (∀ (u v : State) (a b : Trans), 0 < f 24 8 → f 16 8 + f 24 8 ≤ 2 ^ 57 → f 8 8 + f 24 8 ≤ 2 ^ 57 →
      f 16 8 % 2 ^ 15 + f 24 8 ≤ 2 ^ 15 → f 8 8 % 2 ^ 15 + f 24 8 ≤ 2 ^ 15 →
      f 16 8 + f 24 8 ≤ f 8 8 ∨ f 8 8 + f 24 8 ≤ f 16 8 → s.translate fd x.asid (f 16 8) .load = (u, .ok a) →
      u.translate fd x.asid (f 8 8) .store = (v, .ok b) → a.page.mt = 1 → b.page.mt = 1 → mtOf (localOf a.pa) = some 1 →
      inCmem b.pa (f 24 8) → u.poisoned a.pa (f 24 8) = false → v.recordsMet b.pa (f 24 8) = [] →
      Ends (.copy part q num) s fun t => ok t ∧ KeepsBytes v t (within b.pa (f 24 8)) ∧
        ∀ k, k < f 24 8 → t.readByte (b.pa + k) = v.readByte (a.pa + k)) ∧
    (∀ (v : State) (b : Trans), f 8 8 % 8 = 0 → f 8 8 + 8 ≤ 2 ^ 57 → s.translate fd x.asid (f 8 8) .store = (v, .ok b) →
      b.page.mt = 1 → inCmem b.pa 8 → v.recordsMet b.pa 8 = [] → Ends (.signal part q num) s fun t =>
        ok t ∧ t.readNat b.pa 8 = f 16 8 ∧ KeepsBytes v t (within b.pa 8)) ∧
    (2 ^ 57 < f 8 8 + 8 → Ends (.signal part q num) s fun t => fault t (max (f 8 8) (2 ^ 57)) ∧ s.sameBytes t) ∧
    (∀ (v : State) (b : Trans), 0 < f 16 8 → f 8 8 % 2 ^ 15 + f 16 8 ≤ 2 ^ 15 → f 8 8 + f 16 8 ≤ 2 ^ 57 →
      s.translate fd x.asid (f 8 8) .store = (v, .ok b) → b.page.mt = 1 → inCmem b.pa (f 16 8) → v.recordsMet b.pa (f 16 8) = [] →
      Ends (.zero part q num) s fun t => ok t ∧ KeepsBytes v t (within b.pa (f 16 8)) ∧
        ∀ k, k < f 16 8 → t.readByte (b.pa + k) = 0) ∧
    (∀ a b : Trans, 0 < f 24 8 → f 16 8 + f 24 8 ≤ 2 ^ 57 → f 8 8 + f 24 8 ≤ 2 ^ 57 →
      f 16 8 % 2 ^ 15 + f 24 8 ≤ 2 ^ 15 → f 8 8 % 2 ^ 15 + f 24 8 ≤ 2 ^ 15 →
      f 16 8 + f 24 8 ≤ f 8 8 ∨ f 8 8 + f 24 8 ≤ f 16 8 → Mapped s fd x.asid (f 16 8) .load a → Mapped s fd x.asid (f 8 8) .store b →
      inCmem b.pa (f 24 8) → s.poisoned a.pa (f 24 8) = false → s.recordsMet b.pa (f 24 8) = [] → Ends (.copy part q num) s fun t =>
        ok t ∧ KeepsBytes s t (within b.pa (f 24 8)) ∧ ∀ k, k < f 24 8 → t.readByte (b.pa + k) = s.readByte (a.pa + k)) ∧
    (∀ b : Trans, Mapped s fd x.asid (f 8 8) .store b →
      (f 8 8 % 8 = 0 → f 8 8 + 8 ≤ 2 ^ 57 → inCmem b.pa 8 → s.recordsMet b.pa 8 = [] → Ends (.signal part q num) s fun t =>
        ok t ∧ t.readNat b.pa 8 = f 16 8 ∧ KeepsBytes s t (within b.pa 8)) ∧
      (0 < f 16 8 → f 8 8 % 2 ^ 15 + f 16 8 ≤ 2 ^ 15 → f 8 8 + f 16 8 ≤ 2 ^ 57 → inCmem b.pa (f 16 8) →
        s.recordsMet b.pa (f 16 8) = [] → Ends (.zero part q num) s fun t => ok t ∧ KeepsBytes s t (within b.pa (f 16 8)) ∧
          ∀ k, k < f 16 8 → t.readByte (b.pa + k) = 0)) ∧
    (∀ a : Trans, f 8 8 + 64 ≤ 2 ^ 57 → f 8 8 % 64 = 0 → Mapped s fd x.asid (f 8 8) .atomic a → (s.feed a.pa).valid = true →
      let h := s.feed a.pa
      let slot := feedRecord a.pa h.capl h.tail
      let isFull := (h.tail + 2 ^ 64 - h.head) % 2 ^ 64 = 2 ^ h.capl
      Ends (.feed part q num) s (fun t => Instr.feedAppend part q num 0 ∈ t.agenda ∧ s.sameBytes t) ∧
      ∀ i, i < f 24 1 →
        (h.closed = true → Ends (.feedAppend part q num i) s fun t => finishes t part q num .closed 8 ∧ s.sameBytes t) ∧
        (∀ bs tags, h.closed = false → ¬ isFull → FeReads s part q (f 16 8 + 64 * i) 64 bs tags → s.recordsMet a.pa 64 = [] →
          s.recordsMet slot 64 = [] → Ends (.feedAppend part q num i) s fun t => t.read slot 64 = bs ∧
            t.readNat (a.pa + 8) 8 = (h.tail + 1) % 2 ^ 64 ∧ t.readNat a.pa 8 = s.readNat a.pa 8 ∧
            (i + 1 < f 24 1 → Instr.feedAppend part q num (i + 1) ∈ t.agenda) ∧ (f 24 1 ≤ i + 1 → ok t))) ∧
    (∀ (b1 b2 b3 b4 : List Byte) (t1 t2 t3 t4 : List Bool) (es : List EntryRec) (r : EntryRec) (ts : List (BitVec 512 × Bool × Bool)),
      p.desc = none → p.entt = none → f 28 1 = 7 → FeReads s part q (f 8 8) 64 b1 t1 →
      let d := parseDesc (natOf b1) (t1.getD 0 false)
      d.ok = true → f 24 2 < d.nent → FeReads s part q d.entt (32 * d.nent) b2 t2 →
      (cutRecords 32 d.nent b2).mapM (parseEntry d) = some es → es[f 24 2]? = some r → r.flags % 2 = 1 →
      FeReads s part q (f 16 8) (112 * f 26 2) b3 t3 → FeReads s part q d.tsrt (64 * d.ntsr) b4 t4 → x.qcfg.getLsbD 20 = true →
      let arg (k : Nat) : BitVec 896 × BitVec 7 := (BitVec.ofNat 896 (natOf ((b3.drop (112 * k)).take 112)),
        BitVec.ofNat 7 ((List.range 7).foldl (fun a g => if t3.getD (7 * k + g) false then a + 2 ^ g else a) 0))
      ((cutRecords 64 d.ntsr b4).zipIdx.mapM fun x => launchTsr (arg 0) x.1 (t4.getD (4 * x.2) false)) = some ts → 1 ≤ f 26 2 →
      Ends (.launch part q num) s fun t => ∃ l, Store.find t.launches s.fresh = some l ∧ l.code = d.code ∧ l.brr = d.brr ∧
        l.entries = es ∧ l.ent = f 24 2 ∧ l.tsrs = ts ∧ l.args = (List.range (f 26 2)).map arg ∧ l.unplaced = List.range (f 26 2) ∧
        l.tasks = f 26 2 ∧ l.pri = f 29 1 ∧ l.asid = x.asid ∧ Instr.rootPlace s.fresh 0 ∈ t.agenda ∧ s.sameBytes t) ∧
    (f 16 8 ≤ (s.queue part (f 8 1)).qtl → Ends (.waittl part q num) s ok) ∧
    ((s.queue part (f 8 1)).qtl < f 16 8 →
      exec (.waittl part q num) s = .next { s with agenda := s.agenda ++ [.waittl part q num] }) ∧
    ((∀ e ∈ p.snap, e.2 ≤ (s.queue part e.1).qtl) → Ends (.qfence part q num) s ok) ∧
    (¬ (∀ e ∈ p.snap, e.2 ≤ (s.queue part e.1).qtl) →
      exec (.qfence part q num) s = .next { s with agenda := s.agenda ++ [.qfence part q num] }) ∧
    (p.snap = [] → f 24 1 = 1 → Ends (.inval part q num) s fun t => ok t ∧ s.sameBytes t ∧
      ∀ c e, c < 256 → e ∈ (t.core c).icache → ¬ (e.1 = x.asid ∧ e.2.1 < f 8 8 + f 16 8 ∧ f 8 8 < e.2.1 + 32)) ∧
    (p.snap = [] → f 16 8 = 0 → Ends (.inval part q num) s fun t => ok t ∧ s.sameBytes t) ∧
    (p.snap = [] → f 24 1 ≠ 1 → 0 < f 16 8 → (∀ d, ∀ e ∈ (s.die d).dirs, e.lease = none) → Ends (.inval part q num) s fun t =>
      s.sameBytes t ∧ Instr.inval part q num ∈ t.agenda ∧ Instr.shootdownComplete s.fresh ∈ t.agenda ∧
      carries t part q num { p with snap := [(q, s.fresh)] } ∧ ∀ d e, d < 8 → e ∈ (t.die d).tcache → e.asid = x.asid →
        ¬ (e.va < f 8 8 + f 16 8 ∧ f 8 8 < e.va + 2 ^ (15 + 10 * e.lvl))) ∧
    (∀ sid r, p.snap = (q, sid) :: r → (∀ k ∈ s.shoots, k.sid ≠ sid) → Ends (.inval part q num) s ok) ∧
    (∀ (u : State) (a : Trans), f 8 8 + 64 ≤ 2 ^ 57 → s.translate fd x.asid (f 8 8) .atomic = (u, .ok a) → a.page.mt ≠ 4 →
      let good := f 8 8 % 64 = 0 ∧ a.page.mt = 1 ∧ (u.feed a.pa).valid = true
      (good → Ends (.feed part q num) s fun t => Instr.feedAppend part q num 0 ∈ t.agenda ∧ u.sameBytes t) ∧
      (¬ good → Ends (.feed part q num) s fun t => fault t (f 8 8) ∧ u.sameBytes t) ∧
      (∀ i, f 24 1 ≤ i → Ends (.feedAppend part q num i) s fun t => ok t ∧ s.sameBytes t) ∧
      (∀ i (v : State) (b : Trans), i < f 24 1 → good →
        let h := u.feed a.pa
        let src := f 16 8 + 64 * i
        let slot := feedRecord a.pa h.capl h.tail
        (h.closed = true → Ends (.feedAppend part q num i) s fun t => finishes t part q num .closed 8 ∧ u.sameBytes t) ∧
        (h.closed = false → (h.tail + 2 ^ 64 - h.head) % 2 ^ 64 = 2 ^ h.capl → Ends (.feedAppend part q num i) s fun t =>
          Instr.feedAppend part q num i ∈ t.agenda ∧ u.sameBytes t) ∧
        (h.closed = false → (h.tail + 2 ^ 64 - h.head) % 2 ^ 64 ≠ 2 ^ h.capl → src + 64 ≤ 2 ^ 57 → src % 2 ^ 15 + 64 ≤ 2 ^ 15 →
          u.translate fd x.asid src .load = (v, .ok b) → b.page.mt = 1 → mtOf (localOf b.pa) = some 1 → u.queue part q = x →
          u.feDie part = fd → v.poisoned b.pa 64 = false → v.recordsMet a.pa 64 = [] → v.recordsMet slot 64 = [] →
          Ends (.feedAppend part q num i) s fun t => t.read slot 64 = v.read b.pa 64 ∧
            t.readNat (a.pa + 8) 8 = (h.tail + 1) % 2 ^ 64 ∧ t.readNat a.pa 8 = v.readNat a.pa 8 ∧
            (i + 1 < f 24 1 → Instr.feedAppend part q num (i + 1) ∈ t.agenda) ∧ (f 24 1 ≤ i + 1 → ok t)))) ∧
    (∀ (u : State) (bs : List Byte) (tags : List Bool), s.feRead (s.fe part q) (f 8 8) 64 = (u, some (.ok (bs, tags))) →
      p.desc = none → tags.getD 0 false = false → Ends (.launch part q num) s fun t => finishes t part q num .baddesc 8 ∧ u.sameBytes t) ∧
    (∀ (u1 u2 u3 u4 : State) (b1 b2 b3 b4 : List Byte) (t1 t2 t3 t4 : List Bool) (es : List EntryRec) (r : EntryRec)
        (ts : List (BitVec 512 × Bool × Bool)), p.desc = none → p.entt = none → f 28 1 = 7 →
      s.feRead (s.fe part q) (f 8 8) 64 = (u1, some (.ok (b1, t1))) →
      let d := parseDesc (natOf b1) (t1.getD 0 false)
      d.ok = true → f 24 2 < d.nent →
      (u1.modPacket part q num fun y => { y with desc := some (natOf b1, t1.getD 0 false) }).feRead (s.fe part q) d.entt (32 * d.nent) =
        (u2, some (.ok (b2, t2))) →
      (cutRecords 32 d.nent b2).mapM (parseEntry d) = some es → es[f 24 2]? = some r → r.flags % 2 = 1 →
      (u2.modPacket part q num fun y => { y with entt := some b2 }).feRead (s.fe part q) (f 16 8) (112 * f 26 2) =
        (u3, some (.ok (b3, t3))) →
      u3.feRead (s.fe part q) d.tsrt (64 * d.ntsr) = (u4, some (.ok (b4, t4))) → (u3.queue part q).qcfg.getLsbD 20 = true →
      let arg (k : Nat) : BitVec 896 × BitVec 7 := (BitVec.ofNat 896 (natOf ((b3.drop (112 * k)).take 112)),
        BitVec.ofNat 7 ((List.range 7).foldl (fun a g => if t3.getD (7 * k + g) false then a + 2 ^ g else a) 0))
      ((cutRecords 64 d.ntsr b4).zipIdx.mapM fun x => launchTsr (arg 0) x.1 (t4.getD (4 * x.2) false)) = some ts → 1 ≤ f 26 2 →
      Ends (.launch part q num) s fun t => ∃ l, Store.find t.launches u4.fresh = some l ∧ l.code = d.code ∧ l.brr = d.brr ∧
        l.entries = es ∧ l.ent = f 24 2 ∧ l.tsrs = ts ∧ l.args = (List.range (f 26 2)).map arg ∧ l.unplaced = List.range (f 26 2) ∧
        l.tasks = f 26 2 ∧ l.pri = f 29 1 ∧ l.asid = x.asid ∧ Instr.rootPlace u4.fresh 0 ∈ t.agenda ∧ u4.sameBytes t) ∧
    (∀ (u : State) (l : Launch), s.readLaunch part q p = .ok u l →
      (l.code.tag = true ∧ l.code.bits.getLsbD 60 = true ∧ l.part = part ∧ l.queue = q ∧ l.num = num ∧ l.asid = x.asid ∧
        l.ent = f 24 2 ∧ l.args.length = f 26 2 ∧ l.unplaced = List.range (f 26 2) ∧ l.tasks = f 26 2 ∧ l.pri = f 29 1 ∧
        l.tsrs.length ≤ 1024 ∧ (∃ e, l.entries[l.ent]? = some e ∧ e.flags % 2 = 1) ∧
        (∀ e ∈ l.entries, e.regs % 8 = 0 ∧ 8 ≤ e.regs ∧ e.regs ≤ 256 ∧ e.scal % 8 = 0 ∧ 16 ≤ e.scal ∧ e.scal ≤ 64)) ∧
      Ends (.launch part q num) s fun t => Store.find t.launches u.fresh = some l ∧ Instr.rootPlace u.fresh 0 ∈ t.agenda ∧
        u.sameBytes t)) ∧
  (∀ (s : State) (part q num : Nat) (p y : Packet) (u : State) (bs : List Byte) (tags : List Bool),
    (s.queue part q).packets.find? (fun z => z.num == num) = some p → p.started = false → pf p.bits.toNat 4 1 = 1 →
    p.bits.getLsbD 40 = true → (s.part part).halted = false → (s.queue part q).packets.filter (fun z => decide (z.num < num)) = [y] →
    y.num = p.pred → (∃ l ∈ s.launches, l.2.part = part ∧ l.2.queue = q ∧ l.2.num = p.pred ∧ l.2.lhinted = true ∧ l.2.done = false) →
    s.feRead (s.fe part q) (pf p.bits.toNat 8 8) 64 = (u, some (.ok (bs, tags))) →
    p.desc = none → (parseDesc (natOf bs) (tags.getD 0 false)).ok = true → 1 ≤ natOf bs / 2 ^ 304 % 256 → u.queue part q = s.queue part q →
    Ends (.earlyStart part q num) s fun t => carries t part q num { p with started := true, early := true, desc := some (natOf bs, tags.getD 0 false) } ∧
      Instr.launch part q num ∈ t.agenda) ∧
  (∀ (s : State) (part q num : Nat) (p y : Packet) (bs : List Byte) (tags : List Bool),
    (s.queue part q).packets.find? (fun z => z.num == num) = some p → p.started = false → pf p.bits.toNat 4 1 = 1 →
    p.bits.getLsbD 40 = true → (s.part part).halted = false → (s.queue part q).packets.filter (fun z => decide (z.num < num)) = [y] →
    y.num = p.pred → (∃ l ∈ s.launches, l.2.part = part ∧ l.2.queue = q ∧ l.2.num = p.pred ∧ l.2.lhinted = true ∧ l.2.done = false) →
    p.desc = none → FeReads s part q (pf p.bits.toNat 8 8) 64 bs tags → (parseDesc (natOf bs) (tags.getD 0 false)).ok = true →
    1 ≤ natOf bs / 2 ^ 304 % 256 → Ends (.earlyStart part q num) s fun t =>
      carries t part q num { p with started := true, early := true, desc := some (natOf bs, tags.getD 0 false) } ∧
      Instr.launch part q num ∈ t.agenda) ∧
  (∀ (s : State) (lid root d : Nat) (l : Launch), Store.find s.launches lid = some l → root ∈ l.unplaced →
    (∀ e ∈ s.dies, (⟨lid, root⟩ : Root) ∉ e.2.roots) → l.homes.getD root none = none → (s.part l.part).dies = [d] →
    (s.die d).roots = [] → (s.die d).corePtr < 32 → l.ent < 2 ^ 16 → l.pri < 4 →
    let k := 32 * d + (s.die d).corePtr
    let c := s.core k
    c.brr = l.brr → c.halted = false → c.failed = false → c.deque.length < 2048 → Ends (.rootPlace lid root) s fun t =>
      (∃ e, (t.core k).deque = c.deque ++ [e] ∧ e.launch = lid ∧ e.st = .ready ∧ e.closure.toNat % 2 ^ 16 = l.ent ∧
        e.closure.getLsbD 18 = l.early ∧ cls e = l.pri ∧ tiles e = 0 ∧
        e.closure.extractLsb' 128 896 = (l.args.getD root (0, 0)).1 ∧
        ∀ i, i < 7 → e.ctags.getLsbD (i + 1) = (l.args.getD root (0, 0)).2.getLsbD i) ∧
      (t.die d).roots = [] ∧ (t.die d).corePtr = (k + 1) % 32 ∧
      (∃ l', Store.find t.launches lid = some l' ∧ ∀ r, r ∈ l'.unplaced ↔ r ∈ l.unplaced ∧ r ≠ root) ∧
      (root + 1 < l.args.length → Instr.rootPlace lid (root + 1) ∈ t.agenda) ∧ Instr.dispatch k ∈ t.agenda)

/-! ### Faults, saves, halts and debug (16 R395-R405; 15 R386, R388; 07 R191; 20 R430) -/

namespace Sys2Proof.Claim

/-- A path of a group stands in its handler, with the trap's registers (16 R391). -/
def InHandler (s t : State) (gid : Nat) (b : Bool) (h : VA) (f : FaultRec) : Prop :=
  (t.grp gid).cause = BitVec.ofNat 8 f.cause ∧ (t.grp gid).faddr = BitVec.ofNat 64 f.va ∧
    (t.grp gid).epc = ((s.grp gid).path b).pc.zeroExtend 64 ∧ ((t.grp gid).path b).pc = h ∧
    ((t.grp gid).path b).frame ≠ none ∧ ((t.grp gid).path b).wait = .none

/-- The fields of a fault record at an address (16 Table 16.2), the waiter identifier apart. -/
def FaultAt (t : State) (a n : Nat) (f : FaultRec) : Prop :=
  t.readNat a 8 = f.va % 2 ^ 57 ∧ t.readNat (a + 16) 1 = f.ctx % 256 ∧ t.readNat (a + 17) 1 = f.orig % 256 ∧
    t.readNat (a + 18) 1 = f.acc % 16 + f.kind % 16 * 16 ∧ t.readNat (a + 19) 1 = f.cause % 256 ∧
    t.readNat (a + 22) 2 = f.asid % 65536 ∧ t.readNat (a + 24) 8 = n % 2 ^ 64

/-- All the registers of a group. -/
def SameRegs (g g' : Group) : Prop :=
  g'.vregs = g.vregs ∧ g'.sregs = g.sregs ∧ g'.cregs = g.cregs ∧ g'.kregs = g.kregs ∧ srs g' = srs g ∧ g'.fmts = g.fmts ∧ g'.fut = g.fut

/-- The hint names a vector register, or a scalar register (13 R341). -/
def hintV (h : Hint) (r : VReg) : Prop := (h.d.toNat ≤ r.toNat ∧ r.toNat ≤ h.a.toNat) ∨ (h.b.toNat ≤ r.toNat ∧ r.toNat ≤ h.c.toNat)
def hintS (h : Hint) (r : SReg) : Prop := h.smask.getLsbD (r.toNat / 2) = true

/-- A group stands in a slot of a core. -/
def Stands (s : State) (gid core slot : Nat) : Prop :=
  s.inSlot core slot = some gid ∧ (Store.find s.groups gid).isSome = true ∧ (s.grp gid).place = .res core slot

/-- Nothing of a group is in flight, the release that its save includes has been performed, and a record of its die is free. -/
def Savable (s : State) (gid core : Nat) : Prop :=
  s.releaseAt gid false .pkg true = (s, true) ∧
  (∀ o ∈ s.ops, o.2.gid ≠ gid) ∧ (∀ c ∈ (s.core core).cmds, c.gid ≠ gid) ∧
    ∃ r, r < 16384 ∧ ∀ e ∈ s.groups, e.2.place ≠ .saved (core / 32) r

/-- The access of the group's save record does not fault (16 R400; the free value of assumption 136). -/
def RecordHeld (s : State) : Prop := Config.saveFails s.fresh = false

/-- No live path of a group stands in the chain of an object, or in a regroup cell. -/
def unchained (g : Group) : Prop := ∀ b x, (g.path b).wait ≠ .gong x ∧ (g.path b).wait ≠ .regroup x

/-- A group has moved to a record that was free; its deque entry keeps its place (07 R186). -/
def SavedNow (s t : State) (gid core : Nat) : Prop :=
  (∃ r, (t.grp gid).place = .saved (core / 32) r ∧ r < 16384 ∧ ∀ e ∈ s.groups, e.2.place ≠ .saved (core / 32) r) ∧
    (t.core core).deque = (s.core core).deque ∧ (t.grp gid).preempt = false

end Sys2Proof.Claim

/-- R395 to R405, R386, R388, R191, R430: a fault record goes to its die's ring, is dropped, waits or traps; the pager's answers
ready, park or trap the path, once no replica of a written page stands, and a zero-pending page is mapped as they say; a pre-empted group is restarted or saved, by its hint or in full, and named by its record where an object names it, and a save whose
record faults (a free value, assumption 136) resets the partition; a saved group is restored with its registers and window, unless
that faults; a halt stops a partition's cores and sends their allowances and leases home, a swap-in brings them back; the
watchdog resets; firmware sets the debug bit, and a debugged path
steps, forward and back. -/
def Obligations.SaveEvents : Prop :=
  (∀ (s : State) (die part : Nat) (f : FaultRec) (gid : Nat) (b : Bool) (h : VA) (v : W64),
    let d := s.die die
    let log := d.pgbase.toNat % 16 + 4
    let a := d.pgbase.toNat / 2 ^ 12 % 2 ^ 40 * 2 ^ 12 + d.fseq % 2 ^ log * 32
    let full := (d.fseq + 2 ^ 64 - d.pgack.toNat - 1) % 2 ^ 64 = 2 ^ log
    let i : Instr := .faultRecord die f
    let waiting := s.waitersOn (.faultHeld f) = [(gid, b)] ∧ (Store.find s.groups gid).isSome = true
    let with_ := s.waitersOn (.fault die d.fseq) = [(gid, b)] ∧ s.waitersOn (.pager die d.fseq) = [] ∧
      (Store.find s.groups gid).isSome = true ∧ d.faults.find? (fun e => e.1 == d.fseq) = some (d.fseq, f)
    let settled (t : State) : Prop := ((t.grp gid).path b).wait = .none ∧ (∀ e ∈ (t.die die).faults, e.1 ≠ d.fseq) ∧
      (∀ k r, (s.grp gid).place = .saved k r → (t.grp gid).saved.ready ≠ none)
    let unleased := ∀ k, ∀ e ∈ (s.die k).dirs, e.lease = none
    let copied := (f.acc = 1 ∨ f.acc = 2 ∨ f.acc = 4 ∨ f.acc = 6) ∧ (f.asid, f.va / 2 ^ 15 * 2 ^ 15) ∈ s.replicas
    (d.pgbase ≠ 0 → ¬ full → unleased → s.recordsMet a 32 = [] → Ends i s fun t => FaultAt t a d.fseq f ∧ (t.die die).fseq = d.fseq + 1 ∧
      KeepsBytes s t (within a 32) ∧
      (waiting → ((t.grp gid).path b).wait = .fault die d.fseq ∧ t.readNat (a + 20) 2 = (s.grp gid).wid % 65536)) ∧
    (d.pgbase ≠ 0 → full → f.orig = 0 → Ends i s fun t => i ∈ t.agenda ∧ s.sameBytes t ∧ t.groups = s.groups) ∧
    (d.pgbase ≠ 0 → full → f.orig ≠ 0 → Ends i s fun t => (t.die die).pglost = d.pglost + 1 ∧ s.sameBytes t) ∧
    (d.pgbase = 0 → waiting → hasHandler s gid h → Ends i s fun t => InHandler s t gid b h f ∧ s.sameBytes t) ∧
    Ends (.pgack die v) s (fun t => t.die die = { d with pgack := v } ∧ s.sameBytes t) ∧
    Ends (.evack part v) s (fun t => t.part part = { s.part part with evack := v } ∧ s.sameBytes t) ∧
    (with_ → (¬ copied → Ends (.pagerSettle die d.fseq (.done none)) s fun t => settled t ∧ s.sameBytes t) ∧
      (copied → ∀ p, exec (.pagerSettle die d.fseq (.done p)) s = .next s) ∧
      Ends (.pagerSettle die d.fseq .long) s (fun t => ((t.grp gid).path b).wait = .pager die d.fseq ∧ s.sameBytes t ∧
        ∀ c n, (s.grp gid).place = .res c n → Instr.groupSave ⟨c, n⟩ ∈ t.agenda) ∧
      (hasHandler s gid h → Ends (.pagerSettle die d.fseq .fail) s fun t => InHandler s t gid b h f ∧ s.sameBytes t) ∧
      ∀ (at_ : Nat) (w : W128) (p : Placement), p.writes = [(at_, w)] → s.recordsMet at_ 16 = [] → unleased → ¬ copied →
        (∀ c, s.asctx f.asid = some c → c.rhtn = 0) → (Pte.ofNat w.toNat).v = true → (Pte.ofNat w.toNat).leaf = true →
        (Pte.ofNat w.toNat).zp = true → p.frame = (Pte.ofNat w.toNat).pa → p.replica = false →
        (∃ lvl, (s.placeWrites p).walk f.asid f.va = .ok (lvl, at_, w.toNat)) → Ends (.pagerSettle die d.fseq (.done (some p))) s fun t =>
          settled t ∧ t.readNat at_ 16 = w.toNat ∧ KeepsBytes s t (within at_ 16))) ∧
  (∀ (s : State) (gid c n : Nat), Stands s gid c n →
    let g := s.grp gid
    let now (t : State) : Group := t.grp gid
    let i : Instr := .groupSave ⟨c, n⟩
    let runs := (s.core c).halted = false ∧ ∀ k, (s.part k).halted = false
    (g.preempt = false → Ends (.preemptRequest ⟨c, n⟩) s fun t => i ∈ t.agenda ∧
      ∃ now_, now t = { g with preempt := true, deadline := now_ } ∧ (now_ = true ↔ (s.die (c / 32)).prectl.toNat % 2 ^ 32 = 0)) ∧
    (g.preempt = true → Ends (.preemptDeadline ⟨c, n⟩) s fun t => now t = { g with deadline := true } ∧ s.sameOutside t) ∧
    (g.preempt = true → g.ending = none → runs → g.restart = true → (∀ o ∈ s.ops, o.2.gid ≠ gid) →
      (∀ k ∈ s.cores, ∀ x ∈ k.2.cmds, x.gid ≠ gid) → Ends i s fun t => Store.find t.groups gid = none ∧ s.sameBytes t ∧
        ∃ e r, (t.core c).deque = e :: r ∧ e.launch = g.launch ∧ e.closure = g.closure ∧ e.ctags = g.ctags ∧
          (e.st = .ready ↔ tiles e = 0) ∧ (e.st = .pending ↔ tiles e ≠ 0)) ∧
    (g.preempt = true → g.ending = none → runs → g.restart = false → Savable s gid c →
      (∀ l, g.deadline = true → s.launchOf g = some l → Ends i s fun t => ¬ RecordHeld s → (t.part l.part).lost = true ∧
        ∀ q, (Store.find (s.part l.part).queues q).isSome = true → (t.queue l.part q).state = 2) ∧
      (g.deadline = true → Ends i s fun t => RecordHeld s → SavedNow s t gid c ∧ SameRegs g (now t) ∧ (unchained g → s.sameBytes t) ∧
        (∀ pa, g.pa.wait = .gong pa → g.pa.live = true → g.pb.live = false → s.readNat g.pa.whead 2 = g.wid →
          s.recordsMet g.pa.whead 2 = [] → t.readNat g.pa.whead 2 = (now t).wid % 65536) ∧
        (g.scrBase + g.scrSize ≤ roleCap (s.core c).brr 1 →
          ∀ o, o < g.scrSize → s.scrRead gid o 1 = [Store.get 0 (now t).saved.scr o])) ∧
      (∀ h, g.deadline = false → g.pb.live = false → g.pa.live = true → g.pa.atHint = true → g.pa.hint = some h →
        (s.die (c / 32)).prectl.getLsbD 32 = false → Ends i s fun t => RecordHeld s → SavedNow s t gid c ∧
          (∀ r, hintV h r → (now t).vreg r = g.vreg r) ∧ (∀ r, hintS h r → (now t).sreg r = g.sreg r) ∧
          (∀ r l, l < 32 → ¬ hintV h r → ((now t).vreg r).at l = 0) ∧ (∀ r, ¬ hintS h r → (now t).sreg r = 0) ∧
          (now t).cregs = g.cregs ∧ (now t).kregs = g.kregs ∧ srs (now t) = srs g)) ∧
    (s.residents c = [(gid, g)] → g.ending = none → (s.core c).halted = false → s.readied (c / 32) ≠ [] → Savable s gid c →
      g.pa.live = true → g.pa.atHint = false → (∃ die k, g.pa.wait = .pager die k ∨ g.pa.wait = .fault die k) → g.pb.live = false →
        Ends (.swapOut c) s fun t => RecordHeld s → SavedNow s t gid c ∧ SameRegs g (now t)) ∧
    (∀ b, Ends (.debugStep ⟨c, n, b⟩ .mark) s fun t => now t = { g with debug := true } ∧ s.sameOutside t) ∧
    (∀ b, g.debug = true → (g.path b).live = true → (g.path b).wait = .debug →
      Ends (.debugStep ⟨c, n, b⟩ .step) s (fun t => (now t).path b = { g.path b with wait := .none, steps := some 1 } ∧ s.sameOutside t) ∧
      (∀ r v, Ends (.debugStep ⟨c, n, b⟩ (.sreg r v)) s fun t => (now t).sreg r = v ∧ (∀ x, x ≠ r → (now t).sreg x = g.sreg x) ∧
        (now t).path b = g.path b ∧ s.sameOutside t) ∧
      ∀ (u : Undo) (r : List Undo), g.undo = u :: r → (∀ x, r.head? = some x → x.ia ≠ u.ia) → Ends (.debugStepBack ⟨c, n, b⟩) s fun t =>
        (now t).undo = r ∧ ((now t).path b).pc = u.ia ∧ ((now t).path b).left = 0 ∧
          (u.mem = false → u.addr < 64 → (now t).sreg (BitVec.ofNat 6 u.addr) = BitVec.ofNat 64 (natOf u.old)) ∧
          (u.mem = false → 256 ≤ u.addr → u.addr < 512 → ∀ l, l < 32 → u.lanes.getLsbD l = true →
            ((now t).vreg (BitVec.ofNat 8 (u.addr - 256))).at l = BitVec.ofNat 32 (natOf ((u.old.drop (4 * l)).take 4))) ∧
          (u.mem = true → u.addr + u.old.length ≤ 2 ^ 52 → s.recordsMet u.addr u.old.length = [] → t.read u.addr u.old.length = u.old))) ∧
  (∀ (s : State) (gid k d r : Nat) (l : Launch), (Store.find s.groups gid).isSome = true →
    Store.findKey? s.groups (fun g => g.place == .saved d r) = some gid → s.readied d = [gid] →
    let g := s.grp gid
    let c := s.core k
    g.saved.ready ≠ none → g.saved.halted = false → s.launchOf g = some l → c.brr = l.brr → c.halted = false → c.failed = false →
      s.residents k = [] → c.bufs = [] → (∀ x ∈ s.cores, ∀ y ∈ x.2.cmds, y.gid ≠ gid) → (∀ e b a x m y, ((s.grp e).path b).wait ≠ .twait a x m y) →
      g.early = false → unchained g → g.v ≤ 8192 →
      c.deque.length < 2048 → upTo g.scrSize 128 ≤ roleCap c.brr 1 → 2048 * g.tobCnt ≤ roleCap c.brr 2 → Ends (.groupRestore k d r) s fun t => RecordHeld s →
        (t.grp gid).place = .res k 0 ∧ SameRegs g (t.grp gid) ∧ s.sameBytes t ∧ t.hunger k = 0 ∧
        ((∃ e ∈ c.deque, e.eid = g.eid) → (t.core k).deque = c.deque) ∧
        ((∀ e ∈ c.deque, e.eid ≠ g.eid) → (t.core k).deque = ⟨g.eid, g.launch, g.closure, g.ctags, .running, false, []⟩ :: c.deque) ∧
        (g.tobCnt = 0 → ∀ o, o < g.scrSize → t.scrRead gid o 1 = [Store.get 0 g.saved.scr o])) ∧
  (∀ (s : State) (n : Nat),
    let p := s.part n
    let mine (k : Nat) : Prop := k / 32 ∈ p.dies
    (p.halted = false → s.plat.toSpare = [] → Ends (.partitionHalt n) s fun t => (t.part n).halted = true ∧ s.sameBytes t ∧
      ∀ k, mine k → (t.core k).halted = true ∧ (t.core k).allow = [] ∧
        (∀ e ∈ (s.core k).allow, Instr.aret k e.pa e.amount ∈ t.agenda) ∧
        (∀ y ∈ (s.core k).lines, y.lease = true → y.pending = false → Instr.lret k y.pa y.data y.dirty y.tags ∈ t.agenda) ∧
        (∀ e ∈ s.groups, ∀ m, e.2.place = .res k m → Instr.groupSave ⟨k, m⟩ ∈ t.agenda)) ∧
    (p.swapped = true → p.lost = false → p.dies.Nodup → (∀ e ∈ s.groups, ∀ k m, e.2.place = .res k m → ¬ mine k) →
      Ends (.partitionSwapIn n) s fun t => (t.part n).halted = false ∧ (t.part n).swapped = false ∧ s.sameBytes t ∧
        (∀ k, mine k → t.core k = { Store.get {} p.area k with
          halted := false, fed := s.clock, cycle := (s.core k).cycle, failed := (s.core k).failed
          cmds := (Store.get {} p.area k).cmds ++ (s.core k).cmds }) ∧
        ∀ gid g d r, Store.find s.groups gid = some g → g.place = .saved d r → g.saved.halted = true →
          (Store.find s.launches g.launch).map (·.part) = some n →
          (t.grp gid).saved.halted = false ∧ (t.grp gid).saved.ready = some s.time ∧ Instr.groupRestore (32 * d) d r ∈ t.agenda) ∧
    (∀ k m d, p.lost = false → mine k → Instr.groupSave ⟨k, m⟩ ∈ s.agenda → d ∈ p.dies → (s.die d).wdctl.getLsbD 32 = true →
      Ends (.watchdogExpiry n) s fun t => (t.part n).lost = true ∧
        (∀ gid g, Store.find t.groups gid = some g → (Store.find s.launches g.launch).map (·.part) ≠ some n) ∧
        (∀ q, (Store.find p.queues q).isSome = true → (t.queue n q).state = 2) ∧
        ∀ e ∈ s.launches, e.2.part = n → e.2.done = false → Instr.packetComplete n e.2.queue e.2.num .aborted 0 ∈ t.agenda)) ∧
  (∀ (s : State) (pa gid : Nat) (r : Regroup), s.recorded pa = some gid → (Store.find s.groups gid).isSome = true →
    (s.grp gid).regroup = some r → s.recordsMet pa 2 = [] → (s.die (homeDie pa)).monitors = [] → Ends (.regrpTimeout pa) s fun t =>
      (t.grp gid).sreg r.d = 1 ∧ (t.grp gid).regroup = none ∧
        (t.grp gid).path r.b = { ((s.grp gid).path r.b).past 8 with wait := .none } ∧
        t.readNat pa 2 = 0 ∧ KeepsBytes s t (within pa 2))

/-! ### Exchange messages (06 R149-R168) -/

namespace Sys2Proof.Claim

/-- Die `d` is the one that an identifier names, in this package (01 R41, 06 R151). -/
def isDie (s : State) (id d : Nat) : Prop := id % 512 = s.pkg ∧ id / 4096 % 8 = d

/-- Die `d` has joined round `k` of a group, which has not ended there. -/
def Joins (s : State) (d : Nat) (xid : W64) (k : Nat) (x : XCtx) (f : XDesc) : Prop :=
  s.xctx d xid = some x ∧ x.xid = xid ∧ x.endpoint = true ∧ x.active = true ∧ x.ended = false ∧ x.round = k ∧ x.desc = some f

/-- `r` is the one record of round `k` that die `d` holds as arbiter or standby, and the round is not over there. -/
def Holds (s : State) (d : Nat) (xid : W64) (k : Nat) (r : XArb) : Prop :=
  (s.die d).xarbs.filter (fun a => a.xid == xid && a.round == k) = [r] ∧ r.gone = none ∧ r.desc.xid = xid

/-- The round is over there: 0 at its end, or the reason of its abort. -/
def IsOver (t : State) (d : Nat) (xid : W64) (k e : Nat) : Prop :=
  ∀ a ∈ (t.die d).xarbs, a.xid = xid → a.round = k → a.gone = some e

/-- No XWAIT that unbinds the group waits. -/
def noneUnbinds (s : State) (xid : W64) : Prop := ∀ g ∈ s.groups, ∀ b r, (g.2.path b).wait ≠ .exchange xid r true

/-- Two descriptors agree in what a DEMAND carries (06 Table 6.2). -/
def sameFields (a b : XDesc) : Prop :=
  a.n = b.n ∧ a.cs = b.cs ∧ a.segc = b.segc ∧ a.carry = b.carry ∧ a.arb = b.arb ∧ a.stby = b.stby ∧ a.xid = b.xid

/-- It holds none. -/
def HoldsNone (s : State) (d : Nat) (xid : W64) (k : Nat) : Prop := ∀ a ∈ (s.die d).xarbs, ¬ (a.xid = xid ∧ a.round = k)

/-- Every endpoint of a descriptor is sent a message. -/
def AllGet (t : State) (f : XDesc) (m : Nat → Instr) : Prop := ∀ e ∈ f.eps, m e ∈ t.agenda

/-- The round has ended at the endpoint, with this reason of ABORT if any. -/
def RoundOver (t : State) (d : Nat) (xid : W64) (abort : Option Nat) : Prop :=
  ∃ y, t.xctx d xid = some y ∧ y.ended = true ∧ y.abort = abort

/-- Change `j` is complete at the endpoint, and the leader is told. -/
def Rung (t : State) (d id : Nat) (xid : W64) (k j lead : Nat) : Prop :=
  Instr.chdone lead id xid k j ∈ t.agenda ∧ ∃ y, t.xctx d xid = some y ∧ y.last = some j

end Sys2Proof.Claim

/-- R151 to R159, R162 to R168: each exchange message and timer at the die that it names: the arbiter takes rows, starts a full
round, and counts the answers to its grants and rings; an endpoint answers every grant, runs its slots when a change rings,
writes, refuses and answers segments, and reports the change when both slots have ended; aborts end the round, with the XWAITs on
it, and one that comes before the first demand is kept; the standby takes over from a lost arbiter. A message for another package
leaves, and a segment that no link can carry is refused. -/
def Obligations.ExchangeEvents : Prop :=
  ∀ (s : State) (id d src k : Nat) (xid : W64) (x : XCtx) (f : XDesc) (r : XArb) (g : XGrant) (row : List Nat) (bs : List Byte)
      (j n off code : Nat) (b c : Bool) (l : Option Nat),
    (id % 512 ≠ s.pkg → ∀ i ∈ [Instr.demand id src k row f, .dack id src xid k, .layout ⟨id, src⟩ xid k n, .grant ⟨id, src⟩ xid k g b,
        .gack id src xid k j, .ring ⟨id, src⟩ xid k j b c, .skipseg ⟨id, src⟩ xid k g j n, .sack ⟨id, src⟩ xid k g j n,
        .snak ⟨id, src⟩ xid k g j n code, .short ⟨id, src⟩ xid k g, .chdone id src xid k j, .xabort id src xid k n b, .suspect id src xid k l,
        .arbstop ⟨id, src⟩ xid k, .lastq ⟨id, src⟩ xid k, .lasta id src xid k l],
      exec i s = .next { s with outbox := s.outbox ++ [i] }) ∧
    (id % 512 ≠ s.pkg →
      ((s.linkFor 0 0).isSome = true → exec (.seg ⟨id, src⟩ xid k g n bs) s = .next { s with outbox := s.outbox ++ [.seg ⟨id, src⟩ xid k g n bs] }) ∧
      (s.linkFor 0 0 = none → Ends (.seg ⟨id, src⟩ xid k g n bs) s fun t => Instr.snak ⟨src, id⟩ xid k g n bs.length 8 ∈ t.agenda)) ∧
    (isDie s id d → id = d * 4096 + s.pkg → d < 8 → s.pkg < 512 →
      let sends (t : State) (i : Instr) : Prop := i ∈ t.agenda
      let at_ (t : State) (P : XCtx → Prop) : Prop := ∃ y, t.xctx d xid = some y ∧ P y
      let lead (r : XArb) : Prop := Holds s d xid k r ∧ r.started = true ∧ (r.standby = false ∨ r.acting = true)
      -- the rows
      (f.xid = xid → id = f.arb → f.eps.findIdx? (· == src) = some n →
        (HoldsNone s d xid k → (s.xctx d xid).isSome = true ∨ (s.die d).xctxs.length < 8 → Ends (.demand id src k row f) s fun t =>
          sends t (.dack src id xid k) ∧ ∃ a, Holds t d xid k a ∧ a.desc = f ∧ a.rows = [(n, row)] ∧ a.started = false ∧ a.standby = false) ∧
        (HoldsNone s d xid k → s.xctx d xid = none → 8 ≤ (s.die d).xctxs.length → Ends (.demand id src k row f) s fun t =>
          AllGet t f fun e => .xabort e id xid k 6 false) ∧
        (Holds s d xid k r → r.standby = false → ¬ sameFields r.desc f → Ends (.demand id src k row f) s fun t =>
          AllGet t r.desc (fun e => .xabort e id xid k 1 false) ∧ IsOver t d xid k 1) ∧
        (Holds s d xid k r → r.standby = false → sameFields r.desc f → r.started = false → r.ringed = none → (Store.put r.rows n row).length = f.n →
          let rows := Store.put r.rows n row
          let z := ({ r with rows := rows }.begin).change
          let p := r.desc.eps
          Ends (.demand id src k row f) s fun t => sends t (.dack src id xid k) ∧
            (∀ e q, p[q]? = some e → sends t (.layout ⟨e, id⟩ xid k ((List.range f.n).map fun a => (Store.get [] rows a).getD q 0).sum)) ∧
            (∀ h ∈ z.current, sends t (.grant ⟨p.getD h.src 0, id⟩ xid k h false) ∧ sends t (.grant ⟨p.getD h.dst 0, id⟩ xid k h false)) ∧
            (z.current = [] → AllGet t r.desc fun e => .ring ⟨e, id⟩ xid k 0 true false))) ∧
      ((r.change).current.Pairwise (fun u v => u.src ≠ v.src ∧ u.dst ≠ v.dst) ∧ ∀ h ∈ (r.change).current,
        h.src ≠ h.dst ∧ h.change = r.j ∧ h.src < r.desc.n ∧ h.dst < r.desc.n ∧ h.bytes ≤ 4096 * r.desc.cs) ∧
      (∀ (p : XPost) (q : Nat), (s.die d).xposts = [p] → p.xid = xid → p.round = k → src ≠ q →
        (p.dacks = [src, q] → Ends (.dack id src xid k) s fun t => (t.die d).xposts = [{ p with dacks := [q] }]) ∧
        (p.dacks = [src] → Ends (.dack id src xid k) s fun t =>
          sends t (.commandComplete p.cmd.1 p.cmd.2.1 p.cmd.2.2) ∧ (t.die d).xposts = [])) ∧
      (Joins s d xid k x f →
        (n = 0 ∨ CapPasses x.recv [1] x.recv.cursor n → Ends (.layout ⟨id, src⟩ xid k n) s fun t => at_ t fun y => y.recvBad = none) ∧
        (0 < n → x.recv.tag = false → Ends (.layout ⟨id, src⟩ xid k n) s fun t => at_ t fun y => y.recvBad = some 1)) ∧
      (Holds s d xid k r → r.standby = false → r.started = false → r.desc.postt ≠ 0 → Ends (.posttExpiry id xid k) s fun t =>
        AllGet t r.desc (fun e => .xabort e id xid k 3 false) ∧ IsOver t d xid k 3) ∧
      (Holds s d xid k r → r.standby = false → Ends (.xabort id src xid k n true) s fun t =>
        AllGet t r.desc (fun e => .xabort e id xid k n false) ∧ IsOver t d xid k n) ∧
      ((s.die d).xarbs = [] → Ends (.xabort id src xid k n true) s fun t =>
        ∃ a ∈ (t.die d).xarbs, a.xid = xid ∧ a.round = k ∧ a.standby = false ∧ a.gone = some n) ∧
      (Joins s d xid k x f → x.stbyOnly = false → Ends (.xabort id src xid k n false) s fun t =>
        (noneUnbinds s xid → RoundOver t d xid (some n)) ∧
        (∀ p, x.xsend = some p → sends t (.commandComplete p.1 p.2.1 p.2.2)) ∧
        (Store.rising s.groups = true → n < 256 → k < 2 ^ 32 → ∀ gid q v u, (Store.find s.groups gid).isSome = true →
          dieOf (s.grp gid).core = d → (s.grp gid).resident = true → ((s.grp gid).path q).live = true →
          ((s.grp gid).path q).wait = .exchange xid v u →
          (t.grp gid).path q = { ((s.grp gid).path q).past 8 with wait := .none } ∧
            ((t.grp gid).sreg v).toNat / 2 ^ 32 = k ∧ ((t.grp gid).sreg v).toNat / 2 ^ 8 % 2 ^ 24 = n ∧
            ((t.grp gid).sreg v).getLsbD 6 = true ∧ ((t.grp gid).sreg v).getLsbD 0 = true)) ∧
      -- grants and rings
      (Joins s d xid k x f → x.stbyOnly = false ∨ b = true → Ends (.grant ⟨id, src⟩ xid k g b) s fun t =>
        sends t (.gack (if b then f.stby else f.arb) id xid k g.change) ∧
        (g ∈ x.grants → at_ t fun y => y.grants = x.grants) ∧
        (g ∉ x.grants → x.last = none → at_ t fun y => y.grants = x.grants ++ [g])) ∧
      (lead r → r.j = j →
        (1 < r.gacks → Ends (.gack id src xid k j) s fun t => Holds t d xid k { r with gacks := r.gacks - 1 }) ∧
        (r.gacks = 1 → r.ringed = none → Ends (.gack id src xid k j) s fun t =>
          (r.current ≠ [] → AllGet t r.desc fun e => .ring ⟨e, id⟩ xid k j false r.standby) ∧
          (r.current = [] → AllGet t r.desc (fun e => .ring ⟨e, id⟩ xid k j true r.standby) ∧ IsOver t d xid k 0))) ∧
      (lead r → r.ringed = some j → r.desc.eps.findIdx? (· == src) = some n → r.chdone.contains n = false →
        (0 < r.gacks → Ends (.chdone id src xid k j) s fun t => ∃ a, Holds t d xid k a ∧ a.chdone.contains n = true ∧ a.gacks = r.gacks) ∧
        (r.gacks = 0 → (insertNat r.chdone n).length = r.desc.n → Ends (.chdone id src xid k j) s fun t =>
          (r.current ≠ [] → AllGet t r.desc fun e => .ring ⟨e, id⟩ xid k r.j false r.standby) ∧
          (r.current = [] → AllGet t r.desc (fun e => .ring ⟨e, id⟩ xid k r.j true r.standby) ∧ IsOver t d xid k 0))) ∧
      (Joins s d xid k x f → x.xsend = none → (s.die d).xarbs = [] → x.stbyOnly = false → noneUnbinds s xid → Ends (.ring ⟨id, src⟩ xid k j true b) s fun t =>
        RoundOver t d xid none ∧ at_ t fun y => y.failover = b ∧ y.left = x.left) ∧
      (Joins s d xid k x f → x.stbyOnly = false → x.lastq = false → x.last = none → (s.die d).xarbs = [] →
        (x.grants = [] → Ends (.ring ⟨id, src⟩ xid k j false b) s fun t => Rung t d id xid k j f.arb ∧ at_ t fun y => y.rung = some j) ∧
        (x.grants = [g] → g.change = j → g.dst = x.self → g.src ≠ x.self → x.recvSlot = none → Ends (.ring ⟨id, src⟩ xid k j false b) s fun t =>
          at_ t fun y => y.rung = some j ∧ y.last = none) ∧
        (∀ (a : List Nat) (u : State), x.grants = [g] → g.change = j → g.src = x.self → g.dst ≠ x.self → x.carry = [] → x.send = none →
          x.acts = some a → 0 < g.bytes → g.bytes ≤ 4096 * 2 ^ f.segc → g.poff + g.bytes ≤ a.getD g.dst 0 →
          ((s.setX d { x with rung := some j, suspected := false }).engRead ⟨d, x.sendAsid, .ca, 3, 0⟩
            [(x.sendCap.cursor + (a.take g.dst).sum + g.poff, g.bytes)]) = (u, some (.ok bs)) →
          u.xctx d xid = (s.setX d { x with rung := some j, suspected := false }).xctx d xid → Ends (.ring ⟨id, src⟩ xid k j false b) s fun t =>
            sends t (.seg ⟨f.eps.getD g.dst 0, id⟩ xid k g 0 bs) ∧
              at_ t fun y => ∃ z, y.send = some z ∧ z.g = g ∧ z.next = g.bytes ∧ z.wait = 1)) ∧
      -- the receiver
      (Joins s d xid k x f → x.grants = [g] → g.change = j → g.dst = x.self → g.src ≠ x.self → x.rung = some j → x.last = none →
        x.stbyOnly = false → x.lastq = false →
        let sender := f.eps.getD g.src 0
        let reached := src % 512 = s.pkg ∨ (s.linkFor 0 0).isSome = true
        (∀ e, (reached ∧ x.recvBad = some e) ∨ (¬ reached ∧ e = 8) → Ends (.seg ⟨id, src⟩ xid k g n bs) s fun t =>
          sends t (.snak ⟨sender, id⟩ xid k g n bs.length e) ∧ s.sameBytes t ∧ at_ t fun y => y.partSt = true) ∧
        (∀ (v : State) (q : Trans), reached → x.recvBad = none → 0 < bs.length → (x.recv.cursor + g.roff + n) % 2 ^ 15 + bs.length ≤ 2 ^ 15 →
          s.translate d x.asid (x.recv.cursor + g.roff + n) .store = (v, .ok q) → q.page.mt = 1 →
          (∀ i, i < bs.length → mtOf (localOf (q.pa + i)) = some 1 ∧ homeDie (q.pa + i) = homeDie q.pa) →
          v.recordsMet q.pa bs.length = [] → Ends (.seg ⟨id, src⟩ xid k g n bs) s fun t => t.read q.pa bs.length = bs ∧
            KeepsBytes v t (within q.pa bs.length) ∧ sends t (.skipseg ⟨id, src⟩ xid k g n bs.length) ∧
            at_ t fun y => Store.get 0 y.rcvd g.src = Store.get 0 x.rcvd g.src + bs.length) ∧
        (∀ q : Trans, reached → x.recvBad = none → 0 < bs.length → (x.recv.cursor + g.roff + n) % 2 ^ 15 + bs.length ≤ 2 ^ 15 →
          Mapped s d x.asid (x.recv.cursor + g.roff + n) .store q → inCmem q.pa bs.length → s.recordsMet q.pa bs.length = [] →
          Ends (.seg ⟨id, src⟩ xid k g n bs) s fun t => t.read q.pa bs.length = bs ∧ KeepsBytes s t (within q.pa bs.length) ∧
            sends t (.skipseg ⟨id, src⟩ xid k g n bs.length) ∧
            at_ t fun y => Store.get 0 y.rcvd g.src = Store.get 0 x.rcvd g.src + bs.length) ∧
        (∀ z, x.recvSlot = some z → z.g = g → z.ended = false →
          (z.acct + n < g.bytes → Ends (.skipseg ⟨id, src⟩ xid k g j n) s fun t => sends t (.sack ⟨sender, id⟩ xid k g j n) ∧
            at_ t fun y => y.recvSlot = some { z with acct := z.acct + n } ∧ y.last = none) ∧
          (g.bytes ≤ z.acct + n → Ends (.skipseg ⟨id, src⟩ xid k g j n) s fun t => sends t (.sack ⟨sender, id⟩ xid k g j n) ∧
            Rung t d id xid k j f.arb)) ∧
        ((s.die d).pends = [] → Ends (.short ⟨id, src⟩ xid k g) s fun t => Rung t d id xid k j f.arb)) ∧
      -- the sender
      (∀ (a : List Nat) (z : XSlot), Joins s d xid k x f → x.grants = [g] → g.change = j → g.src = x.self → g.dst ≠ x.self →
        x.rung = some j → x.last = none → x.stbyOnly = false → x.lastq = false → x.acts = some a → a ≠ [] → x.send = some z →
        z.g = g → z.ended = false → z.next = g.bytes → g.poff + g.bytes ≤ x.carry.getD g.dst 0 + a.getD g.dst 0 → g.bytes ≠ 0 →
        (1 < z.wait → Ends (.sack ⟨id, src⟩ xid k g n code) s (fun t => at_ t fun y => y.send = some { z with wait := z.wait - 1 }) ∧
          (x.faults.length < 64 → Ends (.snak ⟨id, src⟩ xid k g off n code) s fun t => at_ t fun y =>
            y.send = some { z with wait := z.wait - 1 } ∧ y.partSt = true ∧
              y.faults = x.faults ++ [⟨n, g.poff + off, g.roff + off, code, false, g.dst⟩])) ∧
        (z.wait = 1 → Ends (.sack ⟨id, src⟩ xid k g n code) s fun t => Rung t d id xid k j f.arb)) ∧
      -- failover
      (Joins s d xid k x f → x.last = some j → x.rung = some j → x.suspected = false → x.stbyOnly = false →
        Ends (.ringtExpiry id xid k) s fun t => sends t (.suspect f.stby id xid k (some j)) ∧ at_ t fun y => y.suspected = true) ∧
      (Holds s d xid k r → r.standby = true → r.acting = false → r.started = true →
        ∀ i ∈ [Instr.suspect id src xid k l, .standbyRingtExpiry id xid k], i = .suspect id src xid k l ∨ r.ringed ≠ none →
          Ends i s fun t => sends t (.arbstop ⟨r.desc.arb, id⟩ xid k) ∧ AllGet t r.desc (fun e => .lastq ⟨e, id⟩ xid k) ∧
            Holds t d xid k { r with acting := true, lastas := [] }) ∧
      (Holds s d xid k r → r.standby = false → Ends (.arbstop ⟨id, src⟩ xid k) s fun t => IsOver t d xid k 0) ∧
      (Joins s d xid k x f → x.rung = none → x.recvSlot = none → x.stbyOnly = false → Ends (.lastq ⟨id, src⟩ xid k) s fun t =>
        sends t (.lasta f.stby id xid k x.last) ∧ at_ t fun y => y.stbyOnly = true) ∧
      (Holds s d xid k r → r.standby = true → r.acting = true → r.desc.eps.findIdx? (· == src) = some n →
        (Store.put r.lastas n l).length < r.desc.n → Ends (.lasta id src xid k l) s fun t =>
          Holds t d xid k { r with lastas := Store.put r.lastas n l }) ∧
      (Joins s d xid k x f → x.suspected = true → x.lastq = false → noneUnbinds s xid → Ends (.arblostExpiry id xid k) s fun t =>
        RoundOver t d xid (some 4) ∧ sends t (.xabort f.arb id xid k 4 true)))

/-! ### Registers, the loader, boot and errors (02 R67, R68, R81; 13 R347-R351; 20 R421-R424, R430, R432) -/

namespace Sys2Proof.Claim

/-- A write reaches the bits of a mask. -/
def masked (old v m : W64) : W64 := (old &&& ~~~m) ||| (v &&& m)

/-- A write of a described register: its mask's bits change, and no byte of memory. -/
def WritesReg (s : State) (a : Nat) (m : W64) (get : State → W64) : Prop :=
  ∀ v, Ends (.registerWrite a v) s fun t => get t = masked (get s) v m ∧ s.sameBytes t

/-- Slot 1 of flash holds the training record in use (20 R424). -/
def slot1InUse (p : Platform) : Prop :=
  p.slot1.valid = true ∧ p.slot1.fingerprint = p.fingerprint ∧
    (p.slot0.valid = false ∨ p.slot0.fingerprint ≠ p.fingerprint ∨ p.slot0.writes < p.slot1.writes)

/-- The threshold of a structure (20 Table 20.2). -/
def limit (struct : Nat) : Nat :=
  if struct = 0 then 4 else if struct = 4 then 8 else if struct = 5 ∨ struct = 6 then 1024 else 16

/-- A lease as it stands at a die. -/
def leaseOf (s : State) (d : Nat) : Lease := (s.die d).lease

/-- A message to every die of the package. -/
def ToAll (t : State) (m : Nat → Instr) : Prop := ∀ e, e < 8 → m e ∈ t.agenda

/-- The sideband has answered; `none` is a NACK (20 R434). -/
def Answered (s t : State) (a : Option (List Byte)) : Prop := t.plat.answers = a :: s.plat.answers ∧ s.sameBytes t

/-- The wear record of a unit has been written (20 R433, Table 20.3). -/
def WearWritten (s t : State) (u : Nat) : Prop :=
  let w := s.plat.wearOf u
  let x := t.plat.wearOf u
  let f := x.flash.toNat
  x.wseq = w.wseq + 1 ∧ f % 2 ^ 8 = 1 ∧ f / 2 ^ 8 % 2 ^ 8 = u % 256 ∧ f / 2 ^ 96 % 2 ^ 32 = w.t30 % 2 ^ 32 ∧
    f / 2 ^ 128 % 2 ^ 32 = w.t50 % 2 ^ 32 ∧ f / 2 ^ 160 % 2 ^ 32 = w.t70 % 2 ^ 32 ∧ f / 2 ^ 192 % 2 ^ 32 = w.pwr % 2 ^ 32 ∧
    f / 2 ^ 224 % 2 ^ 32 = w.h95 % 2 ^ 32 ∧ f / 2 ^ 256 = (w.wseq + 1) % 2 ^ 64 ∧ x.sig = Config.slhSign 1 1 (bytesOf 64 f)

end Sys2Proof.Claim

/-- R67, R68, R81, R189, R375, R376, R396, R399, R403, R430: each register of the map takes the bits that its layout gives it, by
firmware or by an MMIO store, and reads back; a register that no rule describes is refused. R347 to R351: an image is refused and
measured as refused, or copied and measured. R421 to R424: boot's stages, recovery, training slots and power loss. R171, R128, R20,
R432: failures and errors. The order in which a refused image is recorded, and what survives a power loss, are the model's choices
(notes/assumptions). -/
def Obligations.PlatformEvents : Prop :=
  (∀ (s : State) (die part q n : Nat) (v : W64) (r : Req) (bs : List Byte), die < 8 → part < 8 → q < 64 →
    let a := 0x20000000000 + die * 0x1000000
    let b := 0x20040000000 + part * 0x4000 + q * 0x100
    let e := 0x20040080000 + part * 0x100
    let d (t : State) : Die := t.die die
    let x (t : State) : Queue := t.queue part q
    let kept (c : Nat → Prop) (t : State) : Prop :=
      ∀ y m, (⟨y, .retained m⟩ : L2Line) ∈ (d t).l2 ↔ (⟨y, .retained m⟩ : L2Line) ∈ (d s).l2 ∧ c m
    WritesReg s a 0x1F (fun t => (d t).l2ctl) ∧ WritesReg s (a + 0x200) 0xFF01FFFF0000FFFF (fun t => (d t).lth) ∧
    WritesReg s (a + 0x300) 0x1FFFFFFFF (fun t => (d t).prectl) ∧ WritesReg s (a + 0x308) 0x1FFFFFFFF (fun t => (d t).wdctl) ∧
    WritesReg s (a + 0x310) 0x000FFFFFFFFFF00F (fun t => (d t).pgbase) ∧
    WritesReg s (a + 0x318) 0xFFFFFFFFFFFFFFFF (fun t => (d t).pgack) ∧ exec (.registerWrite (a + 0x320) v) s = .next s ∧
    WritesReg s b 0x000FFFFFFFFFF000 (fun t => (x t).qbase) ∧ WritesReg s (b + 0x10) 0xFFFFFFFFFFFFFFFF (fun t => (x t).opmask) ∧
    (s.outsideDone = true → WritesReg s (b + 0x18) 0xFFFFFFFF (fun t => (x t).doorbell.zeroExtend 64)) ∧
    WritesReg s (b + 0x30) 0x000FFFFFFFFFF00F (fun t => (x t).cplbase) ∧
    WritesReg s (b + 0x38) 0xFFFFFFFF (fun t => (x t).cplack.zeroExtend 64) ∧
    WritesReg s (b + 0x40) 0x1FFFFFFFF (fun t => (x t).ctrl) ∧ WritesReg s (b + 0x50) 0xFFFFFFFFFFFFFFFC (fun t => (x t).irqaddr) ∧
    WritesReg s (b + 0x58) 0xFFFFFFFF (fun t => (x t).irqdata) ∧
    (n < 8 → WritesReg s (b + 0x80 + 16 * n) 0xFFFFFFFFFFFF8000 (fun t => Store.get 0 (x t).ranges (2 * n)) ∧
      WritesReg s (b + 0x88 + 16 * n) 0xFFFFFFFFFFFFFFFF (fun t => Store.get 0 (x t).ranges (2 * n + 1)) ∧
      WritesReg s (a + 0x100 + 16 * n) 0x000FFFFFFFFF8001 (fun t => (Store.get 0 (d t).res n).extractLsb' 0 64) ∧
      WritesReg s (a + 0x108 + 16 * n) 0x000FFFFFFFFF8F0F (fun t => (Store.get 0 (d t).res n).extractLsb' 64 64) ∧
      Ends (.resWrite die n false v) s (fun t =>
        (Store.get 0 (d t).res n).extractLsb' 0 64 = masked ((Store.get 0 (d s).res n).extractLsb' 0 64) v 0x000FFFFFFFFF8001 ∧
        ((v &&& 0x000FFFFFFFFF8001) ≠ (Store.get 0 (d s).res n).extractLsb' 0 64 &&& 0x000FFFFFFFFF8001 → kept (· ≠ n) t) ∧
        s.sameBytes t)) ∧
    (v.getLsbD 21 = true → (x s).qcfg.getLsbD 21 = false → Ends (.registerWrite (b + 8) v) s fun t =>
      (x t).consumed = 1 ∧ (x t).doorbell = 1 ∧ (x t).qtl = 0 ∧ (x t).cseq = 1) ∧
    (v.getLsbD 21 = false → Ends (.registerWrite (b + 8) v) s fun t => (x t).state = 0) ∧
    WritesReg s e 0x000FFFFFFFFFF00F (fun t => (t.part part).evbase) ∧ WritesReg s (e + 8) 0xFFFFFFFFFFFFFFFF (fun t => (t.part part).evack) ∧
    exec (.registerWrite (e + 16) v) s = .next s ∧
    (n < 0x20000000000 ∨ 0x20040080800 ≤ n → exec (.registerWrite n v) s = .refused (.unknownRegister n)) ∧
    Ends (.l2ctlWrite die v) s (fun t => (d t).l2ctl = masked (d s).l2ctl v 0x1F ∧
      kept (fun m => v.getLsbD 4 = (d s).l2ctl.getLsbD 4 ∨ (m = 8 ↔ v.getLsbD 4 = true)) t) ∧
    (localOf r.pa = a + 0x300 → r.len = 8 →
      (r.act = .load → Ends (.mmioAccess r) s fun t => Returned s t r (bytesOf 8 (d s).prectl.toNat) false ∧ s.sameBytes t) ∧
      (r.act = .store bs → bs.length = 8 → Ends (.mmioAccess r) s fun t =>
        (d t).prectl = masked (d s).prectl (BitVec.ofNat 64 (natOf bs)) 0x1FFFFFFFF ∧ s.sameBytes t)) ∧
    (localOf r.pa = a + 8 → r.len = 8 → exec (.mmioAccess r) s = .refused (.unknownRegister (a + 8)))) ∧
  (∀ (s : State) (part asid ctx base f : Nat) (frames tables : List Nat) (img : Image) (g : Segment),
    let header := img.file.take 256
    let pset := natOf header / 2 ^ 112 % 2 ^ 8
    let pk := ((header.drop 16).take 64).take (16 + 16 * pset)
    let i : Instr := .imageLoad part asid base ⟨ctx, frames, tables⟩ img
    let hashed := Config.shake256 g.bytes = BitVec.ofNat 512 (natOf (g.entry.drop 64))
    let good := hashed ∧ Config.slhVerify pset pk g.entry g.sig = true
    let extended (t : State) (bs : List Byte) : Prop := (t.part part).ar = Config.shake256 (bytesOf 64 (s.part part).ar.toNat ++ bs)
    (img.file.length < 256 ∨ natOf (img.file.take 8) ≠ 0x01000049524F4556 ∨ natOf header / 2 ^ 96 % 2 ^ 16 = 0 → Ends i s fun t =>
      extended t (List.replicate 64 0xFF) ∧ t.plat.loadErrs = s.plat.loadErrs ++ [(part, 0)]) ∧
    (s.imageOk img = true → imgSegs img = [g] →
      (¬ good → Ends i s fun t => extended t (List.replicate 64 0xFF) ∧ t.plat.loadErrs = s.plat.loadErrs ++ [(part, 0)]) ∧
      (good → Ends i s fun t => extended t g.entry ∧ t.plat.loadErrs = s.plat.loadErrs ∧
        (let v := natOf (g.entry.take 128) / 2 ^ 64 % 2 ^ 64
        Store.find s.asids asid = none → frames = [f] → tables = [] → ctx + 64 ≤ f ∨ f + 2 ^ 15 ≤ ctx → base % 2 ^ 15 = 0 →
          0 < g.bytes.length → v + g.bytes.length ≤ 2 ^ 15 → (∀ d, (s.die d).pinned = [] ∧ ∀ e ∈ (s.die d).dirs, e.lease = none) →
          Store.find t.asids asid = some ctx ∧ t.readNat (ctx + 42) 2 = asid % 2 ^ 16 ∧ t.read (f + v) g.bytes.length = g.bytes)))) ∧
  (∀ (s : State) (l : List (Nat × Nat)) (image sig : List Byte),
    let p := s.plat
    let ok (im sg : List Byte) : Prop := Config.slhVerify Config.romKey.1 Config.romKey.2 im sg = true
    (p.powered = false → Ends .powerOn s fun t => t.plat.powered = true ∧
      (ok p.flashImg p.flashSig → t.plat.stage = 1 ∧ t.plat.recovery = false ∧ t.plat.image = p.flashImg) ∧
      (¬ ok p.flashImg p.flashSig → t.plat.stage = 0 ∧ t.plat.recovery = true) ∧
      ∀ u, u < 24 → (t.plat.wearOf u).pwr = (p.wearOf u).pwr + 1) ∧
    (p.recovery = true → ok image sig → Ends (.recoveryImageTransfer image sig) s fun t => Answered s t (some []) ∧
      t.plat.stage = 1 ∧ t.plat.recovery = false ∧ t.plat.image = image ∧ t.plat.flashImg = p.flashImg ∧ t.plat.flashSig = p.flashSig) ∧
    (p.recovery = true → ¬ ok image sig → Ends (.recoveryImageTransfer image sig) s fun t => t.plat.recovery = true ∧ t.plat.stage = p.stage) ∧
    (p.recovery = false → Ends (.recoveryImageTransfer image sig) s fun t => Answered s t none ∧ t.plat.stage = p.stage) ∧
    (p.powered = true → p.stage = 1 → slot1InUse p → Ends (.quickEyeCheck l) s fun t => t.plat.stage = 2 ∧
      ∀ n, n ∈ t.plat.failedLanes ↔ ∃ a, (n, a) ∈ l ∧ ∀ b, p.slot1.eyes.find? (fun e => e.1 == n) = some (n, b) → 100 * a < 70 * b) ∧
    (p.powered = true → p.stage = 2 → p.failedLanes = [] → exec (.fullTraining l) s = .next { s with plat := { p with stage := 3 } }) ∧
    (p.powered = true → p.stage = 2 → p.failedLanes ≠ [] → slot1InUse p → Ends (.fullTraining l) s fun t => t.plat.stage = 3 ∧
      t.plat.slot1 = p.slot1 ∧ t.plat.slot0.valid = true ∧ t.plat.slot0.fingerprint = p.fingerprint ∧ p.slot1.writes < t.plat.slot0.writes ∧
      (∀ e ∈ l, e.1 ∈ p.failedLanes → e ∈ t.plat.slot0.eyes) ∧ ∀ e ∈ p.slot1.eyes, e.1 ∉ p.failedLanes → e ∈ t.plat.slot0.eyes) ∧
    (p.powered = true → p.stage = 3 → Ends (.partitionBuild l) s fun t => t.plat.stage = 4 ∧ (∀ e ∈ l, e.1 ∈ (t.part e.2).dies) ∧
      (∀ d, d < 8 → (s.die d).failed = false → leaseOf t d = { zeroed := true } ∧ ToAll t fun e => .claim e d 1) ∧
      ∀ d o, d < 8 → o < 0x4000000 → t.readByte (s.pkg * 2 ^ 43 + 0x10000000000 + d * 0x4000000 + o) = 0) ∧
    Ends .powerLoss s (fun t => t.groups = [] ∧ t.cores = [] ∧ t.parts = [] ∧ t.plat.powered = false ∧ t.plat.stage = 0 ∧
      t.plat.slot0 = p.slot0 ∧ t.plat.slot1 = p.slot1 ∧ t.plat.flashImg = p.flashImg ∧
      (∀ a, pkgOf a = s.pkg → mtOf (localOf a) ≠ some 2 → t.readByte a = 0) ∧ (∀ a, pkgOf a ≠ s.pkg → t.readByte a = s.readByte a) ∧
      ∀ u, (t.plat.wearOf u).pwr = (p.wearOf u).pwr ∧ (t.plat.wearOf u).h95 = (p.wearOf u).flash.toNat / 2 ^ 224 % 2 ^ 32)) ∧
  (∀ (s : State) (r : Req) (o : OpRec) (u : ErrUnit) (spare whole : Bool) (k n m : Nat) (gs : List Nat),
    let noSpare := !spare
    (Instr.remoteAccess r ∈ s.agenda → Store.find s.ops r.op = some o → o.out = 1 → o.parked = false → o.bad = none → o.after = [] →
      Ends (.remoteUnreachable r) s fun t => (∃ y, Store.find t.ops r.op = some y ∧ y.out = 0 ∧ y.bad = some ⟨0x28, BitVec.ofNat 64 r.va⟩ ∧
          (r.lane < 32 → o.once = false → y.badMask.getLsbD r.lane = true)) ∧ Instr.countedComplete r.op ∈ t.agenda ∧
        (∃ f : FaultRec, Instr.faultRecord (r.core / 32) f ∈ t.agenda ∧ f.kind = 3 ∧ f.cause = 0x28 ∧ f.asid = r.asid) ∧ s.sameBytes t) ∧
    Ends (.coreFailure k whole) s (fun t => (∀ c, c = k ∨ (whole = true ∧ c / 32 = k / 32) →
        (t.core c).failed = true ∧ (t.core c).allow = [] ∧ (t.core c).areqs = [] ∧ (t.core c).await = []) ∧
      (whole = true → (t.die (k / 32)).failed = true)) ∧
    Ends (.linkFailure k) s (fun t => k ∈ t.plat.linksDown ∧ { t with plat := s.plat } = s) ∧
    Ends (.moduleFailure k) s (fun t => k ∈ t.plat.modulesDown ∧ { t with plat := s.plat } = s) ∧
    (∀ i ∈ [Instr.correctedError u spare, .flitCrcFail u spare],
      ((s.plat.errors.find? fun e => e.1 == u) = some (u, n) ∨ (n = 0 ∧ ∀ e ∈ s.plat.errors, e.1 ≠ u)) → Ends i s fun t =>
        (t.plat.errors.find? fun e => e.1 == u) = some (u, n + 1) ∧
        (n + 1 ≠ limit u.struct → t.plat.toSpare = s.plat.toSpare ∧ t.plat.spared = s.plat.spared) ∧
        (n + 1 = limit u.struct → s.partOfDie u.die = none → (u, noSpare) ∈ t.plat.spared) ∧
        (n + 1 = limit u.struct → s.partOfDie u.die = some m → (u, noSpare) ∈ t.plat.toSpare ∧ t.plat.spared = s.plat.spared)) ∧
    Ends (.errorWindowEnd k) s (fun t => ∀ e, e ∈ t.plat.errors ↔ e ∈ s.plat.errors ∧ e.1.die ≠ k) ∧
    (s.partOfDie u.die = none → Ends (.uncorrectedError u spare gs) s fun t => (u, noSpare) ∈ t.plat.spared ∧ s.sameBytes t ∧
      ∀ g ∈ gs, (g < 2 ^ 52 → g ∈ t.poison ∧ g ∉ t.tags) ∧
        (2 ^ 52 ≤ g → (g - 2 ^ 52) % 2 ^ 20 ∈ (t.core ((g - 2 ^ 52) / 2 ^ 20)).lpoison ∧
          (g - 2 ^ 52) % 2 ^ 20 ∉ (t.core ((g - 2 ^ 52) / 2 ^ 20)).ltags)) ∧
    (s.partOfDie u.die = some m →
      let p := s.part m
      let a := p.evbase.toNat / 2 ^ 12 % 2 ^ 40 * 2 ^ 12 + p.eseq % 2 ^ (p.evbase.toNat % 16 + 4) * 32
      let full := (p.eseq + 2 ^ 64 - p.evack.toNat - 1) % 2 ^ 64 = 2 ^ (p.evbase.toNat % 16 + 4)
      Ends (.uncorrectedError u spare gs) s fun t => (u, noSpare) ∈ t.plat.spared ∧ (t.part m).eseq = p.eseq + 1 ∧
        (p.evbase = 0 ∨ full → (t.part m).evlost = p.evlost + 1 ∧ s.sameBytes t) ∧
        (p.evbase ≠ 0 → ¬ full → (∀ d, ∀ e ∈ (s.die d).dirs, e.lease = none) → s.recordsMet a 32 = [] → KeepsBytes s t (within a 32) ∧ t.readNat a 1 = 4 ∧ t.readNat (a + 5) 1 = m % 256 ∧
          t.readNat (a + 8) 1 = 2 ^ u.die % 256 ∧ t.readNat (a + 24) 8 = p.eseq % 2 ^ 64 ∧
          t.readNat (a + 16) 8 / 2 ^ 63 = (if spare then 0 else 1) ∧ t.readNat (a + 16) 8 % 256 = u.struct % 256)))

/-- R425 to R428: the leader renews, acknowledgements and lapses are taken, claims are accepted by epoch and die number, and the
claimant that every live die has accepted leads. R429, R433, R434: wear is counted and recorded, and each command of the sideband is
answered. The layouts of the answers to commands 0x01, 0x02 and 0x04 are the model's choices (notes/assumptions). -/
def Obligations.LeaseAndSidebandEvents : Prop :=
  (∀ (s : State) (d src epoch : Nat),
    let l := leaseOf s d
    let now (t : State) : Lease := leaseOf t d
    (l.acting = true → Ends (.leaseRenewal d) s fun t => ToAll t (fun e => .renewal e d l.epoch) ∧ (now t).acks = []) ∧
    (l.acting = false → exec (.leaseRenewal d) s = .next s) ∧
    ((s.die d).failed = false → l.epoch ≤ epoch → Ends (.renewal d src epoch) s fun t => (now t).epoch = epoch ∧ (now t).leader = some src ∧
      Instr.renewalAck src d epoch ∈ t.agenda ∧ (l.epoch < epoch → (now t).acting = false) ∧ (l.epoch = epoch → (now t).acting = l.acting)) ∧
    (epoch < l.epoch → exec (.renewal d src epoch) s = .next s) ∧
    (l.acting = true → l.epoch = epoch → Ends (.renewalAck d src epoch) s fun t => src ∈ (now t).acks ∧ (now t).acting = true) ∧
    Ends (.leaderTermEnd d) s (fun t => now t = { l with acting := false }) ∧
    (l.acting = false → (∀ x ∈ l.heard, l.leader = some x ∨ d ≤ x) → Ends (.leaseLapse d) s fun t => ToAll t fun e => .claim e d (l.epoch + 1)) ∧
    (l.acting = true ∨ (∃ x ∈ l.heard, l.leader ≠ some x ∧ x < d) → Ends (.leaseLapse d) s fun t => t.agenda = s.agenda ∧ (now t).epoch = l.epoch) ∧
    ((s.die d).failed = false → l.epoch < epoch ∨ (l.epoch = epoch ∧ ∀ c, l.claimed = some c → src ≤ c) → Ends (.claim d src epoch) s fun t =>
      (now t).epoch = epoch ∧ (now t).claimed = some src ∧ Instr.claimAcceptance src d epoch ∈ t.agenda ∧
        (l.epoch < epoch → (now t).acting = false)) ∧
    (epoch < l.epoch ∨ (l.epoch = epoch ∧ ∃ c, l.claimed = some c ∧ c < src) → Ends (.claim d src epoch) s fun t =>
      t.agenda = s.agenda ∧ (now t).epoch = l.epoch ∧ (now t).claimed = l.claimed) ∧
    (l.epoch = epoch → l.claimed = some d → l.acting = false →
      let counted := ∀ e, e < 8 → (s.die e).failed = false → (leaseOf s e).zeroed = true → e = src ∨ e ∈ l.accepts
      (counted → Ends (.claimAcceptance d src epoch) s fun t => (now t).acting = true ∧ (now t).leader = some d ∧
        ToAll t fun e => .renewal e d epoch) ∧
      (¬ counted → Ends (.claimAcceptance d src epoch) s fun t => (now t).acting = false ∧ src ∈ (now t).accepts)) ∧
    (l.zeroed = true → l.leader = none → l.heard = [] → l.epoch ≤ 1 → Ends (.soleLeader d) s fun t =>
      (now t).acting = true ∧ (now t).leader = some d ∧ (now t).epoch = 1)) ∧
  (∀ (s : State) (u part : Nat) (c : Int) (nonce : BitVec 256) (adr : BitVec 7) (code : Byte),
    let w := s.plat.wearOf u
    let swing (P : Wear → Prop) : Prop := Ends (.temperatureSwing u c) s fun t => P (t.plat.wearOf u) ∧ (t.plat.wearOf u).temp = c
    let bins (x : Wear) (up : Int) : Prop := x.t30 = w.t30 + (if 30 ≤ up then 1 else 0) ∧ x.t50 = w.t50 + (if 50 ≤ up then 1 else 0) ∧
      x.t70 = w.t70 + (if 70 ≤ up then 1 else 0)
    (w.rising = true → w.peak < c → swing fun x => x.rising = true ∧ x.peak = c ∧ bins x 0) ∧
    (w.rising = true → c + 5 ≤ w.peak → swing fun x => x.rising = false ∧ x.low = c ∧ bins x (w.peak - w.low)) ∧
    (w.rising = false → w.low + 5 ≤ c → swing fun x => x.rising = true ∧ x.peak = c ∧ bins x 0) ∧
    (w.rising = false → c < w.low → swing fun x => x.rising = false ∧ x.low = c ∧ bins x 0) ∧
    Ends (.h95Hour u) s (fun t => t.plat.wearOf u = { w with h95 := w.h95 + 1 }) ∧
    Ends (.wearRecordWrite u) s (fun t => WearWritten s t u ∧ t.plat.lastWear = u) ∧
    Ends .powerDownNotice s (fun t => ∀ n, n < 24 → WearWritten s t n) ∧
    Ends .readBootStage s (fun t => ∃ bs, Answered s t (some bs) ∧ bs.length = 8) ∧
    Ends .readTemperatures s (fun t => ∃ bs, Answered s t (some bs) ∧ bs.length = 48 ∧
      ∀ n, n < 24 → natOf ((bs.drop (2 * n)).take 2) = (BitVec.ofInt 16 (s.plat.wearOf n).temp).toNat) ∧
    (u < 24 → Ends (.readWearRecord u) s fun t => Answered s t (some (bytesOf 64 w.flash.toNat ++ w.sig))) ∧
    (24 ≤ u → Ends (.readWearRecord u) s fun t => Answered s t none) ∧
    Ends (.readAttestationReport part nonce) s (fun t => ∃ rep, Answered s t (some (rep ++ Config.slhSign 3 0 rep)) ∧
      rep = bytesOf 64 (s.part part).ar.toNat ++ bytesOf 64 (Config.shake256 s.plat.image).toNat ++ bytesOf 32 nonce.toNat ++
        bytesOf 64 (Config.shake256 (bytesOf 64 (s.plat.wearOf s.plat.lastWear).flash.toNat)).toNat) ∧
    Ends (.dynamicAddress adr) s (fun t => t.plat.dynAddr = some adr ∧ { t with plat := s.plat } = s) ∧
    (code ∉ [0x01, 0x02, 0x03, 0x04, 0x10] → Ends (.sidebandNack code) s fun t => Answered s t none) ∧
    (code ∈ [0x01, 0x02, 0x03, 0x04, 0x10] → exec (.sidebandNack code) s = .next s))
end

