-- ==== Sys2Proof/Laws/Store.lean ====
section
/-! SUPPORT. The laws of finite stores: reading after writing and deleting, and that writes keep the canonical form. -/

namespace Sys2Proof.Machine.Store

variable {α : Type}

/-! ### Reading after writing -/

@[simp] theorem find_nil (n : Nat) : find ([] : Store α) n = none := rfl

@[simp] theorem find_put_same (m : Store α) (n : Nat) (x : α) : find (put m n x) n = some x := by
  induction m with
  | nil => simp [put, find]
  | cons e r ih =>
    obtain ⟨k, v⟩ := e
    simp only [put]
    split
    · simp [find]
    · split
      · subst_vars; simp [find]
      · simp [find, *]

theorem find_put_ne (m : Store α) {n k : Nat} (x : α) (h : k ≠ n) : find (put m n x) k = find m k := by
  induction m with
  | nil => simp [put, find, h]
  | cons e r ih =>
    obtain ⟨a, v⟩ := e
    simp only [put]
    split
    · simp only [find, h, if_false]
    · split
      · rename_i h2
        simp only [find, ← h2, h, if_false]
      · simp only [find, ih]

@[simp] theorem get_put_same (d : α) (m : Store α) (n : Nat) (x : α) : get d (put m n x) n = x := by simp [get]

theorem get_put_ne (d : α) (m : Store α) {n k : Nat} (x : α) (h : k ≠ n) : get d (put m n x) k = get d m k := by
  simp [get, find_put_ne m x h]

theorem get_put (d : α) (m : Store α) (n k : Nat) (x : α) : get d (put m n x) k = if k = n then x else get d m k := by
  split
  · subst_vars; simp
  · exact get_put_ne d m x ‹_›

@[simp] theorem get_nil (d : α) (n : Nat) : get d ([] : Store α) n = d := rfl

/-- Writing what a key already holds, twice, or after another write of it, leaves one write. -/
@[simp] theorem put_put (m : Store α) (n : Nat) (x y : α) : put (put m n x) n y = put m n y := by
  induction m with
  | nil => simp [put]
  | cons e r ih =>
    obtain ⟨a, v⟩ := e
    simp only [put]
    split
    · simp [put]
    · split
      · subst_vars; simp [put]
      · simp [put, *]

/-! ### Rising keys -/

theorem risingFrom_mono {a b : Nat} (m : Store α) (h : a ≤ b) (hr : risingFrom b m = true) : risingFrom a m = true := by
  cases m with
  | nil => rfl
  | cons e r =>
    obtain ⟨k, v⟩ := e
    simp only [risingFrom, Bool.and_eq_true, decide_eq_true_eq] at *
    exact ⟨by omega, hr.2⟩

theorem risingFrom_put (m : Store α) (b n : Nat) (x : α) (hb : b ≤ n) (h : risingFrom b m = true) :
    risingFrom b (put m n x) = true := by
  induction m generalizing b with
  | nil => simp [put, risingFrom, hb]
  | cons e r ih =>
    obtain ⟨k, v⟩ := e
    simp only [risingFrom, Bool.and_eq_true, decide_eq_true_eq] at h
    simp only [put]
    split
    · simp only [risingFrom, Bool.and_eq_true, decide_eq_true_eq]
      exact ⟨hb, by omega, h.2⟩
    · split
      · simp [risingFrom, h]
      · simp only [risingFrom, Bool.and_eq_true, decide_eq_true_eq]
        exact ⟨h.1, ih (k + 1) (by omega) h.2⟩

theorem rising_put (m : Store α) (n : Nat) (x : α) (h : rising m = true) : rising (put m n x) = true :=
  risingFrom_put m 0 n x (Nat.zero_le n) h

theorem risingFrom_filter (p : Nat × α → Bool) (m : Store α) (b : Nat) (h : risingFrom b m = true) :
    risingFrom b (m.filter p) = true := by
  induction m generalizing b with
  | nil => rfl
  | cons e r ih =>
    obtain ⟨k, v⟩ := e
    simp only [risingFrom, Bool.and_eq_true, decide_eq_true_eq] at h
    rw [List.filter_cons]
    split
    · simp only [risingFrom, Bool.and_eq_true, decide_eq_true_eq]
      exact ⟨h.1, ih (k + 1) h.2⟩
    · exact ih b (risingFrom_mono r (by omega) h.2)

theorem rising_filter (p : Nat × α → Bool) (m : Store α) (h : rising m = true) : rising (m.filter p) = true :=
  risingFrom_filter p m 0 h

theorem rising_del (m : Store α) (n : Nat) (h : rising m = true) : rising (del m n) = true := rising_filter _ m h

theorem risingFrom_map (f : Nat × α → α) (m : Store α) (b : Nat) (h : risingFrom b m = true) :
    risingFrom b (m.map fun e => (e.1, f e)) = true := by
  induction m generalizing b with
  | nil => rfl
  | cons e r ih =>
    obtain ⟨k, v⟩ := e
    simp only [risingFrom, Bool.and_eq_true, decide_eq_true_eq] at h
    simp only [List.map_cons, risingFrom, Bool.and_eq_true, decide_eq_true_eq]
    exact ⟨h.1, ih (k + 1) h.2⟩

/-! ### Deleting -/

theorem find_of_risingFrom (m : Store α) {b n : Nat} (h : risingFrom b m = true) (hn : n < b) : find m n = none := by
  induction m generalizing b with
  | nil => rfl
  | cons e r ih =>
    obtain ⟨k, v⟩ := e
    simp only [risingFrom, Bool.and_eq_true, decide_eq_true_eq] at h
    rw [find, if_neg (by omega)]
    exact ih h.2 (by omega)

/-- Dropping entries by their key drops just those keys. -/
theorem find_filter (p : Nat → Bool) (m : Store α) (n : Nat) :
    find (m.filter fun e => p e.1) n = if p n then find m n else none := by
  induction m with
  | nil => simp [find]
  | cons e r ih =>
    obtain ⟨k, v⟩ := e
    rw [List.filter_cons]
    by_cases hk : p k = true
    · rw [if_pos hk, find, ih, find]
      by_cases hn : n = k
      · subst hn; simp [hk]
      · simp [hn]
    · rw [if_neg hk, ih, find]
      by_cases hn : n = k
      · subst hn; simp [hk]
      · simp [hn]

/-- Changing values keeps every key. -/
theorem find_map (f : Nat × α → α) (m : Store α) (n : Nat) :
    find (m.map fun e => (e.1, f e)) n = (find m n).map fun x => f (n, x) := by
  induction m with
  | nil => rfl
  | cons e r ih =>
    obtain ⟨k, v⟩ := e
    simp only [List.map_cons, find]
    split
    · subst_vars; rfl
    · exact ih

theorem find_del_same (m : Store α) (n : Nat) : find (del m n) n = none := by
  rw [del, find_filter (fun k => k != n)]; simp

theorem find_del_ne (m : Store α) {n k : Nat} (hk : k ≠ n) : find (del m n) k = find m k := by
  rw [del, find_filter (fun j => j != n)]; simp [hk]

/-! ### The canonical form -/

theorem canon_rising [DecidableEq α] {d : α} {m : Store α} (h : canon d m = true) : rising m = true := by
  simp only [canon, Bool.and_eq_true] at h; exact h.1

theorem all_put (p : Nat × α → Bool) (m : Store α) (n : Nat) (x : α) (h : m.all p = true) (hx : p (n, x) = true) :
    (put m n x).all p = true := by
  induction m with
  | nil => simp [put, hx]
  | cons e r ih =>
    obtain ⟨k, v⟩ := e
    simp only [List.all_cons, Bool.and_eq_true] at h
    simp only [put]
    split
    · simp only [List.all_cons, Bool.and_eq_true]; exact ⟨hx, h⟩
    · split
      · subst_vars; simp only [List.all_cons, Bool.and_eq_true]; exact ⟨hx, h.2⟩
      · simp only [List.all_cons, Bool.and_eq_true]; exact ⟨h.1, ih h.2⟩

theorem all_filter (p q : Nat × α → Bool) (m : Store α) (h : m.all p = true) : (m.filter q).all p = true := by
  rw [List.all_eq_true] at *
  intro e he
  exact h e (List.mem_of_mem_filter he)

/-- A canonical write keeps the canonical form. -/
theorem canon_set [DecidableEq α] (d : α) (m : Store α) (n : Nat) (x : α) (h : canon d m = true) : canon d (set d m n x) = true := by
  simp only [canon, Bool.and_eq_true] at h ⊢
  simp only [set]
  split
  · exact ⟨rising_del m n h.1, all_filter _ _ m h.2⟩
  · exact ⟨rising_put m n x h.1, all_put _ m n x h.2 (by simpa using ‹_›)⟩

/-- Dropping entries keeps the canonical form. -/
theorem canon_filter [DecidableEq α] (d : α) (p : Nat × α → Bool) (m : Store α) (h : canon d m = true) : canon d (m.filter p) = true := by
  simp only [canon, Bool.and_eq_true] at h ⊢
  exact ⟨rising_filter p m h.1, all_filter _ p m h.2⟩

/-- Reading after a canonical write. -/
@[simp] theorem get_set_same [DecidableEq α] (d : α) (m : Store α) (n : Nat) (x : α) : get d (set d m n x) n = x := by
  simp only [set]
  split
  · subst_vars; simp [get, find_del_same m n]
  · simp

theorem get_set_ne [DecidableEq α] (d : α) (m : Store α) {n k : Nat} (x : α) (hk : k ≠ n) :
    get d (set d m n x) k = get d m k := by
  simp only [set]
  split
  · simp [get, find_del_ne m hk]
  · exact get_put_ne d m x hk

theorem find_of_mem (m : Store α) {b n : Nat} {x : α} (h : risingFrom b m = true) (hm : (n, x) ∈ m) : find m n = some x := by
  induction m generalizing b with
  | nil => cases hm
  | cons e r ih =>
    obtain ⟨k, v⟩ := e
    simp only [risingFrom, Bool.and_eq_true, decide_eq_true_eq] at h
    cases hm with
    | head => simp [find]
    | tail _ hm =>
      have hf := ih h.2 hm
      have hk : ¬ n < k + 1 := fun hlt => by simp [find_of_risingFrom r h.2 hlt] at hf
      rw [find, if_neg (by omega)]; exact hf

/-- Two stores with rising keys that read the same everywhere are equal: equal contents are equal data. -/
theorem ext_of_risingFrom (m m' : Store α) (b : Nat) (h : risingFrom b m = true) (h' : risingFrom b m' = true)
    (he : ∀ n, find m n = find m' n) : m = m' := by
  induction m generalizing m' b with
  | nil =>
    cases m' with
    | nil => rfl
    | cons e r => have := he e.1; simp [find] at this
  | cons e r ih =>
    obtain ⟨k, v⟩ := e
    cases m' with
    | nil => have := he k; simp [find] at this
    | cons e' r' =>
      obtain ⟨k', v'⟩ := e'
      simp only [risingFrom, Bool.and_eq_true, decide_eq_true_eq] at h h'
      have h1 := he k
      have h2 := he k'
      have hk : k = k' := by
        simp only [find] at h1 h2
        by_contra hne
        rcases Nat.lt_or_gt_of_ne hne with hlt | hlt
        · have hx := find_of_risingFrom r' (n := k) h'.2 (by omega)
          simp [hne, hx] at h1
        · have hx := find_of_risingFrom r (n := k') h.2 (by omega)
          simp [Ne.symm hne, hx] at h2
      subst hk
      have hv : v = v' := by simpa [find] using h1
      subst hv
      refine congrArg _ (ih r' (k + 1) h.2 h'.2 fun n => ?_)
      rcases Nat.lt_or_ge n (k + 1) with hn | hn
      · rw [find_of_risingFrom r h.2 hn, find_of_risingFrom r' h'.2 hn]
      · have := he n
        simpa [find, show n ≠ k by omega] using this

end Sys2Proof.Machine.Store
end

