-- ==== Sys2Proof/Laws/State.lean ====
section
/-! SUPPORT. One lemma per field of the state per update, so that no proof unfolds a record update; and what the
accessors of groups read after a change of a group. -/

namespace Sys2Proof.Machine

variable (s : State)

/-! ### setCore -/

@[simp] theorem State.setCore_pkg (n : Nat) (x : Core) : (s.setCore n x).pkg = s.pkg := rfl
@[simp] theorem State.setCore_mem (n : Nat) (x : Core) : (s.setCore n x).mem = s.mem := rfl
@[simp] theorem State.setCore_tags (n : Nat) (x : Core) : (s.setCore n x).tags = s.tags := rfl
@[simp] theorem State.setCore_poison (n : Nat) (x : Core) : (s.setCore n x).poison = s.poison := rfl
@[simp] theorem State.setCore_groups (n : Nat) (x : Core) : (s.setCore n x).groups = s.groups := rfl
@[simp] theorem State.setCore_ops (n : Nat) (x : Core) : (s.setCore n x).ops = s.ops := rfl
@[simp] theorem State.setCore_cores (n : Nat) (x : Core) : (s.setCore n x).cores = Store.put s.cores n x := rfl
@[simp] theorem State.setCore_dies (n : Nat) (x : Core) : (s.setCore n x).dies = s.dies := rfl
@[simp] theorem State.setCore_parts (n : Nat) (x : Core) : (s.setCore n x).parts = s.parts := rfl
@[simp] theorem State.setCore_launches (n : Nat) (x : Core) : (s.setCore n x).launches = s.launches := rfl
@[simp] theorem State.setCore_asids (n : Nat) (x : Core) : (s.setCore n x).asids = s.asids := rfl
@[simp] theorem State.setCore_shoots (n : Nat) (x : Core) : (s.setCore n x).shoots = s.shoots := rfl
@[simp] theorem State.setCore_displaced (n : Nat) (x : Core) : (s.setCore n x).displaced = s.displaced := rfl
@[simp] theorem State.setCore_replicas (n : Nat) (x : Core) : (s.setCore n x).replicas = s.replicas := rfl
@[simp] theorem State.setCore_agenda (n : Nat) (x : Core) : (s.setCore n x).agenda = s.agenda := rfl
@[simp] theorem State.setCore_turns (n : Nat) (x : Core) : (s.setCore n x).turns = s.turns := rfl
@[simp] theorem State.setCore_cur (n : Nat) (x : Core) : (s.setCore n x).cur = s.cur := rfl
@[simp] theorem State.setCore_taken (n : Nat) (x : Core) : (s.setCore n x).taken = s.taken := rfl
@[simp] theorem State.setCore_outbox (n : Nat) (x : Core) : (s.setCore n x).outbox = s.outbox := rfl
@[simp] theorem State.setCore_hostData (n : Nat) (x : Core) : (s.setCore n x).hostData = s.hostData := rfl
@[simp] theorem State.setCore_plat (n : Nat) (x : Core) : (s.setCore n x).plat = s.plat := rfl
@[simp] theorem State.setCore_fresh (n : Nat) (x : Core) : (s.setCore n x).fresh = s.fresh := rfl
@[simp] theorem State.setCore_time (n : Nat) (x : Core) : (s.setCore n x).time = s.time := rfl
@[simp] theorem State.setCore_replies (n : Nat) (x : Core) : (s.setCore n x).replies = s.replies := rfl
@[simp] theorem State.setCore_clock (n : Nat) (x : Core) : (s.setCore n x).clock = s.clock := rfl

/-! ### setDie -/

@[simp] theorem State.setDie_pkg (n : Nat) (x : Die) : (s.setDie n x).pkg = s.pkg := rfl
@[simp] theorem State.setDie_mem (n : Nat) (x : Die) : (s.setDie n x).mem = s.mem := rfl
@[simp] theorem State.setDie_tags (n : Nat) (x : Die) : (s.setDie n x).tags = s.tags := rfl
@[simp] theorem State.setDie_poison (n : Nat) (x : Die) : (s.setDie n x).poison = s.poison := rfl
@[simp] theorem State.setDie_groups (n : Nat) (x : Die) : (s.setDie n x).groups = s.groups := rfl
@[simp] theorem State.setDie_ops (n : Nat) (x : Die) : (s.setDie n x).ops = s.ops := rfl
@[simp] theorem State.setDie_cores (n : Nat) (x : Die) : (s.setDie n x).cores = s.cores := rfl
@[simp] theorem State.setDie_dies (n : Nat) (x : Die) : (s.setDie n x).dies = Store.put s.dies n x := rfl
@[simp] theorem State.setDie_parts (n : Nat) (x : Die) : (s.setDie n x).parts = s.parts := rfl
@[simp] theorem State.setDie_launches (n : Nat) (x : Die) : (s.setDie n x).launches = s.launches := rfl
@[simp] theorem State.setDie_asids (n : Nat) (x : Die) : (s.setDie n x).asids = s.asids := rfl
@[simp] theorem State.setDie_shoots (n : Nat) (x : Die) : (s.setDie n x).shoots = s.shoots := rfl
@[simp] theorem State.setDie_displaced (n : Nat) (x : Die) : (s.setDie n x).displaced = s.displaced := rfl
@[simp] theorem State.setDie_replicas (n : Nat) (x : Die) : (s.setDie n x).replicas = s.replicas := rfl
@[simp] theorem State.setDie_agenda (n : Nat) (x : Die) : (s.setDie n x).agenda = s.agenda := rfl
@[simp] theorem State.setDie_turns (n : Nat) (x : Die) : (s.setDie n x).turns = s.turns := rfl
@[simp] theorem State.setDie_cur (n : Nat) (x : Die) : (s.setDie n x).cur = s.cur := rfl
@[simp] theorem State.setDie_taken (n : Nat) (x : Die) : (s.setDie n x).taken = s.taken := rfl
@[simp] theorem State.setDie_outbox (n : Nat) (x : Die) : (s.setDie n x).outbox = s.outbox := rfl
@[simp] theorem State.setDie_hostData (n : Nat) (x : Die) : (s.setDie n x).hostData = s.hostData := rfl
@[simp] theorem State.setDie_plat (n : Nat) (x : Die) : (s.setDie n x).plat = s.plat := rfl
@[simp] theorem State.setDie_fresh (n : Nat) (x : Die) : (s.setDie n x).fresh = s.fresh := rfl
@[simp] theorem State.setDie_time (n : Nat) (x : Die) : (s.setDie n x).time = s.time := rfl
@[simp] theorem State.setDie_replies (n : Nat) (x : Die) : (s.setDie n x).replies = s.replies := rfl
@[simp] theorem State.setDie_clock (n : Nat) (x : Die) : (s.setDie n x).clock = s.clock := rfl

/-! ### setPart -/

@[simp] theorem State.setPart_pkg (n : Nat) (x : Part) : (s.setPart n x).pkg = s.pkg := rfl
@[simp] theorem State.setPart_mem (n : Nat) (x : Part) : (s.setPart n x).mem = s.mem := rfl
@[simp] theorem State.setPart_tags (n : Nat) (x : Part) : (s.setPart n x).tags = s.tags := rfl
@[simp] theorem State.setPart_poison (n : Nat) (x : Part) : (s.setPart n x).poison = s.poison := rfl
@[simp] theorem State.setPart_groups (n : Nat) (x : Part) : (s.setPart n x).groups = s.groups := rfl
@[simp] theorem State.setPart_ops (n : Nat) (x : Part) : (s.setPart n x).ops = s.ops := rfl
@[simp] theorem State.setPart_cores (n : Nat) (x : Part) : (s.setPart n x).cores = s.cores := rfl
@[simp] theorem State.setPart_dies (n : Nat) (x : Part) : (s.setPart n x).dies = s.dies := rfl
@[simp] theorem State.setPart_parts (n : Nat) (x : Part) : (s.setPart n x).parts = Store.put s.parts n x := rfl
@[simp] theorem State.setPart_launches (n : Nat) (x : Part) : (s.setPart n x).launches = s.launches := rfl
@[simp] theorem State.setPart_asids (n : Nat) (x : Part) : (s.setPart n x).asids = s.asids := rfl
@[simp] theorem State.setPart_shoots (n : Nat) (x : Part) : (s.setPart n x).shoots = s.shoots := rfl
@[simp] theorem State.setPart_displaced (n : Nat) (x : Part) : (s.setPart n x).displaced = s.displaced := rfl
@[simp] theorem State.setPart_replicas (n : Nat) (x : Part) : (s.setPart n x).replicas = s.replicas := rfl
@[simp] theorem State.setPart_agenda (n : Nat) (x : Part) : (s.setPart n x).agenda = s.agenda := rfl
@[simp] theorem State.setPart_turns (n : Nat) (x : Part) : (s.setPart n x).turns = s.turns := rfl
@[simp] theorem State.setPart_cur (n : Nat) (x : Part) : (s.setPart n x).cur = s.cur := rfl
@[simp] theorem State.setPart_taken (n : Nat) (x : Part) : (s.setPart n x).taken = s.taken := rfl
@[simp] theorem State.setPart_outbox (n : Nat) (x : Part) : (s.setPart n x).outbox = s.outbox := rfl
@[simp] theorem State.setPart_hostData (n : Nat) (x : Part) : (s.setPart n x).hostData = s.hostData := rfl
@[simp] theorem State.setPart_plat (n : Nat) (x : Part) : (s.setPart n x).plat = s.plat := rfl
@[simp] theorem State.setPart_fresh (n : Nat) (x : Part) : (s.setPart n x).fresh = s.fresh := rfl
@[simp] theorem State.setPart_time (n : Nat) (x : Part) : (s.setPart n x).time = s.time := rfl
@[simp] theorem State.setPart_replies (n : Nat) (x : Part) : (s.setPart n x).replies = s.replies := rfl
@[simp] theorem State.setPart_clock (n : Nat) (x : Part) : (s.setPart n x).clock = s.clock := rfl

/-! ### setGrp -/

@[simp] theorem State.setGrp_pkg (n : Nat) (x : Group) : (s.setGrp n x).pkg = s.pkg := rfl
@[simp] theorem State.setGrp_mem (n : Nat) (x : Group) : (s.setGrp n x).mem = s.mem := rfl
@[simp] theorem State.setGrp_tags (n : Nat) (x : Group) : (s.setGrp n x).tags = s.tags := rfl
@[simp] theorem State.setGrp_poison (n : Nat) (x : Group) : (s.setGrp n x).poison = s.poison := rfl
@[simp] theorem State.setGrp_groups (n : Nat) (x : Group) : (s.setGrp n x).groups = Store.put s.groups n x := rfl
@[simp] theorem State.setGrp_ops (n : Nat) (x : Group) : (s.setGrp n x).ops = s.ops := rfl
@[simp] theorem State.setGrp_cores (n : Nat) (x : Group) : (s.setGrp n x).cores = s.cores := rfl
@[simp] theorem State.setGrp_dies (n : Nat) (x : Group) : (s.setGrp n x).dies = s.dies := rfl
@[simp] theorem State.setGrp_parts (n : Nat) (x : Group) : (s.setGrp n x).parts = s.parts := rfl
@[simp] theorem State.setGrp_launches (n : Nat) (x : Group) : (s.setGrp n x).launches = s.launches := rfl
@[simp] theorem State.setGrp_asids (n : Nat) (x : Group) : (s.setGrp n x).asids = s.asids := rfl
@[simp] theorem State.setGrp_shoots (n : Nat) (x : Group) : (s.setGrp n x).shoots = s.shoots := rfl
@[simp] theorem State.setGrp_displaced (n : Nat) (x : Group) : (s.setGrp n x).displaced = s.displaced := rfl
@[simp] theorem State.setGrp_replicas (n : Nat) (x : Group) : (s.setGrp n x).replicas = s.replicas := rfl
@[simp] theorem State.setGrp_agenda (n : Nat) (x : Group) : (s.setGrp n x).agenda = s.agenda := rfl
@[simp] theorem State.setGrp_turns (n : Nat) (x : Group) : (s.setGrp n x).turns = s.turns := rfl
@[simp] theorem State.setGrp_cur (n : Nat) (x : Group) : (s.setGrp n x).cur = s.cur := rfl
@[simp] theorem State.setGrp_taken (n : Nat) (x : Group) : (s.setGrp n x).taken = s.taken := rfl
@[simp] theorem State.setGrp_outbox (n : Nat) (x : Group) : (s.setGrp n x).outbox = s.outbox := rfl
@[simp] theorem State.setGrp_hostData (n : Nat) (x : Group) : (s.setGrp n x).hostData = s.hostData := rfl
@[simp] theorem State.setGrp_plat (n : Nat) (x : Group) : (s.setGrp n x).plat = s.plat := rfl
@[simp] theorem State.setGrp_fresh (n : Nat) (x : Group) : (s.setGrp n x).fresh = s.fresh := rfl
@[simp] theorem State.setGrp_time (n : Nat) (x : Group) : (s.setGrp n x).time = s.time := rfl
@[simp] theorem State.setGrp_replies (n : Nat) (x : Group) : (s.setGrp n x).replies = s.replies := rfl
@[simp] theorem State.setGrp_clock (n : Nat) (x : Group) : (s.setGrp n x).clock = s.clock := rfl

/-! ### send -/

@[simp] theorem State.send_pkg (i : Instr) : (s.send i).pkg = s.pkg := rfl
@[simp] theorem State.send_mem (i : Instr) : (s.send i).mem = s.mem := rfl
@[simp] theorem State.send_tags (i : Instr) : (s.send i).tags = s.tags := rfl
@[simp] theorem State.send_poison (i : Instr) : (s.send i).poison = s.poison := rfl
@[simp] theorem State.send_groups (i : Instr) : (s.send i).groups = s.groups := rfl
@[simp] theorem State.send_ops (i : Instr) : (s.send i).ops = s.ops := rfl
@[simp] theorem State.send_cores (i : Instr) : (s.send i).cores = s.cores := rfl
@[simp] theorem State.send_dies (i : Instr) : (s.send i).dies = s.dies := rfl
@[simp] theorem State.send_parts (i : Instr) : (s.send i).parts = s.parts := rfl
@[simp] theorem State.send_launches (i : Instr) : (s.send i).launches = s.launches := rfl
@[simp] theorem State.send_asids (i : Instr) : (s.send i).asids = s.asids := rfl
@[simp] theorem State.send_shoots (i : Instr) : (s.send i).shoots = s.shoots := rfl
@[simp] theorem State.send_displaced (i : Instr) : (s.send i).displaced = s.displaced := rfl
@[simp] theorem State.send_replicas (i : Instr) : (s.send i).replicas = s.replicas := rfl
@[simp] theorem State.send_agenda (i : Instr) : (s.send i).agenda = s.agenda ++ [i] := rfl
@[simp] theorem State.send_turns (i : Instr) : (s.send i).turns = s.turns := rfl
@[simp] theorem State.send_cur (i : Instr) : (s.send i).cur = s.cur := rfl
@[simp] theorem State.send_taken (i : Instr) : (s.send i).taken = s.taken := rfl
@[simp] theorem State.send_outbox (i : Instr) : (s.send i).outbox = s.outbox := rfl
@[simp] theorem State.send_hostData (i : Instr) : (s.send i).hostData = s.hostData := rfl
@[simp] theorem State.send_plat (i : Instr) : (s.send i).plat = s.plat := rfl
@[simp] theorem State.send_fresh (i : Instr) : (s.send i).fresh = s.fresh := rfl
@[simp] theorem State.send_time (i : Instr) : (s.send i).time = s.time := rfl
@[simp] theorem State.send_replies (i : Instr) : (s.send i).replies = s.replies := rfl
@[simp] theorem State.send_clock (i : Instr) : (s.send i).clock = s.clock := rfl

/-! ### sendAll -/

@[simp] theorem State.sendAll_pkg (l : List Instr) : (s.sendAll l).pkg = s.pkg := rfl
@[simp] theorem State.sendAll_mem (l : List Instr) : (s.sendAll l).mem = s.mem := rfl
@[simp] theorem State.sendAll_tags (l : List Instr) : (s.sendAll l).tags = s.tags := rfl
@[simp] theorem State.sendAll_poison (l : List Instr) : (s.sendAll l).poison = s.poison := rfl
@[simp] theorem State.sendAll_groups (l : List Instr) : (s.sendAll l).groups = s.groups := rfl
@[simp] theorem State.sendAll_ops (l : List Instr) : (s.sendAll l).ops = s.ops := rfl
@[simp] theorem State.sendAll_cores (l : List Instr) : (s.sendAll l).cores = s.cores := rfl
@[simp] theorem State.sendAll_dies (l : List Instr) : (s.sendAll l).dies = s.dies := rfl
@[simp] theorem State.sendAll_parts (l : List Instr) : (s.sendAll l).parts = s.parts := rfl
@[simp] theorem State.sendAll_launches (l : List Instr) : (s.sendAll l).launches = s.launches := rfl
@[simp] theorem State.sendAll_asids (l : List Instr) : (s.sendAll l).asids = s.asids := rfl
@[simp] theorem State.sendAll_shoots (l : List Instr) : (s.sendAll l).shoots = s.shoots := rfl
@[simp] theorem State.sendAll_displaced (l : List Instr) : (s.sendAll l).displaced = s.displaced := rfl
@[simp] theorem State.sendAll_replicas (l : List Instr) : (s.sendAll l).replicas = s.replicas := rfl
@[simp] theorem State.sendAll_agenda (l : List Instr) : (s.sendAll l).agenda = s.agenda ++ l := rfl
@[simp] theorem State.sendAll_turns (l : List Instr) : (s.sendAll l).turns = s.turns := rfl
@[simp] theorem State.sendAll_cur (l : List Instr) : (s.sendAll l).cur = s.cur := rfl
@[simp] theorem State.sendAll_taken (l : List Instr) : (s.sendAll l).taken = s.taken := rfl
@[simp] theorem State.sendAll_outbox (l : List Instr) : (s.sendAll l).outbox = s.outbox := rfl
@[simp] theorem State.sendAll_hostData (l : List Instr) : (s.sendAll l).hostData = s.hostData := rfl
@[simp] theorem State.sendAll_plat (l : List Instr) : (s.sendAll l).plat = s.plat := rfl
@[simp] theorem State.sendAll_fresh (l : List Instr) : (s.sendAll l).fresh = s.fresh := rfl
@[simp] theorem State.sendAll_time (l : List Instr) : (s.sendAll l).time = s.time := rfl
@[simp] theorem State.sendAll_replies (l : List Instr) : (s.sendAll l).replies = s.replies := rfl
@[simp] theorem State.sendAll_clock (l : List Instr) : (s.sendAll l).clock = s.clock := rfl

/-! ### bump -/

@[simp] theorem State.bump_pkg : s.bump.pkg = s.pkg := rfl
@[simp] theorem State.bump_mem : s.bump.mem = s.mem := rfl
@[simp] theorem State.bump_tags : s.bump.tags = s.tags := rfl
@[simp] theorem State.bump_poison : s.bump.poison = s.poison := rfl
@[simp] theorem State.bump_groups : s.bump.groups = s.groups := rfl
@[simp] theorem State.bump_ops : s.bump.ops = s.ops := rfl
@[simp] theorem State.bump_cores : s.bump.cores = s.cores := rfl
@[simp] theorem State.bump_dies : s.bump.dies = s.dies := rfl
@[simp] theorem State.bump_parts : s.bump.parts = s.parts := rfl
@[simp] theorem State.bump_launches : s.bump.launches = s.launches := rfl
@[simp] theorem State.bump_asids : s.bump.asids = s.asids := rfl
@[simp] theorem State.bump_shoots : s.bump.shoots = s.shoots := rfl
@[simp] theorem State.bump_displaced : s.bump.displaced = s.displaced := rfl
@[simp] theorem State.bump_replicas : s.bump.replicas = s.replicas := rfl
@[simp] theorem State.bump_agenda : s.bump.agenda = s.agenda := rfl
@[simp] theorem State.bump_turns : s.bump.turns = s.turns := rfl
@[simp] theorem State.bump_cur : s.bump.cur = s.cur := rfl
@[simp] theorem State.bump_taken : s.bump.taken = s.taken := rfl
@[simp] theorem State.bump_outbox : s.bump.outbox = s.outbox := rfl
@[simp] theorem State.bump_hostData : s.bump.hostData = s.hostData := rfl
@[simp] theorem State.bump_plat : s.bump.plat = s.plat := rfl
@[simp] theorem State.bump_fresh : s.bump.fresh = s.fresh + 1 := rfl
@[simp] theorem State.bump_time : s.bump.time = s.time := rfl
@[simp] theorem State.bump_replies : s.bump.replies = s.replies := rfl
@[simp] theorem State.bump_clock : s.bump.clock = s.clock := rfl

/-! ### writeByte -/

@[simp] theorem State.writeByte_pkg (a : Nat) (b : Byte) : (s.writeByte a b).pkg = s.pkg := rfl
@[simp] theorem State.writeByte_mem (a : Nat) (b : Byte) : (s.writeByte a b).mem = Store.set Memory.unlisted s.mem a b := rfl
@[simp] theorem State.writeByte_tags (a : Nat) (b : Byte) : (s.writeByte a b).tags = s.tags := rfl
@[simp] theorem State.writeByte_poison (a : Nat) (b : Byte) : (s.writeByte a b).poison = s.poison := rfl
@[simp] theorem State.writeByte_groups (a : Nat) (b : Byte) : (s.writeByte a b).groups = s.groups := rfl
@[simp] theorem State.writeByte_ops (a : Nat) (b : Byte) : (s.writeByte a b).ops = s.ops := rfl
@[simp] theorem State.writeByte_cores (a : Nat) (b : Byte) : (s.writeByte a b).cores = s.cores := rfl
@[simp] theorem State.writeByte_dies (a : Nat) (b : Byte) : (s.writeByte a b).dies = s.dies := rfl
@[simp] theorem State.writeByte_parts (a : Nat) (b : Byte) : (s.writeByte a b).parts = s.parts := rfl
@[simp] theorem State.writeByte_launches (a : Nat) (b : Byte) : (s.writeByte a b).launches = s.launches := rfl
@[simp] theorem State.writeByte_asids (a : Nat) (b : Byte) : (s.writeByte a b).asids = s.asids := rfl
@[simp] theorem State.writeByte_shoots (a : Nat) (b : Byte) : (s.writeByte a b).shoots = s.shoots := rfl
@[simp] theorem State.writeByte_displaced (a : Nat) (b : Byte) : (s.writeByte a b).displaced = s.displaced := rfl
@[simp] theorem State.writeByte_replicas (a : Nat) (b : Byte) : (s.writeByte a b).replicas = s.replicas := rfl
@[simp] theorem State.writeByte_agenda (a : Nat) (b : Byte) : (s.writeByte a b).agenda = s.agenda := rfl
@[simp] theorem State.writeByte_turns (a : Nat) (b : Byte) : (s.writeByte a b).turns = s.turns := rfl
@[simp] theorem State.writeByte_cur (a : Nat) (b : Byte) : (s.writeByte a b).cur = s.cur := rfl
@[simp] theorem State.writeByte_taken (a : Nat) (b : Byte) : (s.writeByte a b).taken = s.taken := rfl
@[simp] theorem State.writeByte_outbox (a : Nat) (b : Byte) : (s.writeByte a b).outbox = s.outbox := rfl
@[simp] theorem State.writeByte_hostData (a : Nat) (b : Byte) : (s.writeByte a b).hostData = s.hostData := rfl
@[simp] theorem State.writeByte_plat (a : Nat) (b : Byte) : (s.writeByte a b).plat = s.plat := rfl
@[simp] theorem State.writeByte_fresh (a : Nat) (b : Byte) : (s.writeByte a b).fresh = s.fresh := rfl
@[simp] theorem State.writeByte_time (a : Nat) (b : Byte) : (s.writeByte a b).time = s.time := rfl
@[simp] theorem State.writeByte_replies (a : Nat) (b : Byte) : (s.writeByte a b).replies = s.replies := rfl
@[simp] theorem State.writeByte_clock (a : Nat) (b : Byte) : (s.writeByte a b).clock = s.clock := rfl

/-! ### setTag -/

@[simp] theorem State.setTag_pkg (a : Nat) (b : Bool) : (s.setTag a b).pkg = s.pkg := rfl
@[simp] theorem State.setTag_mem (a : Nat) (b : Bool) : (s.setTag a b).mem = s.mem := rfl
@[simp] theorem State.setTag_tags (a : Nat) (b : Bool) : (s.setTag a b).tags = if b then insertNat s.tags (a / 16) else removeNat s.tags (a / 16) := rfl
@[simp] theorem State.setTag_poison (a : Nat) (b : Bool) : (s.setTag a b).poison = s.poison := rfl
@[simp] theorem State.setTag_groups (a : Nat) (b : Bool) : (s.setTag a b).groups = s.groups := rfl
@[simp] theorem State.setTag_ops (a : Nat) (b : Bool) : (s.setTag a b).ops = s.ops := rfl
@[simp] theorem State.setTag_cores (a : Nat) (b : Bool) : (s.setTag a b).cores = s.cores := rfl
@[simp] theorem State.setTag_dies (a : Nat) (b : Bool) : (s.setTag a b).dies = s.dies := rfl
@[simp] theorem State.setTag_parts (a : Nat) (b : Bool) : (s.setTag a b).parts = s.parts := rfl
@[simp] theorem State.setTag_launches (a : Nat) (b : Bool) : (s.setTag a b).launches = s.launches := rfl
@[simp] theorem State.setTag_asids (a : Nat) (b : Bool) : (s.setTag a b).asids = s.asids := rfl
@[simp] theorem State.setTag_shoots (a : Nat) (b : Bool) : (s.setTag a b).shoots = s.shoots := rfl
@[simp] theorem State.setTag_displaced (a : Nat) (b : Bool) : (s.setTag a b).displaced = s.displaced := rfl
@[simp] theorem State.setTag_replicas (a : Nat) (b : Bool) : (s.setTag a b).replicas = s.replicas := rfl
@[simp] theorem State.setTag_agenda (a : Nat) (b : Bool) : (s.setTag a b).agenda = s.agenda := rfl
@[simp] theorem State.setTag_turns (a : Nat) (b : Bool) : (s.setTag a b).turns = s.turns := rfl
@[simp] theorem State.setTag_cur (a : Nat) (b : Bool) : (s.setTag a b).cur = s.cur := rfl
@[simp] theorem State.setTag_taken (a : Nat) (b : Bool) : (s.setTag a b).taken = s.taken := rfl
@[simp] theorem State.setTag_outbox (a : Nat) (b : Bool) : (s.setTag a b).outbox = s.outbox := rfl
@[simp] theorem State.setTag_hostData (a : Nat) (b : Bool) : (s.setTag a b).hostData = s.hostData := rfl
@[simp] theorem State.setTag_plat (a : Nat) (b : Bool) : (s.setTag a b).plat = s.plat := rfl
@[simp] theorem State.setTag_fresh (a : Nat) (b : Bool) : (s.setTag a b).fresh = s.fresh := rfl
@[simp] theorem State.setTag_time (a : Nat) (b : Bool) : (s.setTag a b).time = s.time := rfl
@[simp] theorem State.setTag_replies (a : Nat) (b : Bool) : (s.setTag a b).replies = s.replies := rfl
@[simp] theorem State.setTag_clock (a : Nat) (b : Bool) : (s.setTag a b).clock = s.clock := rfl

end Sys2Proof.Machine
end

