-- ==== Sys2Proof/Laws/Group.lean ====
section
/-! SUPPORT. What changes of the issuing group do: register reads after register writes, paths, and the frame of an
instruction whose whole effect is a change of its own group. -/

namespace Sys2Proof.Machine

/-! ### A group's fields after its updates -/

variable (g : Group)

@[simp] theorem Group.setS_place (r : SReg) (x : W64) : (g.setS r x).place = g.place := rfl
@[simp] theorem Group.setS_launch (r : SReg) (x : W64) : (g.setS r x).launch = g.launch := rfl
@[simp] theorem Group.setS_entry (r : SReg) (x : W64) : (g.setS r x).entry = g.entry := rfl
@[simp] theorem Group.setS_asid (r : SReg) (x : W64) : (g.setS r x).asid = g.asid := rfl
@[simp] theorem Group.setS_v (r : SReg) (x : W64) : (g.setS r x).v = g.v := rfl
@[simp] theorem Group.setS_s (r : SReg) (x : W64) : (g.setS r x).s = g.s := rfl
@[simp] theorem Group.setS_vbase (r : SReg) (x : W64) : (g.setS r x).vbase = g.vbase := rfl
@[simp] theorem Group.setS_scrBase (r : SReg) (x : W64) : (g.setS r x).scrBase = g.scrBase := rfl
@[simp] theorem Group.setS_scrSize (r : SReg) (x : W64) : (g.setS r x).scrSize = g.scrSize := rfl
@[simp] theorem Group.setS_tobBase (r : SReg) (x : W64) : (g.setS r x).tobBase = g.tobBase := rfl
@[simp] theorem Group.setS_tobCnt (r : SReg) (x : W64) : (g.setS r x).tobCnt = g.tobCnt := rfl
@[simp] theorem Group.setS_pri (r : SReg) (x : W64) : (g.setS r x).pri = g.pri := rfl
@[simp] theorem Group.setS_born (r : SReg) (x : W64) : (g.setS r x).born = g.born := rfl
@[simp] theorem Group.setS_eid (r : SReg) (x : W64) : (g.setS r x).eid = g.eid := rfl
@[simp] theorem Group.setS_closure (r : SReg) (x : W64) : (g.setS r x).closure = g.closure := rfl
@[simp] theorem Group.setS_ctags (r : SReg) (x : W64) : (g.setS r x).ctags = g.ctags := rfl
@[simp] theorem Group.setS_early (r : SReg) (x : W64) : (g.setS r x).early = g.early := rfl
@[simp] theorem Group.setS_restart (r : SReg) (x : W64) : (g.setS r x).restart = g.restart := rfl
@[simp] theorem Group.setS_debug (r : SReg) (x : W64) : (g.setS r x).debug = g.debug := rfl
@[simp] theorem Group.setS_vregs (r : SReg) (x : W64) : (g.setS r x).vregs = g.vregs := rfl
@[simp] theorem Group.setS_cregs (r : SReg) (x : W64) : (g.setS r x).cregs = g.cregs := rfl
@[simp] theorem Group.setS_kregs (r : SReg) (x : W64) : (g.setS r x).kregs = g.kregs := rfl
@[simp] theorem Group.setS_fut (r : SReg) (x : W64) : (g.setS r x).fut = g.fut := rfl
@[simp] theorem Group.setS_cause (r : SReg) (x : W64) : (g.setS r x).cause = g.cause := rfl
@[simp] theorem Group.setS_faddr (r : SReg) (x : W64) : (g.setS r x).faddr = g.faddr := rfl
@[simp] theorem Group.setS_epc (r : SReg) (x : W64) : (g.setS r x).epc = g.epc := rfl
@[simp] theorem Group.setS_emask (r : SReg) (x : W64) : (g.setS r x).emask = g.emask := rfl
@[simp] theorem Group.setS_fpcsr (r : SReg) (x : W64) : (g.setS r x).fpcsr = g.fpcsr := rfl
@[simp] theorem Group.setS_f4x (r : SReg) (x : W64) : (g.setS r x).f4x = g.f4x := rfl
@[simp] theorem Group.setS_fmts (r : SReg) (x : W64) : (g.setS r x).fmts = g.fmts := rfl
@[simp] theorem Group.setS_pa (r : SReg) (x : W64) : (g.setS r x).pa = g.pa := rfl
@[simp] theorem Group.setS_pb (r : SReg) (x : W64) : (g.setS r x).pb = g.pb := rfl
@[simp] theorem Group.setS_tokens (r : SReg) (x : W64) : (g.setS r x).tokens = g.tokens := rfl
@[simp] theorem Group.setS_nums (r : SReg) (x : W64) : (g.setS r x).nums = g.nums := rfl
@[simp] theorem Group.setS_regroup (r : SReg) (x : W64) : (g.setS r x).regroup = g.regroup := rfl
@[simp] theorem Group.setS_undo (r : SReg) (x : W64) : (g.setS r x).undo = g.undo := rfl
@[simp] theorem Group.setS_saved (r : SReg) (x : W64) : (g.setS r x).saved = g.saved := rfl
@[simp] theorem Group.setS_preempt (r : SReg) (x : W64) : (g.setS r x).preempt = g.preempt := rfl
@[simp] theorem Group.setS_deadline (r : SReg) (x : W64) : (g.setS r x).deadline = g.deadline := rfl
@[simp] theorem Group.setS_ending (r : SReg) (x : W64) : (g.setS r x).ending = g.ending := rfl
@[simp] theorem Group.setV_place (r : VReg) (m : Mask) (x : Lanes) : (g.setV r m x).place = g.place := rfl
@[simp] theorem Group.setV_launch (r : VReg) (m : Mask) (x : Lanes) : (g.setV r m x).launch = g.launch := rfl
@[simp] theorem Group.setV_entry (r : VReg) (m : Mask) (x : Lanes) : (g.setV r m x).entry = g.entry := rfl
@[simp] theorem Group.setV_asid (r : VReg) (m : Mask) (x : Lanes) : (g.setV r m x).asid = g.asid := rfl
@[simp] theorem Group.setV_v (r : VReg) (m : Mask) (x : Lanes) : (g.setV r m x).v = g.v := rfl
@[simp] theorem Group.setV_s (r : VReg) (m : Mask) (x : Lanes) : (g.setV r m x).s = g.s := rfl
@[simp] theorem Group.setV_vbase (r : VReg) (m : Mask) (x : Lanes) : (g.setV r m x).vbase = g.vbase := rfl
@[simp] theorem Group.setV_scrBase (r : VReg) (m : Mask) (x : Lanes) : (g.setV r m x).scrBase = g.scrBase := rfl
@[simp] theorem Group.setV_scrSize (r : VReg) (m : Mask) (x : Lanes) : (g.setV r m x).scrSize = g.scrSize := rfl
@[simp] theorem Group.setV_tobBase (r : VReg) (m : Mask) (x : Lanes) : (g.setV r m x).tobBase = g.tobBase := rfl
@[simp] theorem Group.setV_tobCnt (r : VReg) (m : Mask) (x : Lanes) : (g.setV r m x).tobCnt = g.tobCnt := rfl
@[simp] theorem Group.setV_pri (r : VReg) (m : Mask) (x : Lanes) : (g.setV r m x).pri = g.pri := rfl
@[simp] theorem Group.setV_born (r : VReg) (m : Mask) (x : Lanes) : (g.setV r m x).born = g.born := rfl
@[simp] theorem Group.setV_eid (r : VReg) (m : Mask) (x : Lanes) : (g.setV r m x).eid = g.eid := rfl
@[simp] theorem Group.setV_closure (r : VReg) (m : Mask) (x : Lanes) : (g.setV r m x).closure = g.closure := rfl
@[simp] theorem Group.setV_ctags (r : VReg) (m : Mask) (x : Lanes) : (g.setV r m x).ctags = g.ctags := rfl
@[simp] theorem Group.setV_early (r : VReg) (m : Mask) (x : Lanes) : (g.setV r m x).early = g.early := rfl
@[simp] theorem Group.setV_restart (r : VReg) (m : Mask) (x : Lanes) : (g.setV r m x).restart = g.restart := rfl
@[simp] theorem Group.setV_debug (r : VReg) (m : Mask) (x : Lanes) : (g.setV r m x).debug = g.debug := rfl
@[simp] theorem Group.setV_sregs (r : VReg) (m : Mask) (x : Lanes) : (g.setV r m x).sregs = g.sregs := rfl
@[simp] theorem Group.setV_cregs (r : VReg) (m : Mask) (x : Lanes) : (g.setV r m x).cregs = g.cregs := rfl
@[simp] theorem Group.setV_kregs (r : VReg) (m : Mask) (x : Lanes) : (g.setV r m x).kregs = g.kregs := rfl
@[simp] theorem Group.setV_fut (r : VReg) (m : Mask) (x : Lanes) : (g.setV r m x).fut = g.fut := rfl
@[simp] theorem Group.setV_cause (r : VReg) (m : Mask) (x : Lanes) : (g.setV r m x).cause = g.cause := rfl
@[simp] theorem Group.setV_faddr (r : VReg) (m : Mask) (x : Lanes) : (g.setV r m x).faddr = g.faddr := rfl
@[simp] theorem Group.setV_epc (r : VReg) (m : Mask) (x : Lanes) : (g.setV r m x).epc = g.epc := rfl
@[simp] theorem Group.setV_emask (r : VReg) (m : Mask) (x : Lanes) : (g.setV r m x).emask = g.emask := rfl
@[simp] theorem Group.setV_fpcsr (r : VReg) (m : Mask) (x : Lanes) : (g.setV r m x).fpcsr = g.fpcsr := rfl
@[simp] theorem Group.setV_f4x (r : VReg) (m : Mask) (x : Lanes) : (g.setV r m x).f4x = g.f4x := rfl
@[simp] theorem Group.setV_fmts (r : VReg) (m : Mask) (x : Lanes) : (g.setV r m x).fmts = g.fmts := rfl
@[simp] theorem Group.setV_pa (r : VReg) (m : Mask) (x : Lanes) : (g.setV r m x).pa = g.pa := rfl
@[simp] theorem Group.setV_pb (r : VReg) (m : Mask) (x : Lanes) : (g.setV r m x).pb = g.pb := rfl
@[simp] theorem Group.setV_tokens (r : VReg) (m : Mask) (x : Lanes) : (g.setV r m x).tokens = g.tokens := rfl
@[simp] theorem Group.setV_nums (r : VReg) (m : Mask) (x : Lanes) : (g.setV r m x).nums = g.nums := rfl
@[simp] theorem Group.setV_regroup (r : VReg) (m : Mask) (x : Lanes) : (g.setV r m x).regroup = g.regroup := rfl
@[simp] theorem Group.setV_undo (r : VReg) (m : Mask) (x : Lanes) : (g.setV r m x).undo = g.undo := rfl
@[simp] theorem Group.setV_saved (r : VReg) (m : Mask) (x : Lanes) : (g.setV r m x).saved = g.saved := rfl
@[simp] theorem Group.setV_preempt (r : VReg) (m : Mask) (x : Lanes) : (g.setV r m x).preempt = g.preempt := rfl
@[simp] theorem Group.setV_deadline (r : VReg) (m : Mask) (x : Lanes) : (g.setV r m x).deadline = g.deadline := rfl
@[simp] theorem Group.setV_ending (r : VReg) (m : Mask) (x : Lanes) : (g.setV r m x).ending = g.ending := rfl
@[simp] theorem Group.setC_place (r : CReg) (x : Cap) : (g.setC r x).place = g.place := rfl
@[simp] theorem Group.setC_launch (r : CReg) (x : Cap) : (g.setC r x).launch = g.launch := rfl
@[simp] theorem Group.setC_entry (r : CReg) (x : Cap) : (g.setC r x).entry = g.entry := rfl
@[simp] theorem Group.setC_asid (r : CReg) (x : Cap) : (g.setC r x).asid = g.asid := rfl
@[simp] theorem Group.setC_v (r : CReg) (x : Cap) : (g.setC r x).v = g.v := rfl
@[simp] theorem Group.setC_s (r : CReg) (x : Cap) : (g.setC r x).s = g.s := rfl
@[simp] theorem Group.setC_vbase (r : CReg) (x : Cap) : (g.setC r x).vbase = g.vbase := rfl
@[simp] theorem Group.setC_scrBase (r : CReg) (x : Cap) : (g.setC r x).scrBase = g.scrBase := rfl
@[simp] theorem Group.setC_scrSize (r : CReg) (x : Cap) : (g.setC r x).scrSize = g.scrSize := rfl
@[simp] theorem Group.setC_tobBase (r : CReg) (x : Cap) : (g.setC r x).tobBase = g.tobBase := rfl
@[simp] theorem Group.setC_tobCnt (r : CReg) (x : Cap) : (g.setC r x).tobCnt = g.tobCnt := rfl
@[simp] theorem Group.setC_pri (r : CReg) (x : Cap) : (g.setC r x).pri = g.pri := rfl
@[simp] theorem Group.setC_born (r : CReg) (x : Cap) : (g.setC r x).born = g.born := rfl
@[simp] theorem Group.setC_eid (r : CReg) (x : Cap) : (g.setC r x).eid = g.eid := rfl
@[simp] theorem Group.setC_closure (r : CReg) (x : Cap) : (g.setC r x).closure = g.closure := rfl
@[simp] theorem Group.setC_ctags (r : CReg) (x : Cap) : (g.setC r x).ctags = g.ctags := rfl
@[simp] theorem Group.setC_early (r : CReg) (x : Cap) : (g.setC r x).early = g.early := rfl
@[simp] theorem Group.setC_restart (r : CReg) (x : Cap) : (g.setC r x).restart = g.restart := rfl
@[simp] theorem Group.setC_debug (r : CReg) (x : Cap) : (g.setC r x).debug = g.debug := rfl
@[simp] theorem Group.setC_vregs (r : CReg) (x : Cap) : (g.setC r x).vregs = g.vregs := rfl
@[simp] theorem Group.setC_sregs (r : CReg) (x : Cap) : (g.setC r x).sregs = g.sregs := rfl
@[simp] theorem Group.setC_kregs (r : CReg) (x : Cap) : (g.setC r x).kregs = g.kregs := rfl
@[simp] theorem Group.setC_fut (r : CReg) (x : Cap) : (g.setC r x).fut = g.fut := rfl
@[simp] theorem Group.setC_cause (r : CReg) (x : Cap) : (g.setC r x).cause = g.cause := rfl
@[simp] theorem Group.setC_faddr (r : CReg) (x : Cap) : (g.setC r x).faddr = g.faddr := rfl
@[simp] theorem Group.setC_epc (r : CReg) (x : Cap) : (g.setC r x).epc = g.epc := rfl
@[simp] theorem Group.setC_emask (r : CReg) (x : Cap) : (g.setC r x).emask = g.emask := rfl
@[simp] theorem Group.setC_fpcsr (r : CReg) (x : Cap) : (g.setC r x).fpcsr = g.fpcsr := rfl
@[simp] theorem Group.setC_f4x (r : CReg) (x : Cap) : (g.setC r x).f4x = g.f4x := rfl
@[simp] theorem Group.setC_fmts (r : CReg) (x : Cap) : (g.setC r x).fmts = g.fmts := rfl
@[simp] theorem Group.setC_pa (r : CReg) (x : Cap) : (g.setC r x).pa = g.pa := rfl
@[simp] theorem Group.setC_pb (r : CReg) (x : Cap) : (g.setC r x).pb = g.pb := rfl
@[simp] theorem Group.setC_tokens (r : CReg) (x : Cap) : (g.setC r x).tokens = g.tokens := rfl
@[simp] theorem Group.setC_nums (r : CReg) (x : Cap) : (g.setC r x).nums = g.nums := rfl
@[simp] theorem Group.setC_regroup (r : CReg) (x : Cap) : (g.setC r x).regroup = g.regroup := rfl
@[simp] theorem Group.setC_undo (r : CReg) (x : Cap) : (g.setC r x).undo = g.undo := rfl
@[simp] theorem Group.setC_saved (r : CReg) (x : Cap) : (g.setC r x).saved = g.saved := rfl
@[simp] theorem Group.setC_preempt (r : CReg) (x : Cap) : (g.setC r x).preempt = g.preempt := rfl
@[simp] theorem Group.setC_deadline (r : CReg) (x : Cap) : (g.setC r x).deadline = g.deadline := rfl
@[simp] theorem Group.setC_ending (r : CReg) (x : Cap) : (g.setC r x).ending = g.ending := rfl
@[simp] theorem Group.raise_place (fl : Nat) : (g.raise fl).place = g.place := rfl
@[simp] theorem Group.raise_launch (fl : Nat) : (g.raise fl).launch = g.launch := rfl
@[simp] theorem Group.raise_entry (fl : Nat) : (g.raise fl).entry = g.entry := rfl
@[simp] theorem Group.raise_asid (fl : Nat) : (g.raise fl).asid = g.asid := rfl
@[simp] theorem Group.raise_v (fl : Nat) : (g.raise fl).v = g.v := rfl
@[simp] theorem Group.raise_s (fl : Nat) : (g.raise fl).s = g.s := rfl
@[simp] theorem Group.raise_vbase (fl : Nat) : (g.raise fl).vbase = g.vbase := rfl
@[simp] theorem Group.raise_scrBase (fl : Nat) : (g.raise fl).scrBase = g.scrBase := rfl
@[simp] theorem Group.raise_scrSize (fl : Nat) : (g.raise fl).scrSize = g.scrSize := rfl
@[simp] theorem Group.raise_tobBase (fl : Nat) : (g.raise fl).tobBase = g.tobBase := rfl
@[simp] theorem Group.raise_tobCnt (fl : Nat) : (g.raise fl).tobCnt = g.tobCnt := rfl
@[simp] theorem Group.raise_pri (fl : Nat) : (g.raise fl).pri = g.pri := rfl
@[simp] theorem Group.raise_born (fl : Nat) : (g.raise fl).born = g.born := rfl
@[simp] theorem Group.raise_eid (fl : Nat) : (g.raise fl).eid = g.eid := rfl
@[simp] theorem Group.raise_closure (fl : Nat) : (g.raise fl).closure = g.closure := rfl
@[simp] theorem Group.raise_ctags (fl : Nat) : (g.raise fl).ctags = g.ctags := rfl
@[simp] theorem Group.raise_early (fl : Nat) : (g.raise fl).early = g.early := rfl
@[simp] theorem Group.raise_restart (fl : Nat) : (g.raise fl).restart = g.restart := rfl
@[simp] theorem Group.raise_debug (fl : Nat) : (g.raise fl).debug = g.debug := rfl
@[simp] theorem Group.raise_vregs (fl : Nat) : (g.raise fl).vregs = g.vregs := rfl
@[simp] theorem Group.raise_sregs (fl : Nat) : (g.raise fl).sregs = g.sregs := rfl
@[simp] theorem Group.raise_cregs (fl : Nat) : (g.raise fl).cregs = g.cregs := rfl
@[simp] theorem Group.raise_kregs (fl : Nat) : (g.raise fl).kregs = g.kregs := rfl
@[simp] theorem Group.raise_fut (fl : Nat) : (g.raise fl).fut = g.fut := rfl
@[simp] theorem Group.raise_cause (fl : Nat) : (g.raise fl).cause = g.cause := rfl
@[simp] theorem Group.raise_faddr (fl : Nat) : (g.raise fl).faddr = g.faddr := rfl
@[simp] theorem Group.raise_epc (fl : Nat) : (g.raise fl).epc = g.epc := rfl
@[simp] theorem Group.raise_emask (fl : Nat) : (g.raise fl).emask = g.emask := rfl
@[simp] theorem Group.raise_f4x (fl : Nat) : (g.raise fl).f4x = g.f4x := rfl
@[simp] theorem Group.raise_fmts (fl : Nat) : (g.raise fl).fmts = g.fmts := rfl
@[simp] theorem Group.raise_pa (fl : Nat) : (g.raise fl).pa = g.pa := rfl
@[simp] theorem Group.raise_pb (fl : Nat) : (g.raise fl).pb = g.pb := rfl
@[simp] theorem Group.raise_tokens (fl : Nat) : (g.raise fl).tokens = g.tokens := rfl
@[simp] theorem Group.raise_nums (fl : Nat) : (g.raise fl).nums = g.nums := rfl
@[simp] theorem Group.raise_regroup (fl : Nat) : (g.raise fl).regroup = g.regroup := rfl
@[simp] theorem Group.raise_undo (fl : Nat) : (g.raise fl).undo = g.undo := rfl
@[simp] theorem Group.raise_saved (fl : Nat) : (g.raise fl).saved = g.saved := rfl
@[simp] theorem Group.raise_preempt (fl : Nat) : (g.raise fl).preempt = g.preempt := rfl
@[simp] theorem Group.raise_deadline (fl : Nat) : (g.raise fl).deadline = g.deadline := rfl
@[simp] theorem Group.raise_ending (fl : Nat) : (g.raise fl).ending = g.ending := rfl
@[simp] theorem Group.setK_place (r : KReg) (x : Mask) : (g.setK r x).place = g.place := by unfold Group.setK; split <;> rfl
@[simp] theorem Group.setK_launch (r : KReg) (x : Mask) : (g.setK r x).launch = g.launch := by unfold Group.setK; split <;> rfl
@[simp] theorem Group.setK_entry (r : KReg) (x : Mask) : (g.setK r x).entry = g.entry := by unfold Group.setK; split <;> rfl
@[simp] theorem Group.setK_asid (r : KReg) (x : Mask) : (g.setK r x).asid = g.asid := by unfold Group.setK; split <;> rfl
@[simp] theorem Group.setK_v (r : KReg) (x : Mask) : (g.setK r x).v = g.v := by unfold Group.setK; split <;> rfl
@[simp] theorem Group.setK_s (r : KReg) (x : Mask) : (g.setK r x).s = g.s := by unfold Group.setK; split <;> rfl
@[simp] theorem Group.setK_vbase (r : KReg) (x : Mask) : (g.setK r x).vbase = g.vbase := by unfold Group.setK; split <;> rfl
@[simp] theorem Group.setK_scrBase (r : KReg) (x : Mask) : (g.setK r x).scrBase = g.scrBase := by unfold Group.setK; split <;> rfl
@[simp] theorem Group.setK_scrSize (r : KReg) (x : Mask) : (g.setK r x).scrSize = g.scrSize := by unfold Group.setK; split <;> rfl
@[simp] theorem Group.setK_tobBase (r : KReg) (x : Mask) : (g.setK r x).tobBase = g.tobBase := by unfold Group.setK; split <;> rfl
@[simp] theorem Group.setK_tobCnt (r : KReg) (x : Mask) : (g.setK r x).tobCnt = g.tobCnt := by unfold Group.setK; split <;> rfl
@[simp] theorem Group.setK_pri (r : KReg) (x : Mask) : (g.setK r x).pri = g.pri := by unfold Group.setK; split <;> rfl
@[simp] theorem Group.setK_born (r : KReg) (x : Mask) : (g.setK r x).born = g.born := by unfold Group.setK; split <;> rfl
@[simp] theorem Group.setK_eid (r : KReg) (x : Mask) : (g.setK r x).eid = g.eid := by unfold Group.setK; split <;> rfl
@[simp] theorem Group.setK_closure (r : KReg) (x : Mask) : (g.setK r x).closure = g.closure := by unfold Group.setK; split <;> rfl
@[simp] theorem Group.setK_ctags (r : KReg) (x : Mask) : (g.setK r x).ctags = g.ctags := by unfold Group.setK; split <;> rfl
@[simp] theorem Group.setK_early (r : KReg) (x : Mask) : (g.setK r x).early = g.early := by unfold Group.setK; split <;> rfl
@[simp] theorem Group.setK_restart (r : KReg) (x : Mask) : (g.setK r x).restart = g.restart := by unfold Group.setK; split <;> rfl
@[simp] theorem Group.setK_debug (r : KReg) (x : Mask) : (g.setK r x).debug = g.debug := by unfold Group.setK; split <;> rfl
@[simp] theorem Group.setK_vregs (r : KReg) (x : Mask) : (g.setK r x).vregs = g.vregs := by unfold Group.setK; split <;> rfl
@[simp] theorem Group.setK_sregs (r : KReg) (x : Mask) : (g.setK r x).sregs = g.sregs := by unfold Group.setK; split <;> rfl
@[simp] theorem Group.setK_cregs (r : KReg) (x : Mask) : (g.setK r x).cregs = g.cregs := by unfold Group.setK; split <;> rfl
@[simp] theorem Group.setK_fut (r : KReg) (x : Mask) : (g.setK r x).fut = g.fut := by unfold Group.setK; split <;> rfl
@[simp] theorem Group.setK_cause (r : KReg) (x : Mask) : (g.setK r x).cause = g.cause := by unfold Group.setK; split <;> rfl
@[simp] theorem Group.setK_faddr (r : KReg) (x : Mask) : (g.setK r x).faddr = g.faddr := by unfold Group.setK; split <;> rfl
@[simp] theorem Group.setK_epc (r : KReg) (x : Mask) : (g.setK r x).epc = g.epc := by unfold Group.setK; split <;> rfl
@[simp] theorem Group.setK_emask (r : KReg) (x : Mask) : (g.setK r x).emask = g.emask := by unfold Group.setK; split <;> rfl
@[simp] theorem Group.setK_fpcsr (r : KReg) (x : Mask) : (g.setK r x).fpcsr = g.fpcsr := by unfold Group.setK; split <;> rfl
@[simp] theorem Group.setK_f4x (r : KReg) (x : Mask) : (g.setK r x).f4x = g.f4x := by unfold Group.setK; split <;> rfl
@[simp] theorem Group.setK_fmts (r : KReg) (x : Mask) : (g.setK r x).fmts = g.fmts := by unfold Group.setK; split <;> rfl
@[simp] theorem Group.setK_pa (r : KReg) (x : Mask) : (g.setK r x).pa = g.pa := by unfold Group.setK; split <;> rfl
@[simp] theorem Group.setK_pb (r : KReg) (x : Mask) : (g.setK r x).pb = g.pb := by unfold Group.setK; split <;> rfl
@[simp] theorem Group.setK_tokens (r : KReg) (x : Mask) : (g.setK r x).tokens = g.tokens := by unfold Group.setK; split <;> rfl
@[simp] theorem Group.setK_nums (r : KReg) (x : Mask) : (g.setK r x).nums = g.nums := by unfold Group.setK; split <;> rfl
@[simp] theorem Group.setK_regroup (r : KReg) (x : Mask) : (g.setK r x).regroup = g.regroup := by unfold Group.setK; split <;> rfl
@[simp] theorem Group.setK_undo (r : KReg) (x : Mask) : (g.setK r x).undo = g.undo := by unfold Group.setK; split <;> rfl
@[simp] theorem Group.setK_saved (r : KReg) (x : Mask) : (g.setK r x).saved = g.saved := by unfold Group.setK; split <;> rfl
@[simp] theorem Group.setK_preempt (r : KReg) (x : Mask) : (g.setK r x).preempt = g.preempt := by unfold Group.setK; split <;> rfl
@[simp] theorem Group.setK_deadline (r : KReg) (x : Mask) : (g.setK r x).deadline = g.deadline := by unfold Group.setK; split <;> rfl
@[simp] theorem Group.setK_ending (r : KReg) (x : Mask) : (g.setK r x).ending = g.ending := by unfold Group.setK; split <;> rfl
@[simp] theorem Group.log_place (u : Undo) : (g.log u).place = g.place := by unfold Group.log; split <;> rfl
@[simp] theorem Group.log_launch (u : Undo) : (g.log u).launch = g.launch := by unfold Group.log; split <;> rfl
@[simp] theorem Group.log_entry (u : Undo) : (g.log u).entry = g.entry := by unfold Group.log; split <;> rfl
@[simp] theorem Group.log_asid (u : Undo) : (g.log u).asid = g.asid := by unfold Group.log; split <;> rfl
@[simp] theorem Group.log_v (u : Undo) : (g.log u).v = g.v := by unfold Group.log; split <;> rfl
@[simp] theorem Group.log_s (u : Undo) : (g.log u).s = g.s := by unfold Group.log; split <;> rfl
@[simp] theorem Group.log_vbase (u : Undo) : (g.log u).vbase = g.vbase := by unfold Group.log; split <;> rfl
@[simp] theorem Group.log_scrBase (u : Undo) : (g.log u).scrBase = g.scrBase := by unfold Group.log; split <;> rfl
@[simp] theorem Group.log_scrSize (u : Undo) : (g.log u).scrSize = g.scrSize := by unfold Group.log; split <;> rfl
@[simp] theorem Group.log_tobBase (u : Undo) : (g.log u).tobBase = g.tobBase := by unfold Group.log; split <;> rfl
@[simp] theorem Group.log_tobCnt (u : Undo) : (g.log u).tobCnt = g.tobCnt := by unfold Group.log; split <;> rfl
@[simp] theorem Group.log_pri (u : Undo) : (g.log u).pri = g.pri := by unfold Group.log; split <;> rfl
@[simp] theorem Group.log_born (u : Undo) : (g.log u).born = g.born := by unfold Group.log; split <;> rfl
@[simp] theorem Group.log_eid (u : Undo) : (g.log u).eid = g.eid := by unfold Group.log; split <;> rfl
@[simp] theorem Group.log_closure (u : Undo) : (g.log u).closure = g.closure := by unfold Group.log; split <;> rfl
@[simp] theorem Group.log_ctags (u : Undo) : (g.log u).ctags = g.ctags := by unfold Group.log; split <;> rfl
@[simp] theorem Group.log_early (u : Undo) : (g.log u).early = g.early := by unfold Group.log; split <;> rfl
@[simp] theorem Group.log_restart (u : Undo) : (g.log u).restart = g.restart := by unfold Group.log; split <;> rfl
@[simp] theorem Group.log_debug (u : Undo) : (g.log u).debug = g.debug := by unfold Group.log; split <;> rfl
@[simp] theorem Group.log_vregs (u : Undo) : (g.log u).vregs = g.vregs := by unfold Group.log; split <;> rfl
@[simp] theorem Group.log_sregs (u : Undo) : (g.log u).sregs = g.sregs := by unfold Group.log; split <;> rfl
@[simp] theorem Group.log_cregs (u : Undo) : (g.log u).cregs = g.cregs := by unfold Group.log; split <;> rfl
@[simp] theorem Group.log_kregs (u : Undo) : (g.log u).kregs = g.kregs := by unfold Group.log; split <;> rfl
@[simp] theorem Group.log_fut (u : Undo) : (g.log u).fut = g.fut := by unfold Group.log; split <;> rfl
@[simp] theorem Group.log_cause (u : Undo) : (g.log u).cause = g.cause := by unfold Group.log; split <;> rfl
@[simp] theorem Group.log_faddr (u : Undo) : (g.log u).faddr = g.faddr := by unfold Group.log; split <;> rfl
@[simp] theorem Group.log_epc (u : Undo) : (g.log u).epc = g.epc := by unfold Group.log; split <;> rfl
@[simp] theorem Group.log_emask (u : Undo) : (g.log u).emask = g.emask := by unfold Group.log; split <;> rfl
@[simp] theorem Group.log_fpcsr (u : Undo) : (g.log u).fpcsr = g.fpcsr := by unfold Group.log; split <;> rfl
@[simp] theorem Group.log_f4x (u : Undo) : (g.log u).f4x = g.f4x := by unfold Group.log; split <;> rfl
@[simp] theorem Group.log_fmts (u : Undo) : (g.log u).fmts = g.fmts := by unfold Group.log; split <;> rfl
@[simp] theorem Group.log_pa (u : Undo) : (g.log u).pa = g.pa := by unfold Group.log; split <;> rfl
@[simp] theorem Group.log_pb (u : Undo) : (g.log u).pb = g.pb := by unfold Group.log; split <;> rfl
@[simp] theorem Group.log_tokens (u : Undo) : (g.log u).tokens = g.tokens := by unfold Group.log; split <;> rfl
@[simp] theorem Group.log_nums (u : Undo) : (g.log u).nums = g.nums := by unfold Group.log; split <;> rfl
@[simp] theorem Group.log_regroup (u : Undo) : (g.log u).regroup = g.regroup := by unfold Group.log; split <;> rfl
@[simp] theorem Group.log_saved (u : Undo) : (g.log u).saved = g.saved := by unfold Group.log; split <;> rfl
@[simp] theorem Group.log_preempt (u : Undo) : (g.log u).preempt = g.preempt := by unfold Group.log; split <;> rfl
@[simp] theorem Group.log_deadline (u : Undo) : (g.log u).deadline = g.deadline := by unfold Group.log; split <;> rfl
@[simp] theorem Group.log_ending (u : Undo) : (g.log u).ending = g.ending := by unfold Group.log; split <;> rfl
@[simp] theorem Group.setPath_place (b : Bool) (p : Path) : (g.setPath b p).place = g.place := by unfold Group.setPath; split <;> rfl
@[simp] theorem Group.setPath_launch (b : Bool) (p : Path) : (g.setPath b p).launch = g.launch := by unfold Group.setPath; split <;> rfl
@[simp] theorem Group.setPath_entry (b : Bool) (p : Path) : (g.setPath b p).entry = g.entry := by unfold Group.setPath; split <;> rfl
@[simp] theorem Group.setPath_asid (b : Bool) (p : Path) : (g.setPath b p).asid = g.asid := by unfold Group.setPath; split <;> rfl
@[simp] theorem Group.setPath_v (b : Bool) (p : Path) : (g.setPath b p).v = g.v := by unfold Group.setPath; split <;> rfl
@[simp] theorem Group.setPath_s (b : Bool) (p : Path) : (g.setPath b p).s = g.s := by unfold Group.setPath; split <;> rfl
@[simp] theorem Group.setPath_vbase (b : Bool) (p : Path) : (g.setPath b p).vbase = g.vbase := by unfold Group.setPath; split <;> rfl
@[simp] theorem Group.setPath_scrBase (b : Bool) (p : Path) : (g.setPath b p).scrBase = g.scrBase := by unfold Group.setPath; split <;> rfl
@[simp] theorem Group.setPath_scrSize (b : Bool) (p : Path) : (g.setPath b p).scrSize = g.scrSize := by unfold Group.setPath; split <;> rfl
@[simp] theorem Group.setPath_tobBase (b : Bool) (p : Path) : (g.setPath b p).tobBase = g.tobBase := by unfold Group.setPath; split <;> rfl
@[simp] theorem Group.setPath_tobCnt (b : Bool) (p : Path) : (g.setPath b p).tobCnt = g.tobCnt := by unfold Group.setPath; split <;> rfl
@[simp] theorem Group.setPath_pri (b : Bool) (p : Path) : (g.setPath b p).pri = g.pri := by unfold Group.setPath; split <;> rfl
@[simp] theorem Group.setPath_born (b : Bool) (p : Path) : (g.setPath b p).born = g.born := by unfold Group.setPath; split <;> rfl
@[simp] theorem Group.setPath_eid (b : Bool) (p : Path) : (g.setPath b p).eid = g.eid := by unfold Group.setPath; split <;> rfl
@[simp] theorem Group.setPath_closure (b : Bool) (p : Path) : (g.setPath b p).closure = g.closure := by unfold Group.setPath; split <;> rfl
@[simp] theorem Group.setPath_ctags (b : Bool) (p : Path) : (g.setPath b p).ctags = g.ctags := by unfold Group.setPath; split <;> rfl
@[simp] theorem Group.setPath_early (b : Bool) (p : Path) : (g.setPath b p).early = g.early := by unfold Group.setPath; split <;> rfl
@[simp] theorem Group.setPath_restart (b : Bool) (p : Path) : (g.setPath b p).restart = g.restart := by unfold Group.setPath; split <;> rfl
@[simp] theorem Group.setPath_debug (b : Bool) (p : Path) : (g.setPath b p).debug = g.debug := by unfold Group.setPath; split <;> rfl
@[simp] theorem Group.setPath_vregs (b : Bool) (p : Path) : (g.setPath b p).vregs = g.vregs := by unfold Group.setPath; split <;> rfl
@[simp] theorem Group.setPath_sregs (b : Bool) (p : Path) : (g.setPath b p).sregs = g.sregs := by unfold Group.setPath; split <;> rfl
@[simp] theorem Group.setPath_cregs (b : Bool) (p : Path) : (g.setPath b p).cregs = g.cregs := by unfold Group.setPath; split <;> rfl
@[simp] theorem Group.setPath_kregs (b : Bool) (p : Path) : (g.setPath b p).kregs = g.kregs := by unfold Group.setPath; split <;> rfl
@[simp] theorem Group.setPath_fut (b : Bool) (p : Path) : (g.setPath b p).fut = g.fut := by unfold Group.setPath; split <;> rfl
@[simp] theorem Group.setPath_cause (b : Bool) (p : Path) : (g.setPath b p).cause = g.cause := by unfold Group.setPath; split <;> rfl
@[simp] theorem Group.setPath_faddr (b : Bool) (p : Path) : (g.setPath b p).faddr = g.faddr := by unfold Group.setPath; split <;> rfl
@[simp] theorem Group.setPath_epc (b : Bool) (p : Path) : (g.setPath b p).epc = g.epc := by unfold Group.setPath; split <;> rfl
@[simp] theorem Group.setPath_emask (b : Bool) (p : Path) : (g.setPath b p).emask = g.emask := by unfold Group.setPath; split <;> rfl
@[simp] theorem Group.setPath_fpcsr (b : Bool) (p : Path) : (g.setPath b p).fpcsr = g.fpcsr := by unfold Group.setPath; split <;> rfl
@[simp] theorem Group.setPath_f4x (b : Bool) (p : Path) : (g.setPath b p).f4x = g.f4x := by unfold Group.setPath; split <;> rfl
@[simp] theorem Group.setPath_fmts (b : Bool) (p : Path) : (g.setPath b p).fmts = g.fmts := by unfold Group.setPath; split <;> rfl
@[simp] theorem Group.setPath_tokens (b : Bool) (p : Path) : (g.setPath b p).tokens = g.tokens := by unfold Group.setPath; split <;> rfl
@[simp] theorem Group.setPath_nums (b : Bool) (p : Path) : (g.setPath b p).nums = g.nums := by unfold Group.setPath; split <;> rfl
@[simp] theorem Group.setPath_regroup (b : Bool) (p : Path) : (g.setPath b p).regroup = g.regroup := by unfold Group.setPath; split <;> rfl
@[simp] theorem Group.setPath_undo (b : Bool) (p : Path) : (g.setPath b p).undo = g.undo := by unfold Group.setPath; split <;> rfl
@[simp] theorem Group.setPath_saved (b : Bool) (p : Path) : (g.setPath b p).saved = g.saved := by unfold Group.setPath; split <;> rfl
@[simp] theorem Group.setPath_preempt (b : Bool) (p : Path) : (g.setPath b p).preempt = g.preempt := by unfold Group.setPath; split <;> rfl
@[simp] theorem Group.setPath_deadline (b : Bool) (p : Path) : (g.setPath b p).deadline = g.deadline := by unfold Group.setPath; split <;> rfl
@[simp] theorem Group.setPath_ending (b : Bool) (p : Path) : (g.setPath b p).ending = g.ending := by unfold Group.setPath; split <;> rfl

theorem Group.log_undo (u : Undo) (h : g.debug = false) : (g.log u).undo = g.undo := by simp [Group.log, h]
@[simp] theorem Group.path_setPath (b : Bool) (p : Path) : (g.setPath b p).path b = p := by cases b <;> rfl
@[simp] theorem Group.path_setPath_not (b : Bool) (p : Path) : (g.setPath b p).path (!b) = g.path (!b) := by cases b <;> rfl
@[simp] theorem Group.path_not_setPath (b : Bool) (p : Path) : (g.setPath (!b) p).path b = g.path b := by cases b <;> rfl
@[simp] theorem Group.log_path (u : Undo) (b : Bool) : (g.log u).path b = g.path b := by simp [Group.path]
@[simp] theorem Group.setS_path (r : SReg) (x : W64) (b : Bool) : (g.setS r x).path b = g.path b := rfl
@[simp] theorem Group.setV_path (r : VReg) (m : Mask) (x : Lanes) (b : Bool) : (g.setV r m x).path b = g.path b := rfl
@[simp] theorem Group.setC_path (r : CReg) (x : Cap) (b : Bool) : (g.setC r x).path b = g.path b := rfl
@[simp] theorem Group.setK_path (r : KReg) (x : Mask) (b : Bool) : (g.setK r x).path b = g.path b := by simp [Group.path]
@[simp] theorem Group.raise_path (fl : Nat) (b : Bool) : (g.raise fl).path b = g.path b := rfl

/-! ### Registers -/

theorem Group.setS_sreg (r q : SReg) (x : W64) : (g.setS r x).sreg q = if q = r then x else g.sreg q := by
  simp [Group.setS, Group.sreg, Store.get_put, BitVec.toNat_inj]
@[simp] theorem Group.setS_sreg_same (r : SReg) (x : W64) : (g.setS r x).sreg r = x := by simp [Group.setS_sreg]
theorem Group.setV_vreg (r q : VReg) (m : Mask) (x : Lanes) :
    (g.setV r m x).vreg q = if q = r then (g.vreg r).merge x m else g.vreg q := by
  simp [Group.setV, Group.vreg, Store.get_put, BitVec.toNat_inj]
theorem Group.setC_creg (r q : CReg) (x : Cap) : (g.setC r x).creg q = if q = r then x else g.creg q := by
  simp [Group.setC, Group.creg, Store.get_put, BitVec.toNat_inj]
@[simp] theorem Group.setC_creg_same (r : CReg) (x : Cap) : (g.setC r x).creg r = x := by simp [Group.setC_creg]
/-- k0 is not written (07 R173). -/
theorem Group.setK_kreg (r q : KReg) (x : Mask) : (g.setK r x).kreg q = if q = r ∧ r ≠ 0 then x else g.kreg q := by
  by_cases h : r = 0
  · simp [Group.setK, h]
  · rw [Group.setK, if_neg h]
    simp only [Group.kreg, Store.get_put, BitVec.toNat_inj, ne_eq, h, not_false_eq_true, and_true]

@[simp] theorem Group.setV_sreg' (r : VReg) (m : Mask) (x : Lanes) (q : SReg) : (g.setV r m x).sreg q = g.sreg q := by simp [Group.sreg]
@[simp] theorem Group.setC_sreg' (r : CReg) (x : Cap) (q : SReg) : (g.setC r x).sreg q = g.sreg q := by simp [Group.sreg]
@[simp] theorem Group.setK_sreg' (r : KReg) (x : Mask) (q : SReg) : (g.setK r x).sreg q = g.sreg q := by simp [Group.sreg]
@[simp] theorem Group.log_sreg' (u : Undo) (q : SReg) : (g.log u).sreg q = g.sreg q := by simp [Group.sreg]
@[simp] theorem Group.setPath_sreg' (b : Bool) (p : Path) (q : SReg) : (g.setPath b p).sreg q = g.sreg q := by simp [Group.sreg]
@[simp] theorem Group.raise_sreg' (fl : Nat) (q : SReg) : (g.raise fl).sreg q = g.sreg q := by simp [Group.sreg]
@[simp] theorem Group.setS_vreg' (r : SReg) (x : W64) (q : VReg) : (g.setS r x).vreg q = g.vreg q := by simp [Group.vreg]
@[simp] theorem Group.setC_vreg' (r : CReg) (x : Cap) (q : VReg) : (g.setC r x).vreg q = g.vreg q := by simp [Group.vreg]
@[simp] theorem Group.setK_vreg' (r : KReg) (x : Mask) (q : VReg) : (g.setK r x).vreg q = g.vreg q := by simp [Group.vreg]
@[simp] theorem Group.log_vreg' (u : Undo) (q : VReg) : (g.log u).vreg q = g.vreg q := by simp [Group.vreg]
@[simp] theorem Group.setPath_vreg' (b : Bool) (p : Path) (q : VReg) : (g.setPath b p).vreg q = g.vreg q := by simp [Group.vreg]
@[simp] theorem Group.raise_vreg' (fl : Nat) (q : VReg) : (g.raise fl).vreg q = g.vreg q := by simp [Group.vreg]
@[simp] theorem Group.setS_creg' (r : SReg) (x : W64) (q : CReg) : (g.setS r x).creg q = g.creg q := by simp [Group.creg]
@[simp] theorem Group.setV_creg' (r : VReg) (m : Mask) (x : Lanes) (q : CReg) : (g.setV r m x).creg q = g.creg q := by simp [Group.creg]
@[simp] theorem Group.setK_creg' (r : KReg) (x : Mask) (q : CReg) : (g.setK r x).creg q = g.creg q := by simp [Group.creg]
@[simp] theorem Group.log_creg' (u : Undo) (q : CReg) : (g.log u).creg q = g.creg q := by simp [Group.creg]
@[simp] theorem Group.setPath_creg' (b : Bool) (p : Path) (q : CReg) : (g.setPath b p).creg q = g.creg q := by simp [Group.creg]
@[simp] theorem Group.raise_creg' (fl : Nat) (q : CReg) : (g.raise fl).creg q = g.creg q := by simp [Group.creg]
@[simp] theorem Group.setS_kreg' (r : SReg) (x : W64) (q : KReg) : (g.setS r x).kreg q = g.kreg q := by simp [Group.kreg]
@[simp] theorem Group.setV_kreg' (r : VReg) (m : Mask) (x : Lanes) (q : KReg) : (g.setV r m x).kreg q = g.kreg q := by simp [Group.kreg]
@[simp] theorem Group.setC_kreg' (r : CReg) (x : Cap) (q : KReg) : (g.setC r x).kreg q = g.kreg q := by simp [Group.kreg]
@[simp] theorem Group.log_kreg' (u : Undo) (q : KReg) : (g.log u).kreg q = g.kreg q := by simp [Group.kreg]
@[simp] theorem Group.setPath_kreg' (b : Bool) (p : Path) (q : KReg) : (g.setPath b p).kreg q = g.kreg q := by simp [Group.kreg]
@[simp] theorem Group.raise_kreg' (fl : Nat) (q : KReg) : (g.raise fl).kreg q = g.kreg q := by simp [Group.kreg]

/-- Reading a lane after a merge (07 R173): the new value in the lanes of the mask, the old one elsewhere. -/
theorem Lanes.at_mkLanes (f : Nat → W32) {l : Nat} (h : l < 32) : (mkLanes f).at l = f l := by
  simp [mkLanes, Lanes.at, List.getD_eq_getElem?_getD, h]

theorem Lanes.at_merge (old new : Lanes) (m : Mask) {l : Nat} (h : l < 32) :
    (old.merge new m).at l = if m.getLsbD l then new.at l else old.at l := by
  rw [Lanes.merge, Lanes.at_mkLanes _ h]

/-! ### The issuing group -/

variable {s : State}

theorem State.issuing.find (h : s.issuing) : Store.find s.groups s.cur.gid = some s.g := by
  unfold State.issuing at h
  unfold State.g State.grp
  obtain ⟨x, hx⟩ := Option.isSome_iff_exists.mp h
  simp [hx]

theorem State.modGrp_of_find {gid : Nat} {x : Group} (f : Group → Group) (h : Store.find s.groups gid = some x) :
    s.modGrp gid f = s.setGrp gid (f x) := by simp [State.modGrp, h]

theorem State.modG_eq (h : s.issuing) (f : Group → Group) : s.modG f = s.setGrp s.cur.gid (f s.g) :=
  State.modGrp_of_find f h.find

@[simp] theorem State.modGrp_cur (gid : Nat) (f : Group → Group) : (s.modGrp gid f).cur = s.cur := by
  unfold State.modGrp; split <;> rfl
@[simp] theorem State.modG_cur (f : Group → Group) : (s.modG f).cur = s.cur := State.modGrp_cur _ _

theorem State.modG_g (h : s.issuing) (f : Group → Group) : (s.modG f).g = f s.g := by
  rw [State.modG_eq h]; simp [State.g, State.grp]

theorem State.modG_issuing (h : s.issuing) (f : Group → Group) : (s.modG f).issuing := by
  rw [State.modG_eq h]; simp [State.issuing]

/-- Two changes of the issuing group are one. -/
theorem State.modG_modG (h : s.issuing) (f k : Group → Group) : (s.modG f).modG k = s.modG fun x => k (f x) := by
  rw [State.modG_eq (State.modG_issuing h f), State.modG_g h, State.modG_eq h, State.modG_eq h]
  simp [State.setGrp]

theorem State.modG_congr (h : s.issuing) {f k : Group → Group} (hf : f s.g = k s.g) : s.modG f = s.modG k := by
  rw [State.modG_eq h, State.modG_eq h, hf]

theorem State.modG_sameOutside (f : Group → Group) : s.sameOutside (s.modG f) := by
  unfold State.modG State.modGrp; split <;> rfl

theorem State.modG_sameOthers (f : Group → Group) : s.sameOthers (s.modG f) := by
  intro gid hne
  unfold State.modG State.modGrp
  split
  · simp [Store.find_put_ne _ _ hne]
  · rfl

theorem State.sameOutside.mem {t : State} (h : s.sameOutside t) : t.mem = s.mem := by
  unfold State.sameOutside at h
  have h' := congrArg State.mem h
  exact h'

theorem State.sameOutside.bytes {t : State} (h : s.sameOutside t) : s.sameBytes t := fun a =>
  congrArg (Store.get Memory.unlisted · a) h.mem

/-! ### What a change of a group keeps -/

theorem Group.Kept.refl (g : Group) (b : Bool) (w : Writes) : g.Kept g b w :=
  ⟨fun _ _ => rfl, fun _ _ => rfl, fun _ _ => rfl, fun _ _ => rfl, fun _ => rfl, rfl, fun _ => rfl, rfl⟩

theorem Group.Kept.trans {g g' g'' : Group} {b : Bool} {w : Writes} (h : g.Kept g' b w) (h' : g'.Kept g'' b w)
    (hd : g'.debug = g.debug) : g.Kept g'' b w :=
  ⟨fun r hr => (h'.sregs r hr).trans (h.sregs r hr), fun r hr => (h'.vregs r hr).trans (h.vregs r hr),
    fun r hr => (h'.cregs r hr).trans (h.cregs r hr), fun r hr => (h'.kregs r hr).trans (h.kregs r hr),
    fun hf => (h'.status hf).trans (h.status hf), h'.rest.trans h.rest,
    fun hu => (h'.undo (hd.trans hu)).trans (h.undo hu), h'.other.trans h.other⟩

theorem Group.kept_setS (b : Bool) (w : Writes) (r : SReg) (x : W64) (h : r ∈ w.s) : g.Kept (g.setS r x) b w :=
  ⟨fun q hq => by rw [Group.setS_sreg, if_neg (by rintro rfl; exact hq h)], by simp, by simp, by simp, by simp, rfl, by simp, by simp⟩

theorem Group.kept_setV (b : Bool) (w : Writes) (r : VReg) (m : Mask) (x : Lanes) (h : r ∈ w.v) :
    g.Kept (g.setV r m x) b w :=
  ⟨by simp, fun q hq => by rw [Group.setV_vreg, if_neg (by rintro rfl; exact hq h)], by simp, by simp, by simp, rfl, by simp, by simp⟩

theorem Group.kept_setC (b : Bool) (w : Writes) (r : CReg) (x : Cap) (h : r ∈ w.c) : g.Kept (g.setC r x) b w :=
  ⟨by simp, by simp, fun q hq => by rw [Group.setC_creg, if_neg (by rintro rfl; exact hq h)], by simp, by simp, rfl, by simp, by simp⟩

theorem Group.kept_setK (b : Bool) (w : Writes) (r : KReg) (x : Mask) (h : r ∈ w.k) : g.Kept (g.setK r x) b w :=
  ⟨by simp, by simp, by simp, fun q hq => by rw [Group.setK_kreg, if_neg (by rintro ⟨rfl, -⟩; exact hq h)], by simp,
    by unfold Group.setK; split <;> rfl, by simp, by simp⟩

theorem Group.kept_log (b : Bool) (w : Writes) (u : Undo) : g.Kept (g.log u) b w :=
  ⟨by simp, by simp, by simp, by simp, by simp, by unfold Group.log; split <;> rfl, fun h => g.log_undo u h, by simp⟩

theorem Group.kept_setPath (b : Bool) (w : Writes) (p : Path) : g.Kept (g.setPath b p) b w :=
  ⟨by simp, by simp, by simp, by simp, by simp, by cases b <;> rfl, by simp, by simp⟩

theorem Group.kept_raise (b : Bool) (w : Writes) (fl : Nat) (h : w.fl = true) : g.Kept (g.raise fl) b w :=
  ⟨by simp, by simp, by simp, by simp, by simp [h], rfl, by simp, by simp⟩

/-- What a register write may write. -/
def RegWrite.inside (w : Writes) : RegWrite → Prop
  | .s r _ => r ∈ w.s
  | .v r _ _ => r ∈ w.v
  | .c r _ => r ∈ w.c
  | .k r _ => r ∈ w.k

theorem Group.kept_apply (b : Bool) (w : Writes) (ia : VA) (x : RegWrite) (h : x.inside w) :
    g.Kept (g.apply ia x) b w := by
  cases x with
  | s r v => exact (g.kept_log b w _).trans (Group.kept_setS _ b w r v h) (by simp)
  | v r m v => exact (g.kept_log b w _).trans (Group.kept_setV _ b w r m v h) (by simp)
  | k r v => exact (g.kept_log b w _).trans (Group.kept_setK _ b w r v h) (by simp)
  | c r v => exact (g.kept_log b w _).trans (Group.kept_setC _ b w r v h) (by simp)

@[simp] theorem Group.apply_path (ia : VA) (x : RegWrite) (b : Bool) : (g.apply ia x).path b = g.path b := by
  cases x <;> simp [Group.apply]
@[simp] theorem Group.apply_debug (ia : VA) (x : RegWrite) : (g.apply ia x).debug = g.debug := by
  cases x <;> simp [Group.apply]

/-- The frame of a change of the issuing group, from what the change keeps of the group. -/
theorem State.modG_frame (h : s.issuing) (f : Group → Group) (w : Writes) (hk : s.g.Kept (f s.g) s.cur.b w) :
    s.Frame (s.modG f) w :=
  ⟨by rw [State.modG_g h]; exact hk, State.modG_sameOutside f, State.modG_sameOthers f, (State.modG_sameOutside f).bytes⟩

@[simp] theorem State.wr_cur (w : RegWrite) : (s.wr w).cur = s.cur := State.modG_cur _

theorem State.p_eq : s.p = s.g.path s.cur.b := rfl
theorem State.q_eq : s.q = s.g.path (!s.cur.b) := rfl

end Sys2Proof.Machine
end

