-- ==== Sys2Proof/Laws/Effects.lean ====
section
/-! SUPPORT. What the shared endings of the register instructions do: register writes and a move past the instruction,
with their frame. -/

namespace Sys2Proof.Machine

variable {s : State}

/-- Several register writes of one instruction, as one change of the group. -/
def Group.applyAll (g : Group) (ia : VA) (l : List RegWrite) : Group := l.foldl (fun x w => x.apply ia w) g

@[simp] theorem Group.applyAll_path (g : Group) (ia : VA) (l : List RegWrite) (b : Bool) :
    (g.applyAll ia l).path b = g.path b := by
  induction l generalizing g with
  | nil => rfl
  | cons w l ih => exact (ih _).trans (by simp)

@[simp] theorem Group.applyAll_debug (g : Group) (ia : VA) (l : List RegWrite) : (g.applyAll ia l).debug = g.debug := by
  induction l generalizing g with
  | nil => rfl
  | cons w l ih => exact (ih _).trans (by simp)

theorem Group.kept_applyAll (g : Group) (b : Bool) (w : Writes) (ia : VA) (l : List RegWrite) (h : ∀ x ∈ l, x.inside w) :
    g.Kept (g.applyAll ia l) b w := by
  induction l generalizing g with
  | nil => exact Group.Kept.refl g b w
  | cons x l ih =>
    exact (g.kept_apply b w ia x (h x (by simp))).trans (ih _ fun y hy => h y (by simp [hy])) (by simp)

theorem State.wr_p (h : s.issuing) (w : RegWrite) : (s.wr w).p = s.p := by
  rw [State.wr, State.p_eq, State.modG_g h, State.modG_cur]; simp [State.p_eq]

theorem State.wr_issuing (h : s.issuing) (w : RegWrite) : (s.wr w).issuing := State.modG_issuing h _

/-- Writes and the move past an instruction of `n` bytes are one change of the issuing group. -/
theorem State.wrs_retire (h : s.issuing) (l : List RegWrite) (n : Nat) :
    (s.wrs l).retire n = s.modG fun g => (g.applyAll s.p.pc l).setPath s.cur.b ((g.path s.cur.b).past n) := by
  induction l generalizing s with
  | nil => rfl
  | cons w l ih =>
    have e : (s.wrs (w :: l)).retire n = ((s.wr w).wrs l).retire n := rfl
    rw [e, ih (State.wr_issuing h w), State.wr_p h, State.wr_cur, State.wr, State.modG_modG h]
    refine State.modG_congr h ?_
    simp [Group.applyAll]

/-- The end of an instruction whose whole effect is register writes. -/
theorem State.wrs_retire_frame (h : s.issuing) (l : List RegWrite) (n : Nat) (w : Writes) (hw : ∀ x ∈ l, x.inside w) :
    s.Frame ((s.wrs l).retire n) w ∧ ((s.wrs l).retire n).p = s.p.past n ∧
      ((s.wrs l).retire n).g = (s.g.applyAll s.p.pc l).setPath s.cur.b (s.p.past n) := by
  rw [State.wrs_retire h]
  refine ⟨State.modG_frame h _ w ?_, ?_, ?_⟩
  · exact (Group.kept_applyAll _ _ w _ l hw).trans (Group.kept_setPath _ _ w _) (by simp)
  · rw [State.p_eq, State.modG_g h, State.modG_cur]; simp [State.p_eq]
  · rw [State.modG_g h, State.p_eq]

/-- A move past an instruction and nothing else. -/
theorem State.retire_frame (h : s.issuing) (n : Nat) : s.Frame (s.retire n) {} ∧ (s.retire n).p = s.p.past n :=
  have r := State.wrs_retire_frame h [] n {} (by simp)
  ⟨r.1, r.2.1⟩

theorem State.ws_retire (h : s.issuing) (d : SReg) (v : W64) (n : Nat) :
    ((s.ws d v).retire n).g.sreg d = v ∧ s.Frame ((s.ws d v).retire n) { s := [d] } ∧
      ((s.ws d v).retire n).p = s.p.past n := by
  have r := State.wrs_retire_frame h [.s d v] n { s := [d] } (by simp [RegWrite.inside])
  refine ⟨?_, r.1, r.2.1⟩
  have e : ((s.ws d v).retire n).g = _ := r.2.2
  rw [e]; simp [Group.applyAll, Group.apply]

theorem State.wc_retire (h : s.issuing) (d : CReg) (v : Cap) (n : Nat) :
    ((s.wc d v).retire n).g.creg d = v ∧ s.Frame ((s.wc d v).retire n) { c := [d] } ∧
      ((s.wc d v).retire n).p = s.p.past n := by
  have r := State.wrs_retire_frame h [.c d v] n { c := [d] } (by simp [RegWrite.inside])
  refine ⟨?_, r.1, r.2.1⟩
  have e : ((s.wc d v).retire n).g = _ := r.2.2
  rw [e]; simp [Group.applyAll, Group.apply]

/-- A write of k0 is discarded (07 R173). -/
theorem State.wk_retire (h : s.issuing) (d : KReg) (v : Mask) (n : Nat) :
    (d ≠ 0 → ((s.wk d v).retire n).g.kreg d = v) ∧ s.Frame ((s.wk d v).retire n) { k := [d] } ∧
      ((s.wk d v).retire n).p = s.p.past n := by
  have r := State.wrs_retire_frame h [.k d v] n { k := [d] } (by simp [RegWrite.inside])
  refine ⟨fun hd => ?_, r.1, r.2.1⟩
  have e : ((s.wk d v).retire n).g = _ := r.2.2
  rw [e]; simp [Group.applyAll, Group.apply, Group.setK_kreg]
  exact fun e => absurd e hd

end Sys2Proof.Machine
end

