-- ==== Sys2Proof/Laws/Encoding.lean ====
section
/-! SUPPORT. The codes of the typed fields and the operand forms read back what was written (09 R218-R221). -/

namespace Sys2Proof

/-! ### Typed fields -/

@[simp] theorem STy.ofCode_code (x : STy) : STy.ofCode x.code = some x := by cases x <;> rfl
@[simp] theorem ETy.ofCode_code (x : ETy) : ETy.ofCode x.code = some x := by cases x <;> rfl
@[simp] theorem Cmp.ofCode_code (x : Cmp) : Cmp.ofCode x.code = some x := by cases x <;> rfl
@[simp] theorem Cmp.ofWaitCode_waitCode (x : Cmp) : Cmp.ofWaitCode x.waitCode = some x := by cases x <;> rfl
@[simp] theorem FCmp.ofCode_code (x : FCmp) : FCmp.ofCode x.code = some x := by cases x <;> rfl
@[simp] theorem Rm.ofCode_code (x : Rm) : Rm.ofCode x.code = some x := by cases x <;> rfl
@[simp] theorem Policy.ofCode_code (x : Policy) : Policy.ofCode x.code = some x := by cases x <;> rfl
@[simp] theorem Scope.ofCode_code (x : Scope) : Scope.ofCode x.code = some x := by cases x <;> rfl
@[simp] theorem Ord.ofCode_code (x : Ord) : Ord.ofCode x.code = some x := by cases x <;> rfl
@[simp] theorem CField.ofCode_code (x : CField) : CField.ofCode x.code = some x := by cases x <;> rfl
@[simp] theorem KShift.ofCode_code (x : KShift) : KShift.ofCode x.code = some x := by cases x <;> rfl
@[simp] theorem Red.ofCode_code (x : Red) : Red.ofCode x.code = some x := by cases x <;> rfl
@[simp] theorem Size.ofCode_code (x : Size) : Size.ofCode x.code = some x := by cases x <;> rfl
@[simp] theorem Rmw.ofCode_code (x : Rmw) : Rmw.ofCode x.code = some x := by cases x <;> rfl
@[simp] theorem L2Op.ofCode_code (x : L2Op) : L2Op.ofCode x.code = some x := by cases x <;> rfl
@[simp] theorem Sr.ofCode_code (x : Sr) : Sr.ofCode x.code = some x := by cases x <;> rfl
@[simp] theorem FlushScope.ofCode_code (x : FlushScope) : FlushScope.ofCode x.code = some x := by cases x <;> rfl
@[simp] theorem ofSat_satCode (x : Bool) : ofSat (satCode x) = some x := by cases x <;> rfl
@[simp] theorem ofSt_stCode (x : Bool) : ofSt (stCode x) = some x := by cases x <;> rfl
@[simp] theorem ofBit4_bit4 (x : Bool) : ofBit4 (bit4 x) = some x := by cases x <;> rfl

@[simp] theorem low_zext {w v : Nat} (x : BitVec w) (h : w ≤ v) : (x.setWidth v).extractLsb' 0 w = x := by
  apply BitVec.eq_of_getLsbD_eq
  intro i hi
  simp [hi, show i < v by omega]

@[simp] theorem low_append {w v : Nat} (x : BitVec v) (y : BitVec w) : (x ++ y).extractLsb' 0 w = y := by
  apply BitVec.eq_of_getLsbD_eq
  intro i hi
  simp [hi, BitVec.getLsbD_append]

@[simp] theorem high_append {w v : Nat} (x : BitVec v) (y : BitVec w) : (x ++ y).extractLsb' w v = x := by
  apply BitVec.eq_of_getLsbD_eq
  intro i hi
  simp [hi, BitVec.getLsbD_append]

theorem mid_append {u v w : Nat} (x : BitVec u) (y : BitVec v) (z : BitVec w) :
    (x ++ y ++ z).extractLsb' w v = y := by
  apply BitVec.eq_of_getLsbD_eq
  intro i hi
  simp [hi, BitVec.getLsbD_append]

theorem hint_bit (t : Bool) (y : BitVec 16) (z : BitVec 32) : ((0 : BitVec 15) ++ BitVec.ofBool t ++ y ++ z)[48] = t := by
  rw [← BitVec.getLsbD_eq_getElem, BitVec.getLsbD_append, BitVec.getLsbD_append, BitVec.getLsbD_append]
  cases t <;> rfl

@[simp] theorem toS_s8 (r : SReg) : toS (s8 r) = r := low_zext r (by decide)
@[simp] theorem toC_c8 (r : CReg) : toC (c8 r) = r := low_zext r (by decide)
@[simp] theorem toK_k8 (r : KReg) : toK (k8 r) = r := low_zext r (by decide)
@[simp] theorem toC_ctxA (x : BitVec 4) (a : CReg) : toC (ctxA x a) = a := low_append x a
@[simp] theorem toCtx_ctxA (x : BitVec 4) (a : CReg) : toCtx (ctxA x a) = x := high_append x a

/-! ### Operand forms -/

variable (r : Raw)

@[simp] theorem Raw.getPred_mk (p : Pred) : (⟨p.k, p.kn⟩ : Pred) = p := rfl

@[simp] theorem Raw.getSsrc_def : r.getSsrc = (if r.mod == 1 then .imm r.c else .reg (toS r.b)) := rfl
@[simp] theorem Raw.getVsrc_def : r.getVsrc = (if r.mod == 1 then .imm r.c else if r.mod == 2 then .sc (toS r.b) else .reg r.b) := rfl
@[simp] theorem Raw.getVsrcA_def : r.getVsrcA = (if r.mod == 1 then .imm r.c else if r.mod == 2 then .sc (toS r.a) else .reg r.a) := rfl
@[simp] theorem Raw.getPred_def : r.getPred = (⟨r.k, r.kn⟩) := rfl
@[simp] theorem Raw.getImm32_def : r.getImm32 = (r.ext.extractLsb' 0 32) := rfl
@[simp] theorem Raw.getOff_def : r.getOff = (if r.len == .l96 then .long r.getImm32 else .short r.c) := rfl
@[simp] theorem Raw.getAoff_def : r.getAoff = (if r.len == .l96 then some r.getImm32 else none) := rfl
@[simp] theorem Raw.getRnd_def : r.getRnd = (do
    let m ← Rm.ofCode r.sc
    let s ← ofSat r.cp
    return ⟨m, s⟩) := rfl
@[simp] theorem Raw.getMemq_def : r.getMemq = (do
    let o ← Ord.ofCode r.ordq
    let s ← Scope.ofCode r.sc
    let p ← Policy.ofCode r.cp
    return ⟨o, s, p⟩) := rfl
@[simp] theorem Raw.pred_def (p : Pred) : r.pred p = { r with k := p.k, kn := p.kn } := rfl
@[simp] theorem Raw.imm32_def (v : W32) : r.imm32 v = { r with len := .l96, ext := v.zeroExtend 64 } := rfl
@[simp] theorem Raw.rnd_def (x : Rnd) : r.rnd x = { r with sc := x.rm.code, cp := satCode x.sat } := rfl
@[simp] theorem Raw.memq_def (q : MemQ) : r.memq q = { r with ordq := q.ord.code, sc := q.sc.code, cp := q.cp.code } := rfl
@[simp] theorem Raw.ssrc_reg {y} : r.ssrc (SSrc.reg y) = { r with b := s8 y } := rfl
@[simp] theorem Raw.ssrc_imm {v} : r.ssrc (SSrc.imm v) = { r with c := v, mod := 1 } := rfl
@[simp] theorem Raw.vsrc_reg {y} : r.vsrc (VSrc.reg y) = { r with b := y } := rfl
@[simp] theorem Raw.vsrc_imm {v} : r.vsrc (VSrc.imm v) = { r with c := v, mod := 1 } := rfl
@[simp] theorem Raw.vsrc_sc {y} : r.vsrc (VSrc.sc y) = { r with b := s8 y, mod := 2 } := rfl
@[simp] theorem Raw.vsrcA_reg {y} : r.vsrcA (VSrc.reg y) = { r with a := y } := rfl
@[simp] theorem Raw.vsrcA_imm {v} : r.vsrcA (VSrc.imm v) = { r with c := v, mod := 1 } := rfl
@[simp] theorem Raw.vsrcA_sc {y} : r.vsrcA (VSrc.sc y) = { r with a := s8 y, mod := 2 } := rfl
@[simp] theorem Raw.amode_c {a} : r.amode (AMode.c a) = { r with a := c8 a } := rfl
@[simp] theorem Raw.amode_cs {a b} : r.amode (AMode.cs a b) = { r with a := c8 a, b := s8 b, mod := 1 } := rfl
@[simp] theorem Raw.amode_cv {a b} : r.amode (AMode.cv a b) = { r with a := c8 a, b := b, mod := 2 } := rfl
@[simp] theorem Raw.amode_cp {a b} : r.amode (AMode.cp a b) = { r with a := c8 a, b := b, mod := 3 } := rfl
@[simp] theorem Raw.amode_scr : r.amode AMode.scr = { r with mod := 4 } := rfl
@[simp] theorem Raw.amode_scrs {b} : r.amode (AMode.scrs b) = { r with b := s8 b, mod := 5 } := rfl
@[simp] theorem Raw.amode_scrv {b} : r.amode (AMode.scrv b) = { r with b := b, mod := 6 } := rfl
@[simp] theorem Raw.off_short {v} : r.off (Off.short v) = { r with c := v } := rfl
@[simp] theorem Raw.off_long {v} : r.off (Off.long v) = r.imm32 v := rfl
@[simp] theorem Raw.aoff_none : r.aoff none = r := rfl
@[simp] theorem Raw.aoff_some {v} : r.aoff (some v) = r.imm32 v := rfl
@[simp] theorem Raw.getAmode_0 (h : r.mod = 0) : r.getAmode = some (.c (toC r.a)) := by simp [Raw.getAmode, h]
@[simp] theorem Raw.getAmode_1 (h : r.mod = 1) : r.getAmode = some (.cs (toC r.a) (toS r.b)) := by simp [Raw.getAmode, h]
@[simp] theorem Raw.getAmode_2 (h : r.mod = 2) : r.getAmode = some (.cv (toC r.a) r.b) := by simp [Raw.getAmode, h]
@[simp] theorem Raw.getAmode_3 (h : r.mod = 3) : r.getAmode = some (.cp (toC r.a) r.b) := by simp [Raw.getAmode, h]
@[simp] theorem Raw.getAmode_4 (h : r.mod = 4) : r.getAmode = some (.scr) := by simp [Raw.getAmode, h]
@[simp] theorem Raw.getAmode_5 (h : r.mod = 5) : r.getAmode = some (.scrs (toS r.b)) := by simp [Raw.getAmode, h]
@[simp] theorem Raw.getAmode_6 (h : r.mod = 6) : r.getAmode = some (.scrv r.b) := by simp [Raw.getAmode, h]

end Sys2Proof
end

