-- ==== Sys2Proof/Laws/Memory.lean ====
section
/-! SUPPORT. What the operations over memory do: what a byte reads after a write, and that every operation keeps the
canonical form of memory. -/

namespace Sys2Proof.Machine

variable (s : State)

/-! ### What a byte reads as -/

theorem State.writeByte_readByte (a x : Nat) (b : Byte) : (s.writeByte a b).readByte x = if x = a then b else s.readByte x := by
  unfold State.readByte State.writeByte
  split
  · next h => rw [h, Store.get_set_same]
  · next h => exact Store.get_set_ne _ _ _ h

theorem State.writeRaw_readByte (bs : List Byte) (a x : Nat) :
    (s.writeRaw a bs).readByte x = if a ≤ x ∧ x < a + bs.length then bs.getD (x - a) 0 else s.readByte x := by
  induction bs generalizing s a with
  | nil => rw [State.writeRaw, if_neg (by rw [List.length_nil]; omega)]
  | cons b bs ih =>
    rw [State.writeRaw, ih, State.writeByte_readByte, List.length_cons]
    by_cases h : x = a
    · rw [if_neg (by omega), if_pos h, if_pos (by omega), h, Nat.sub_self]
      rfl
    · by_cases g : a ≤ x ∧ x < a + (bs.length + 1)
      · rw [if_pos (by omega), if_pos g, show x - a = (x - (a + 1)) + 1 by omega, List.getD_cons_succ]
      · rw [if_neg (by omega), if_neg h, if_neg g]

theorem State.write_readByte (bs : List Byte) (a x : Nat) :
    (s.write a bs).readByte x = if a ≤ x ∧ x < a + bs.length then bs.getD (x - a) 0 else s.readByte x := s.writeRaw_readByte bs a x

/-- Reading what has just been written gives it. -/
theorem State.write_read (bs : List Byte) (a : Nat) : (s.write a bs).read a bs.length = bs := by
  unfold State.read
  apply List.ext_getElem
  · simp
  · intro i h hi
    rw [List.getElem_map, List.getElem_range, State.write_readByte, if_pos (by omega), Nat.add_sub_cancel_left,
      List.getD_eq_getElem?_getD, List.getElem?_eq_getElem hi]
    rfl

/-- With no allowance record in it, a range reads as zeros afterwards, and nothing else changes. -/
theorem State.zeroRange_readByte (a n x : Nat) (h : s.recordsIn a n = []) :
    (s.zeroRange a n).readByte x = if a ≤ x ∧ x < a + n then 0 else s.readByte x := by
  unfold State.readByte State.zeroRange Store.get
  dsimp only
  rw [h]
  dsimp only [List.foldl_nil]
  rw [Store.find_filter (fun k => !(decide (a ≤ k) && decide (k < a + n)))]
  by_cases h : a ≤ x ∧ x < a + n
  · rw [if_pos h, if_neg (by simp [h.1, h.2])]
    rfl
  · rw [if_neg h, if_pos (by simp only [Bool.not_eq_true', Bool.and_eq_false_iff, decide_eq_false_iff_not]; omega)]

/-- A write clears the tags of the granules that it meets, and no others (01 R18). -/
theorem State.write_tagAt (bs : List Byte) (a x : Nat) : (s.write a bs).tagAt x = (s.tagAt x && !touches a bs.length (x / 16)) := by
  unfold State.tagAt State.write
  rw [Bool.eq_iff_iff]
  simp

/-- Equal memories read alike. -/
theorem State.readByte_of_mem {t : State} (h : t.mem = s.mem) (x : Nat) : t.readByte x = s.readByte x := by
  rw [State.readByte, h, State.readByte]

/-! ### The canonical form -/

theorem State.memOk_of_mem {t : State} (h : s.memOk) (e : t.mem = s.mem) : t.memOk := by
  unfold State.memOk
  rwa [e]

theorem State.memOk_writeByte (h : s.memOk) (a : Nat) (b : Byte) : (s.writeByte a b).memOk := Store.canon_set _ _ _ _ h

theorem State.memOk_writeRaw (h : s.memOk) (a : Nat) (bs : List Byte) : (s.writeRaw a bs).memOk := by
  induction bs generalizing s a with
  | nil => exact h
  | cons b bs ih => exact ih _ (s.memOk_writeByte h a b) _

theorem State.memOk_write (h : s.memOk) (a : Nat) (bs : List Byte) : (s.write a bs).memOk := s.memOk_writeRaw h a bs

theorem State.memOk_setTag (h : s.memOk) (a : Nat) (t : Bool) : (s.setTag a t).memOk := h

/-- What stays of memory when some addresses are lost. -/
theorem State.memOk_filter (h : s.memOk) (p : Host.Cell → Bool) : ({ s with mem := s.mem.filter p } : State).memOk := Store.canon_filter _ _ _ h

/-! ### Writes at a home (02 R62, 04 R113, 12 R322) -/

@[simp] theorem State.modPath_mem (gid : Nat) (b : Bool) (f : Path → Path) : (s.modPath gid b f).mem = s.mem := by
  unfold State.modPath State.modGrp
  split <;> rfl

@[simp] theorem State.gongPath_mem (gid : Nat) (b : Bool) : (s.gongPath gid b).mem = s.mem := by
  unfold State.gongPath
  split <;> rfl

/-- A fold whose steps leave memory alone leaves it alone. -/
theorem State.foldl_mem {α : Type} (f : State → α → State) (h : ∀ t x, (f t x).mem = t.mem) (l : List α) : (l.foldl f s).mem = s.mem := by
  induction l generalizing s with
  | nil => rfl
  | cons x l ih => rw [List.foldl_cons, ih, h]

@[simp] theorem State.gongMonitors_mem (h : Nat) (l : List Monitor) : (s.gongMonitors h l).mem = s.mem := by
  unfold State.gongMonitors
  split
  · rfl
  · rw [State.foldl_mem]
    · rfl
    · intro t x
      rw [State.gongPath_mem, State.modPath_mem]

@[simp] theorem State.fireMonitors_mem (pa n : Nat) : (s.fireMonitors pa n).mem = s.mem := s.gongMonitors_mem _ _

@[simp] theorem State.sendUpdates_mem (die pa : Nat) (bs : List Byte) (tags : BitVec 8) (sid : Nat) (own : Option (Nat × Nat × Nat)) :
    (s.sendUpdates die pa bs tags sid own).1.mem = s.mem := by
  have h : ∀ (l : List (Nat × List Byte)) (t : State × Nat), (l.foldl (fun (t : State × Nat) piece =>
      ((t.1.setDie die ((t.1.die die).updates piece.1 piece.2 tags sid own).1).sendAll ((t.1.die die).updates piece.1 piece.2 tags sid own).2.1,
        t.2 + ((t.1.die die).updates piece.1 piece.2 tags sid own).2.2)) t).1.mem = t.1.mem := by
    intro l
    induction l with
    | nil => exact fun t => rfl
    | cons x l ih =>
      intro t
      rw [List.foldl_cons, ih]
      rfl
  exact h _ _

/-- A write at its home writes its bytes and no others, whatever it sends. -/
@[simp] theorem State.homeStoreAck_mem (pa : Nat) (bs : List Byte) (tag : Bool) (sid : Nat) (own : Option (Nat × Nat × Nat)) :
    (s.homeStoreAck pa bs tag sid own).1.mem = (s.write pa bs).mem := by
  unfold State.homeStoreAck
  dsimp only
  split
  · rw [State.sendUpdates_mem, State.fireMonitors_mem]
    split <;> rfl
  · rw [State.fireMonitors_mem]
    split <;> rfl

@[simp] theorem State.homeStore_mem (pa : Nat) (bs : List Byte) : (s.homeStore pa bs).mem = (s.write pa bs).mem := s.homeStoreAck_mem _ _ _ _ _

theorem State.memOk_homeStoreAck (h : s.memOk) (pa : Nat) (bs : List Byte) (tag : Bool) (sid : Nat) (own : Option (Nat × Nat × Nat)) :
    (s.homeStoreAck pa bs tag sid own).1.memOk := State.memOk_of_mem _ (s.memOk_write h pa bs) (s.homeStoreAck_mem _ _ _ _ _)

/-- With no allowance record in its lines, a home write is a write. -/
theorem State.homeWriteAck_mem (pa : Nat) (bs : List Byte) (tag : Bool) (sid : Nat) (own : Option (Nat × Nat × Nat))
    (h : s.recordsMet pa bs.length = []) : (s.homeWriteAck pa bs tag sid own).1.mem = (s.write pa bs).mem := by
  unfold State.homeWriteAck
  rw [h]
  exact s.homeStoreAck_mem _ _ _ _ _

theorem State.homeWrite_mem (pa : Nat) (bs : List Byte) (h : s.recordsMet pa bs.length = []) : (s.homeWrite pa bs).mem = (s.write pa bs).mem :=
  s.homeWriteAck_mem _ _ _ _ _ h

theorem State.homeWrite_readByte (pa x : Nat) (bs : List Byte) (h : s.recordsMet pa bs.length = []) :
    (s.homeWrite pa bs).readByte x = if pa ≤ x ∧ x < pa + bs.length then bs.getD (x - pa) 0 else s.readByte x := by
  rw [State.readByte_of_mem _ (s.homeWrite_mem pa bs h), State.write_readByte]

/-! ### Allowance records (04 R111-R128) -/

theorem State.memOk_setCrec (h : s.memOk) (pa : Nat) (r : CRec) : (s.setCrec pa r).memOk :=
  State.memOk_of_mem _ (s.memOk_write h pa r.bytes) (s.homeStore_mem pa r.bytes)

theorem State.memOk_grantNow (h : s.memOk) (core pa op k : Nat) : (s.grantNow core pa op k).memOk := s.memOk_setCrec h pa _

theorem State.memOk_foldl {α β : Type} (f : β → α → β) (g : β → State) (hf : ∀ t x, (g t).memOk → (g (f t x)).memOk) (l : List α) (t : β)
    (h : (g t).memOk) : (g (l.foldl f t)).memOk := by
  induction l generalizing t with
  | nil => exact h
  | cons x l ih => exact ih _ (hf t x h)

theorem State.memOk_fold {α : Type} (f : State → α → State) (hf : ∀ t x, t.memOk → (f t x).memOk) (l : List α) (h : s.memOk) : (l.foldl f s).memOk :=
  State.memOk_foldl f id hf l s h

theorem State.memOk_serveOne (pa : Nat) (t : State × List (Nat × Nat × Nat)) (w : AWait) (h : t.1.memOk) : (State.serveOne pa t w).1.memOk := by
  unfold State.serveOne
  dsimp only
  split
  · exact State.memOk_setCrec _ h pa _
  · split
    · exact h
    · split
      · exact h
      · split
        · split
          · exact State.memOk_setCrec _ h pa _
          · exact h
        · exact h

theorem State.memOk_rebalance (pa share : Nat) (t : State) (w : Nat × Nat × Nat) (h : t.memOk) : (State.rebalance pa share t w).memOk :=
  State.memOk_setCrec _ h pa _

theorem State.memOk_serve (h : s.memOk) (pa : Nat) : (s.serve pa).memOk := by
  unfold State.serve
  dsimp only
  have one : ((s.home pa).closed.foldl (State.serveOne pa) (s.setHome pa { s.home pa with closed := [], round := false }, [])).1.memOk :=
    State.memOk_foldl (State.serveOne pa) Prod.fst (fun t x => State.memOk_serveOne pa t x) _ (_, []) h
  exact State.memOk_fold _ (State.rebalance pa _) (fun t x => State.memOk_rebalance pa _ t x) _ (State.memOk_setCrec _ one pa _)

theorem State.memOk_openRound (h : s.memOk) (pa : Nat) : (s.openRound pa).memOk :=
  State.memOk_setCrec (s.setHome pa { opened := [], closed := (s.home pa).opened, round := true }) h pa _

theorem State.memOk_settle (fuel : Nat) (h : s.memOk) (pa : Nat) : (State.settle fuel s pa).memOk := by
  induction fuel generalizing s with
  | zero => exact h
  | succ n ih =>
    unfold State.settle
    dsimp only
    split
    · split
      · exact ih _ (s.memOk_serve h pa)
      · exact h
    · split
      · exact h
      · split
        · split
          · exact ih _ (s.memOk_of_mem h rfl)
          · split
            · exact ih _ (s.memOk_of_mem h rfl)
            · split
              · refine ih _ ?_
                refine State.memOk_grantNow _ ?_ _ _ _ _
                exact s.memOk_of_mem h rfl
              · exact ih _ (s.memOk_openRound h pa)
        · exact ih _ (s.memOk_openRound h pa)

theorem State.memOk_settleAll (h : s.memOk) (pa : Nat) : (s.settleAll pa).memOk := s.memOk_settle _ h pa

@[simp] theorem State.modCore_mem (n : Nat) (f : Core → Core) : (s.modCore n f).mem = s.mem := rfl

theorem State.memOk_dropHolders (h : s.memOk) (pa : Nat) : (s.dropHolders pa).memOk := by
  unfold State.dropHolders
  dsimp only
  refine State.memOk_setCrec _ ?_ pa _
  refine State.memOk_of_mem s h ?_
  show (List.foldl _ s _).mem = s.mem
  rw [State.foldl_mem]
  exact fun t x => rfl

/-- Zeroing a range keeps the canonical form, whatever records lie in it. -/
theorem State.memOk_zeroRange (h : s.memOk) (a n : Nat) : (s.zeroRange a n).memOk := by
  unfold State.zeroRange
  dsimp only
  refine State.memOk_fold _ _ (fun t x g => State.memOk_settleAll t g x) _ ?_
  exact Store.canon_filter _ _ _ (State.memOk_fold _ _ (fun t x g => State.memOk_dropHolders t g x) _ h)

/-- Every write at a home keeps the canonical form, whatever records it meets. -/
theorem State.memOk_homeWriteAck (h : s.memOk) (pa : Nat) (bs : List Byte) (tag : Bool) (sid : Nat) (own : Option (Nat × Nat × Nat)) :
    (s.homeWriteAck pa bs tag sid own).1.memOk := by
  unfold State.homeWriteAck
  dsimp only
  refine State.memOk_fold _ _ (fun t x g => State.memOk_settleAll t g x) _ (State.memOk_homeStoreAck _ ?_ _ _ _ _ _)
  exact State.memOk_fold _ _ (fun t x g => t.memOk_dropHolders g x) _ h

theorem State.memOk_homeWrite (h : s.memOk) (pa : Nat) (bs : List Byte) : (s.homeWrite pa bs).memOk := s.memOk_homeWriteAck h pa bs false 0 none

/-! ### Flushes and recalls (02 R66, R77) -/

theorem State.memOk_writeDirty (h : s.memOk) (pa : Nat) (data : BitVec 1024) (dirty : BitVec 128) (tags : BitVec 8) (sid : Nat) :
    (s.writeDirty pa data dirty tags sid).1.memOk := by
  unfold State.writeDirty
  refine State.memOk_foldl _ Prod.fst (fun t g ht => ?_) _ (s, 0) h
  dsimp only
  split
  · exact State.memOk_homeWriteAck _ ht _ _ _ _ _
  · refine State.memOk_foldl _ Prod.fst (fun t r ht => ?_) _ t ht
    exact State.memOk_homeWriteAck _ ht _ _ _ _ _

theorem State.memOk_modDie (h : s.memOk) (n : Nat) (f : Die → Die) : (s.modDie n f).memOk := h
theorem State.memOk_modCore (h : s.memOk) (n : Nat) (f : Core → Core) : (s.modCore n f).memOk := h

theorem State.memOk_recallLine (h : s.memOk) (l : Nat) : (s.recallLine l).memOk := by
  unfold State.recallLine
  dsimp only
  split
  · exact h
  · split
    · exact h
    · split
      · refine State.memOk_modDie _ (State.memOk_writeDirty _ ?_ _ _ _ _ _) _ _
        exact h
      · split
        · refine State.memOk_modDie _ (State.memOk_writeDirty _ (State.memOk_modCore _ ?_ _ _) _ _ _ _ _) _ _
          exact h
        · exact h

theorem State.memOk_recallNow (h : s.memOk) (pa n : Nat) : (s.recallNow pa n).memOk := by
  unfold State.recallNow
  split
  · exact State.memOk_fold _ _ (fun t l g => t.memOk_recallLine g l) _ h
  · exact h

theorem State.memOk_homeWriteNow (h : s.memOk) (pa : Nat) (bs : List Byte) : (s.homeWriteNow pa bs).memOk :=
  State.memOk_homeWrite _ (s.memOk_recallNow h pa bs.length) pa bs

/-- Memory at reset is in canonical form. -/
theorem State.memOk_reset : State.reset.memOk := rfl

end Sys2Proof.Machine
end

