-- ==== Sys2Proof/Laws/PerInstr.lean ====
section
/-! SUPPORT. Family Encodable, one lemma per constructor of Instr: reading the fields of an instruction's encoding gives
the instruction back, with every operand (09 R218). Nothing is claimed of a constructor that has no word. Before it, one
lemma per opcode: the arm of `Raw.toInstr` that reads it. -/

namespace Sys2Proof.Laws.Encodable

/-- The fields that `toRaw` writes are the fields that `toInstr` reads. -/
def Statement (i : Instr) : Prop := ∀ r, i.toRaw = some r → i.wf = true → r.toInstr = some i

/-! ### One lemma per opcode -/

theorem arm_00 (r : Raw) (h : r.op = 0x00) : r.toInstr = (some .nop) := by
  obtain ⟨⟩ := r; cases h; rfl
theorem arm_01 (r : Raw) (h : r.op = 0x01) : r.toInstr = (some (.br r.getImm32)) := by
  obtain ⟨⟩ := r; cases h; rfl
theorem arm_02 (r : Raw) (h : r.op = 0x02) : r.toInstr = (match r.fn.toNat with
      | 0 => some (.brc (.any r.getPred) r.getImm32)
      | 1 => some (.brc (.all r.getPred) r.getImm32)
      | 2 => some (.brc (.nz (toS r.a)) r.getImm32)
      | 3 => some (.brc (.z (toS r.a)) r.getImm32)
      | _ => none) := by
  obtain ⟨⟩ := r; cases h; rfl
theorem arm_03 (r : Raw) (h : r.op = 0x03) : r.toInstr = (some (.brd r.getPred (r.ext.extractLsb' 0 32) (r.ext.extractLsb' 32 32))) := by
  obtain ⟨⟩ := r; cases h; rfl
theorem arm_04 (r : Raw) (h : r.op = 0x04) : r.toInstr = (some .reconv) := by
  obtain ⟨⟩ := r; cases h; rfl
theorem arm_05 (r : Raw) (h : r.op = 0x05) : r.toInstr = (some (.call (toS r.d) r.getImm32)) := by
  obtain ⟨⟩ := r; cases h; rfl
theorem arm_06 (r : Raw) (h : r.op = 0x06) : r.toInstr = (some (.ret (toS r.a))) := by
  obtain ⟨⟩ := r; cases h; rfl
theorem arm_07 (r : Raw) (h : r.op = 0x07) : r.toInstr = (some (.jmpi (toS r.a))) := by
  obtain ⟨⟩ := r; cases h; rfl
theorem arm_08 (r : Raw) (h : r.op = 0x08) : r.toInstr = (some (.loop (toS r.a) r.getImm32)) := by
  obtain ⟨⟩ := r; cases h; rfl
theorem arm_09 (r : Raw) (h : r.op = 0x09) : r.toInstr = (some .yield) := by
  obtain ⟨⟩ := r; cases h; rfl
theorem arm_10 (r : Raw) (h : r.op = 0x10) : r.toInstr = (do
      let t ← STy.ofCode r.ty
      return .sadd t (toS r.d) (toS r.a) r.getSsrc) := by
  obtain ⟨⟩ := r; cases h; rfl
theorem arm_11 (r : Raw) (h : r.op = 0x11) : r.toInstr = (do
      let t ← STy.ofCode r.ty
      return .ssub t (toS r.d) (toS r.a) r.getSsrc) := by
  obtain ⟨⟩ := r; cases h; rfl
theorem arm_12 (r : Raw) (h : r.op = 0x12) : r.toInstr = (do
      let t ← STy.ofCode r.ty
      return .smul t (toS r.d) (toS r.a) r.getSsrc) := by
  obtain ⟨⟩ := r; cases h; rfl
theorem arm_13 (r : Raw) (h : r.op = 0x13) : r.toInstr = (do
      let t ← STy.ofCode r.ty
      return .smulh t (toS r.d) (toS r.a) r.getSsrc) := by
  obtain ⟨⟩ := r; cases h; rfl
theorem arm_14 (r : Raw) (h : r.op = 0x14) : r.toInstr = (do
      let t ← STy.ofCode r.ty
      return .sdiv t (toS r.d) (toS r.a) r.getSsrc) := by
  obtain ⟨⟩ := r; cases h; rfl
theorem arm_15 (r : Raw) (h : r.op = 0x15) : r.toInstr = (do
      let t ← STy.ofCode r.ty
      return .srem t (toS r.d) (toS r.a) r.getSsrc) := by
  obtain ⟨⟩ := r; cases h; rfl
theorem arm_16 (r : Raw) (h : r.op = 0x16) : r.toInstr = (do
      let t ← STy.ofCode r.ty
      return .sand t (toS r.d) (toS r.a) r.getSsrc) := by
  obtain ⟨⟩ := r; cases h; rfl
theorem arm_17 (r : Raw) (h : r.op = 0x17) : r.toInstr = (do
      let t ← STy.ofCode r.ty
      return .sor t (toS r.d) (toS r.a) r.getSsrc) := by
  obtain ⟨⟩ := r; cases h; rfl
theorem arm_18 (r : Raw) (h : r.op = 0x18) : r.toInstr = (do
      let t ← STy.ofCode r.ty
      return .sxor t (toS r.d) (toS r.a) r.getSsrc) := by
  obtain ⟨⟩ := r; cases h; rfl
theorem arm_19 (r : Raw) (h : r.op = 0x19) : r.toInstr = (do
      let t ← STy.ofCode r.ty
      return .sshl t (toS r.d) (toS r.a) r.getSsrc) := by
  obtain ⟨⟩ := r; cases h; rfl
theorem arm_1A (r : Raw) (h : r.op = 0x1A) : r.toInstr = (do
      let t ← STy.ofCode r.ty
      return .sshr t (toS r.d) (toS r.a) r.getSsrc) := by
  obtain ⟨⟩ := r; cases h; rfl
theorem arm_1B (r : Raw) (h : r.op = 0x1B) : r.toInstr = (do
      let t ← STy.ofCode r.ty
      return .ssra t (toS r.d) (toS r.a) r.getSsrc) := by
  obtain ⟨⟩ := r; cases h; rfl
theorem arm_1C (r : Raw) (h : r.op = 0x1C) : r.toInstr = (do
      let t ← STy.ofCode r.ty
      return .smin t (toS r.d) (toS r.a) r.getSsrc) := by
  obtain ⟨⟩ := r; cases h; rfl
theorem arm_1D (r : Raw) (h : r.op = 0x1D) : r.toInstr = (do
      let t ← STy.ofCode r.ty
      return .smax t (toS r.d) (toS r.a) r.getSsrc) := by
  obtain ⟨⟩ := r; cases h; rfl
theorem arm_1E (r : Raw) (h : r.op = 0x1E) : r.toInstr = (do
      let c ← Cmp.ofCode r.fn
      let t ← STy.ofCode r.ty
      return .scmp c t (toS r.d) (toS r.a) r.getSsrc) := by
  obtain ⟨⟩ := r; cases h; rfl
theorem arm_1F (r : Raw) (h : r.op = 0x1F) : r.toInstr = (do
      let t ← STy.ofCode r.ty
      return .ssel t (toS r.d) (toS r.a) (toS r.b) (toS r.c)) := by
  obtain ⟨⟩ := r; cases h; rfl
theorem arm_20 (r : Raw) (h : r.op = 0x20) : r.toInstr = (do
      let t ← STy.ofCode r.ty
      return .smov t (toS r.d) (if r.mod == 1 then .imm r.c else .reg (toS r.a))) := by
  obtain ⟨⟩ := r; cases h; rfl
theorem arm_21 (r : Raw) (h : r.op = 0x21) : r.toInstr = (do
      let t ← STy.ofCode r.ty
      return .sli t (toS r.d) r.ext) := by
  obtain ⟨⟩ := r; cases h; rfl
theorem arm_22 (r : Raw) (h : r.op = 0x22) : r.toInstr = (do
      let t ← STy.ofCode r.ty
      return .saddi t (toS r.d) (toS r.a) r.getImm32) := by
  obtain ⟨⟩ := r; cases h; rfl
theorem arm_23 (r : Raw) (h : r.op = 0x23) : r.toInstr = (do
      let t ← STy.ofCode r.ty
      return .sbfe t (toS r.d) (toS r.a) r.b r.c) := by
  obtain ⟨⟩ := r; cases h; rfl
theorem arm_24 (r : Raw) (h : r.op = 0x24) : r.toInstr = (do
      let t ← STy.ofCode r.ty
      return .sbfi t (toS r.d) (toS r.a) r.b r.c) := by
  obtain ⟨⟩ := r; cases h; rfl
theorem arm_25 (r : Raw) (h : r.op = 0x25) : r.toInstr = (do
      let t ← STy.ofCode r.ty
      return .spopc t (toS r.d) (toS r.a)) := by
  obtain ⟨⟩ := r; cases h; rfl
theorem arm_26 (r : Raw) (h : r.op = 0x26) : r.toInstr = (do
      let t ← STy.ofCode r.ty
      return .sclz t (toS r.d) (toS r.a)) := by
  obtain ⟨⟩ := r; cases h; rfl
theorem arm_30 (r : Raw) (h : r.op = 0x30) : r.toInstr = (do
      let x ← ofBit4 r.fn
      return .cbnd x (toC r.d) (toC r.a) (toS r.b)) := by
  obtain ⟨⟩ := r; cases h; rfl
theorem arm_31 (r : Raw) (h : r.op = 0x31) : r.toInstr = (some (.cinc (toC r.d) (toC r.a) (toS r.b))) := by
  obtain ⟨⟩ := r; cases h; rfl
theorem arm_32 (r : Raw) (h : r.op = 0x32) : r.toInstr = (some (.cinci (toC r.d) (toC r.a) r.getImm32)) := by
  obtain ⟨⟩ := r; cases h; rfl
theorem arm_33 (r : Raw) (h : r.op = 0x33) : r.toInstr = (some (.cperm (toC r.d) (toC r.a) (toS r.b))) := by
  obtain ⟨⟩ := r; cases h; rfl
theorem arm_34 (r : Raw) (h : r.op = 0x34) : r.toInstr = (do
      let f ← CField.ofCode r.fn
      return .cget f (toS r.d) (toC r.a)) := by
  obtain ⟨⟩ := r; cases h; rfl
theorem arm_35 (r : Raw) (h : r.op = 0x35) : r.toInstr = (some (.ctest (toS r.d) (toC r.a) (toS r.b) (r.c.extractLsb' 0 7))) := by
  obtain ⟨⟩ := r; cases h; rfl
theorem arm_36 (r : Raw) (h : r.op = 0x36) : r.toInstr = (some (.csub (toS r.d) (toC r.a) (toC r.b))) := by
  obtain ⟨⟩ := r; cases h; rfl
theorem arm_38 (r : Raw) (h : r.op = 0x38) : r.toInstr = (some (.kbool (toK r.d) (toK r.a) (toK r.b) (r.c.extractLsb' 0 4))) := by
  obtain ⟨⟩ := r; cases h; rfl
theorem arm_39 (r : Raw) (h : r.op = 0x39) : r.toInstr = (some (.kget (toS r.d) (toK r.a))) := by
  obtain ⟨⟩ := r; cases h; rfl
theorem arm_3A (r : Raw) (h : r.op = 0x3A) : r.toInstr = (some (.kset (toK r.d) (toS r.a))) := by
  obtain ⟨⟩ := r; cases h; rfl
theorem arm_3B (r : Raw) (h : r.op = 0x3B) : r.toInstr = (some (.kcnt (toS r.d) (toK r.a))) := by
  obtain ⟨⟩ := r; cases h; rfl
theorem arm_3C (r : Raw) (h : r.op = 0x3C) : r.toInstr = (do
      let h ← ofBit4 r.fn
      return .kfind h (toS r.d) (toK r.a)) := by
  obtain ⟨⟩ := r; cases h; rfl
theorem arm_3D (r : Raw) (h : r.op = 0x3D) : r.toInstr = (do
      let f ← KShift.ofCode r.fn
      return .kshf f (toK r.d) (toK r.a) (r.c.extractLsb' 0 5)) := by
  obtain ⟨⟩ := r; cases h; rfl
theorem arm_3E (r : Raw) (h : r.op = 0x3E) : r.toInstr = (do
      let x ← ofBit4 r.fn
      return .kquad x (toK r.d) (toK r.a)) := by
  obtain ⟨⟩ := r; cases h; rfl
theorem arm_40 (r : Raw) (h : r.op = 0x40) : r.toInstr = (do
      let t ← ETy.ofCode r.ty
      let s ← ofSat r.cp
      return .vadd r.getPred t s r.d r.a r.getVsrc) := by
  obtain ⟨⟩ := r; cases h; rfl
theorem arm_41 (r : Raw) (h : r.op = 0x41) : r.toInstr = (do
      let t ← ETy.ofCode r.ty
      let s ← ofSat r.cp
      return .vsub r.getPred t s r.d r.a r.getVsrc) := by
  obtain ⟨⟩ := r; cases h; rfl
theorem arm_42 (r : Raw) (h : r.op = 0x42) : r.toInstr = (do
      let t ← ETy.ofCode r.ty
      let s ← ofSat r.cp
      return .vmul r.getPred t s r.d r.a r.getVsrc) := by
  obtain ⟨⟩ := r; cases h; rfl
theorem arm_43 (r : Raw) (h : r.op = 0x43) : r.toInstr = (do
      let t ← ETy.ofCode r.ty
      return .vmulh r.getPred t r.d r.a r.getVsrc) := by
  obtain ⟨⟩ := r; cases h; rfl
theorem arm_44 (r : Raw) (h : r.op = 0x44) : r.toInstr = (do
      let t ← ETy.ofCode r.ty
      let s ← ofSat r.cp
      return .vmad r.getPred t s r.d r.a r.getVsrc r.c) := by
  obtain ⟨⟩ := r; cases h; rfl
theorem arm_45 (r : Raw) (h : r.op = 0x45) : r.toInstr = (do
      let t ← ETy.ofCode r.ty
      return .vand r.getPred t r.d r.a r.getVsrc) := by
  obtain ⟨⟩ := r; cases h; rfl
theorem arm_46 (r : Raw) (h : r.op = 0x46) : r.toInstr = (do
      let t ← ETy.ofCode r.ty
      return .vor r.getPred t r.d r.a r.getVsrc) := by
  obtain ⟨⟩ := r; cases h; rfl
theorem arm_47 (r : Raw) (h : r.op = 0x47) : r.toInstr = (do
      let t ← ETy.ofCode r.ty
      return .vxor r.getPred t r.d r.a r.getVsrc) := by
  obtain ⟨⟩ := r; cases h; rfl
theorem arm_48 (r : Raw) (h : r.op = 0x48) : r.toInstr = (do
      let t ← ETy.ofCode r.ty
      return .vnot r.getPred t r.d r.a) := by
  obtain ⟨⟩ := r; cases h; rfl
theorem arm_49 (r : Raw) (h : r.op = 0x49) : r.toInstr = (do
      let t ← ETy.ofCode r.ty
      return .vshl r.getPred t r.d r.a r.getVsrc) := by
  obtain ⟨⟩ := r; cases h; rfl
theorem arm_4A (r : Raw) (h : r.op = 0x4A) : r.toInstr = (do
      let t ← ETy.ofCode r.ty
      return .vshr r.getPred t r.d r.a r.getVsrc) := by
  obtain ⟨⟩ := r; cases h; rfl
theorem arm_4B (r : Raw) (h : r.op = 0x4B) : r.toInstr = (do
      let t ← ETy.ofCode r.ty
      return .vsra r.getPred t r.d r.a r.getVsrc) := by
  obtain ⟨⟩ := r; cases h; rfl
theorem arm_4C (r : Raw) (h : r.op = 0x4C) : r.toInstr = (do
      let t ← ETy.ofCode r.ty
      return .vmin r.getPred t r.d r.a r.getVsrc) := by
  obtain ⟨⟩ := r; cases h; rfl
theorem arm_4D (r : Raw) (h : r.op = 0x4D) : r.toInstr = (do
      let t ← ETy.ofCode r.ty
      return .vmax r.getPred t r.d r.a r.getVsrc) := by
  obtain ⟨⟩ := r; cases h; rfl
theorem arm_4E (r : Raw) (h : r.op = 0x4E) : r.toInstr = (do
      let t ← ETy.ofCode r.ty
      let s ← ofSat r.cp
      return .vabs r.getPred t s r.d r.a) := by
  obtain ⟨⟩ := r; cases h; rfl
theorem arm_4F (r : Raw) (h : r.op = 0x4F) : r.toInstr = (do
      let c ← Cmp.ofCode r.fn
      let t ← ETy.ofCode r.ty
      return .vcmp r.getPred c t (toK r.d) r.a r.getVsrc) := by
  obtain ⟨⟩ := r; cases h; rfl
theorem arm_50 (r : Raw) (h : r.op = 0x50) : r.toInstr = (do
      let t ← ETy.ofCode r.ty
      return .vsel r.getPred t r.d r.a r.getVsrc (toK r.c)) := by
  obtain ⟨⟩ := r; cases h; rfl
theorem arm_51 (r : Raw) (h : r.op = 0x51) : r.toInstr = (do
      let t ← ETy.ofCode r.ty
      return .vmov r.getPred t r.d r.getVsrcA) := by
  obtain ⟨⟩ := r; cases h; rfl
theorem arm_52 (r : Raw) (h : r.op = 0x52) : r.toInstr = (do
      let t ← ETy.ofCode r.ty
      return .vli r.getPred t r.d r.getImm32) := by
  obtain ⟨⟩ := r; cases h; rfl
theorem arm_53 (r : Raw) (h : r.op = 0x53) : r.toInstr = (do
      let t ← ETy.ofCode r.ty
      return .vpopc r.getPred t r.d r.a) := by
  obtain ⟨⟩ := r; cases h; rfl
theorem arm_54 (r : Raw) (h : r.op = 0x54) : r.toInstr = (do
      let t ← ETy.ofCode r.ty
      return .vclz r.getPred t r.d r.a) := by
  obtain ⟨⟩ := r; cases h; rfl
theorem arm_55 (r : Raw) (h : r.op = 0x55) : r.toInstr = (do
      let t ← ETy.ofCode r.ty
      return .vbrev r.getPred t r.d r.a) := by
  obtain ⟨⟩ := r; cases h; rfl
theorem arm_56 (r : Raw) (h : r.op = 0x56) : r.toInstr = (do
      let t ← ETy.ofCode r.ty
      return .vbfe r.getPred t r.d r.a r.b r.c) := by
  obtain ⟨⟩ := r; cases h; rfl
theorem arm_57 (r : Raw) (h : r.op = 0x57) : r.toInstr = (do
      let t ← ETy.ofCode r.ty
      return .vbfi r.getPred t r.d r.a r.b r.c) := by
  obtain ⟨⟩ := r; cases h; rfl
theorem arm_58 (r : Raw) (h : r.op = 0x58) : r.toInstr = (do
      let u ← ofBit4 r.fn
      let t ← ETy.ofCode r.ty
      let s ← ofSat r.cp
      return .vdp4 r.getPred u t s r.d r.a r.getVsrc r.c) := by
  obtain ⟨⟩ := r; cases h; rfl
theorem arm_60 (r : Raw) (h : r.op = 0x60) : r.toInstr = (do
      let t ← ETy.ofCode r.ty
      let x ← r.getRnd
      return .vfadd r.getPred t x r.d r.a r.getVsrc) := by
  obtain ⟨⟩ := r; cases h; rfl
theorem arm_61 (r : Raw) (h : r.op = 0x61) : r.toInstr = (do
      let t ← ETy.ofCode r.ty
      let x ← r.getRnd
      return .vfsub r.getPred t x r.d r.a r.getVsrc) := by
  obtain ⟨⟩ := r; cases h; rfl
theorem arm_62 (r : Raw) (h : r.op = 0x62) : r.toInstr = (do
      let t ← ETy.ofCode r.ty
      let x ← r.getRnd
      return .vfmul r.getPred t x r.d r.a r.getVsrc) := by
  obtain ⟨⟩ := r; cases h; rfl
theorem arm_63 (r : Raw) (h : r.op = 0x63) : r.toInstr = (do
      let t ← ETy.ofCode r.ty
      let x ← r.getRnd
      return .vfma r.getPred t x r.d r.a r.getVsrc r.c) := by
  obtain ⟨⟩ := r; cases h; rfl
theorem arm_64 (r : Raw) (h : r.op = 0x64) : r.toInstr = (do
      let t ← ETy.ofCode r.ty
      return .vfmin r.getPred t r.d r.a r.getVsrc) := by
  obtain ⟨⟩ := r; cases h; rfl
theorem arm_65 (r : Raw) (h : r.op = 0x65) : r.toInstr = (do
      let t ← ETy.ofCode r.ty
      return .vfmax r.getPred t r.d r.a r.getVsrc) := by
  obtain ⟨⟩ := r; cases h; rfl
theorem arm_66 (r : Raw) (h : r.op = 0x66) : r.toInstr = (do
      let c ← FCmp.ofCode r.fn
      let t ← ETy.ofCode r.ty
      return .vfcmp r.getPred c t (toK r.d) r.a r.getVsrc) := by
  obtain ⟨⟩ := r; cases h; rfl
theorem arm_67 (r : Raw) (h : r.op = 0x67) : r.toInstr = (do
      let t ← ETy.ofCode r.ty
      let x ← r.getRnd
      return .vfrcp r.getPred t x r.d r.a) := by
  obtain ⟨⟩ := r; cases h; rfl
theorem arm_68 (r : Raw) (h : r.op = 0x68) : r.toInstr = (do
      let t ← ETy.ofCode r.ty
      let x ← r.getRnd
      return .vfrsq r.getPred t x r.d r.a) := by
  obtain ⟨⟩ := r; cases h; rfl
theorem arm_69 (r : Raw) (h : r.op = 0x69) : r.toInstr = (do
      let t ← ETy.ofCode r.ty
      let x ← r.getRnd
      return .vfsqrt r.getPred t x r.d r.a) := by
  obtain ⟨⟩ := r; cases h; rfl
theorem arm_6A (r : Raw) (h : r.op = 0x6A) : r.toInstr = (do
      let t ← ETy.ofCode r.ty
      let x ← r.getRnd
      return .vfdiv r.getPred t x r.d r.a r.getVsrc) := by
  obtain ⟨⟩ := r; cases h; rfl
theorem arm_6B (r : Raw) (h : r.op = 0x6B) : r.toInstr = (do
      let t ← ETy.ofCode r.ty
      let x ← r.getRnd
      return .vfexp2 r.getPred t x r.d r.a) := by
  obtain ⟨⟩ := r; cases h; rfl
theorem arm_6C (r : Raw) (h : r.op = 0x6C) : r.toInstr = (do
      let t ← ETy.ofCode r.ty
      let x ← r.getRnd
      return .vflog2 r.getPred t x r.d r.a) := by
  obtain ⟨⟩ := r; cases h; rfl
theorem arm_6D (r : Raw) (h : r.op = 0x6D) : r.toInstr = (do
      let t ← ETy.ofCode r.ty
      let x ← r.getRnd
      return .vfsin r.getPred t x r.d r.a) := by
  obtain ⟨⟩ := r; cases h; rfl
theorem arm_6E (r : Raw) (h : r.op = 0x6E) : r.toInstr = (do
      let t ← ETy.ofCode r.ty
      let x ← r.getRnd
      return .vfcos r.getPred t x r.d r.a) := by
  obtain ⟨⟩ := r; cases h; rfl
theorem arm_6F (r : Raw) (h : r.op = 0x6F) : r.toInstr = (do
      let t ← ETy.ofCode r.ty
      let x ← r.getRnd
      return .vftanh r.getPred t x r.d r.a) := by
  obtain ⟨⟩ := r; cases h; rfl
theorem arm_70 (r : Raw) (h : r.op = 0x70) : r.toInstr = (do
      let x ← r.getRnd
      return .vfcvt r.getPred r.c r.b (r.fn.extractLsb' 0 3) x r.d r.a) := by
  obtain ⟨⟩ := r; cases h; rfl
theorem arm_71 (r : Raw) (h : r.op = 0x71) : r.toInstr = (do
      let u ← ofBit4 r.fn
      let t ← ETy.ofCode r.ty
      let m ← Rm.ofCode r.sc
      return .vftoi r.getPred u t m r.d r.a) := by
  obtain ⟨⟩ := r; cases h; rfl
theorem arm_72 (r : Raw) (h : r.op = 0x72) : r.toInstr = (do
      let u ← ofBit4 r.fn
      let t ← ETy.ofCode r.ty
      let x ← r.getRnd
      return .vitof r.getPred u t x r.d r.a) := by
  obtain ⟨⟩ := r; cases h; rfl
theorem arm_73 (r : Raw) (h : r.op = 0x73) : r.toInstr = (do
      let t ← ETy.ofCode r.ty
      let m ← Rm.ofCode r.sc
      return .vfrnd r.getPred t m r.d r.a) := by
  obtain ⟨⟩ := r; cases h; rfl
theorem arm_74 (r : Raw) (h : r.op = 0x74) : r.toInstr = (do
      let t ← ETy.ofCode r.ty
      return .vfclass r.getPred t r.d r.a) := by
  obtain ⟨⟩ := r; cases h; rfl
theorem arm_75 (r : Raw) (h : r.op = 0x75) : r.toInstr = (do
      let t ← ETy.ofCode r.ty
      let x ← r.getRnd
      return .vfscale r.getPred t x r.d r.a r.getVsrc) := by
  obtain ⟨⟩ := r; cases h; rfl
theorem arm_76 (r : Raw) (h : r.op = 0x76) : r.toInstr = (do
      let t ← ETy.ofCode r.ty
      let x ← r.getRnd
      return .vfdot2 r.getPred t x r.d r.a r.getVsrc r.c) := by
  obtain ⟨⟩ := r; cases h; rfl
theorem arm_80 (r : Raw) (h : r.op = 0x80) : r.toInstr = (do
      let t ← ETy.ofCode r.ty
      return .vshuf r.getPred t r.d r.a r.b) := by
  obtain ⟨⟩ := r; cases h; rfl
theorem arm_81 (r : Raw) (h : r.op = 0x81) : r.toInstr = (do
      let q ← ofBit4 r.fn
      let t ← ETy.ofCode r.ty
      return .vrot r.getPred q t r.d r.a (r.c.extractLsb' 0 5)) := by
  obtain ⟨⟩ := r; cases h; rfl
theorem arm_82 (r : Raw) (h : r.op = 0x82) : r.toInstr = (do
      let t ← ETy.ofCode r.ty
      match r.fn.toNat with
      | 0 => return .vbcast (.lane r.getPred r.d (r.c.extractLsb' 0 5)) t r.a
      | 1 => return .vbcast (.first r.getPred r.d) t r.a
      | 2 => return .vbcast (.ts (toS r.d) (r.c.extractLsb' 0 5)) t r.a
      | _ => none) := by
  obtain ⟨⟩ := r; cases h; rfl
theorem arm_83 (r : Raw) (h : r.op = 0x83) : r.toInstr = (do
      let o ← Red.ofCode r.fn
      let t ← ETy.ofCode r.ty
      return .vred r.getPred o t (toS r.d) r.a) := by
  obtain ⟨⟩ := r; cases h; rfl
theorem arm_84 (r : Raw) (h : r.op = 0x84) : r.toInstr = (do
      let o ← Red.ofCode r.fn
      let t ← ETy.ofCode r.ty
      return .vscan r.getPred o (r.mod == 1) t r.d r.a) := by
  obtain ⟨⟩ := r; cases h; rfl
theorem arm_85 (r : Raw) (h : r.op = 0x85) : r.toInstr = (do
      let t ← ETy.ofCode r.ty
      match r.fn.toNat with
      | 0 => return .vvote r.getPred (.mk (toK r.d)) t r.a
      | 1 => return .vvote r.getPred (.cnt (toS r.d)) t r.a
      | 2 => return .vvote r.getPred (.lo (toS r.d)) t r.a
      | 3 => return .vvote r.getPred (.hi (toS r.d)) t r.a
      | 4 => return .vvote r.getPred (.eq (toS r.d)) t r.a
      | _ => none) := by
  obtain ⟨⟩ := r; cases h; rfl
theorem arm_86 (r : Raw) (h : r.op = 0x86) : r.toInstr = (do
      let t ← ETy.ofCode r.ty
      return .vcompact r.getPred t r.d r.a) := by
  obtain ⟨⟩ := r; cases h; rfl
theorem arm_87 (r : Raw) (h : r.op = 0x87) : r.toInstr = (do
      let t ← ETy.ofCode r.ty
      return .vmatch r.getPred t r.d r.a) := by
  obtain ⟨⟩ := r; cases h; rfl
theorem arm_88 (r : Raw) (h : r.op = 0x88) : r.toInstr = (match r.fn.toNat with
      | 0 => some (.elect r.getPred (.k (toK r.d)))
      | 1 => some (.elect r.getPred (.s (toS r.d)))
      | _ => none) := by
  obtain ⟨⟩ := r; cases h; rfl
theorem arm_90 (r : Raw) (h : r.op = 0x90) : r.toInstr = (do
      let z ← Size.ofCode r.fn
      let t ← STy.ofCode r.ty
      let q ← r.getMemq
      let m ← r.getAmode
      return .ld z t q (toS r.d) m r.getOff) := by
  obtain ⟨⟩ := r; cases h; rfl
theorem arm_91 (r : Raw) (h : r.op = 0x91) : r.toInstr = (do
      let z ← Size.ofCode r.fn
      let t ← STy.ofCode r.ty
      let q ← r.getMemq
      let m ← r.getAmode
      return .st z t q (toS r.d) m r.getOff) := by
  obtain ⟨⟩ := r; cases h; rfl
theorem arm_92 (r : Raw) (h : r.op = 0x92) : r.toInstr = (do
      let z ← Size.ofCode r.fn
      let t ← ETy.ofCode r.ty
      let q ← r.getMemq
      let m ← r.getAmode
      return .vld r.getPred z t q r.d m r.getOff) := by
  obtain ⟨⟩ := r; cases h; rfl
theorem arm_93 (r : Raw) (h : r.op = 0x93) : r.toInstr = (do
      let z ← Size.ofCode r.fn
      let t ← ETy.ofCode r.ty
      let q ← r.getMemq
      let m ← r.getAmode
      return .vst r.getPred z t q r.d m r.getOff) := by
  obtain ⟨⟩ := r; cases h; rfl
theorem arm_94 (r : Raw) (h : r.op = 0x94) : r.toInstr = (do
      let z ← Size.ofCode r.fn
      let t ← ETy.ofCode r.ty
      let q ← r.getMemq
      let m ← r.getAmode
      return .vldc r.getPred z t q r.d m r.getOff) := by
  obtain ⟨⟩ := r; cases h; rfl
theorem arm_95 (r : Raw) (h : r.op = 0x95) : r.toInstr = (do
      let z ← Size.ofCode r.fn
      let t ← ETy.ofCode r.ty
      let q ← r.getMemq
      let m ← r.getAmode
      return .vstc r.getPred z t q r.d m r.getOff) := by
  obtain ⟨⟩ := r; cases h; rfl
theorem arm_96 (r : Raw) (h : r.op = 0x96) : r.toInstr = (do
      let q ← r.getMemq
      let m ← r.getAmode
      return .cld q (toC r.d) m r.getOff) := by
  obtain ⟨⟩ := r; cases h; rfl
theorem arm_97 (r : Raw) (h : r.op = 0x97) : r.toInstr = (do
      let q ← r.getMemq
      let m ← r.getAmode
      return .cst q (toC r.d) m r.getOff) := by
  obtain ⟨⟩ := r; cases h; rfl
theorem arm_98 (r : Raw) (h : r.op = 0x98) : r.toInstr = (do
      let z ← Size.ofCode r.fn
      let t ← ETy.ofCode r.ty
      let m ← r.getAmode
      return .vlds r.getPred z t r.d m r.getOff) := by
  obtain ⟨⟩ := r; cases h; rfl
theorem arm_99 (r : Raw) (h : r.op = 0x99) : r.toInstr = (do
      let z ← Size.ofCode r.fn
      let t ← ETy.ofCode r.ty
      let m ← r.getAmode
      return .vsts r.getPred z t r.d m r.getOff) := by
  obtain ⟨⟩ := r; cases h; rfl
theorem arm_9A (r : Raw) (h : r.op = 0x9A) : r.toInstr = (do
      let c ← Policy.ofCode r.cp
      let m ← r.getAmode
      return .pref c m r.getOff) := by
  obtain ⟨⟩ := r; cases h; rfl
theorem arm_9B (r : Raw) (h : r.op = 0x9B) : r.toInstr = (do
      let o ← L2Op.ofCode r.fn
      return .l2pf o (toS r.d) (toCtx r.a) (toC r.a) (toS r.b)) := by
  obtain ⟨⟩ := r; cases h; rfl
theorem arm_A0 (r : Raw) (h : r.op = 0xA0) : r.toInstr = (do
      let o ← Rmw.ofCode r.fn
      let t ← ETy.ofCode r.ty
      let q ← r.getMemq
      let m ← r.getAmode
      return .amo o t q (toS r.d) m r.getAoff (toS r.c)) := by
  obtain ⟨⟩ := r; cases h; rfl
theorem arm_A1 (r : Raw) (h : r.op = 0xA1) : r.toInstr = (do
      let t ← ETy.ofCode r.ty
      let q ← r.getMemq
      let m ← r.getAmode
      return .acas t q (toS r.d) m r.getAoff (toS r.c)) := by
  obtain ⟨⟩ := r; cases h; rfl
theorem arm_A2 (r : Raw) (h : r.op = 0xA2) : r.toInstr = (do
      let o ← Rmw.ofCode r.fn
      let t ← ETy.ofCode r.ty
      let q ← r.getMemq
      let m ← r.getAmode
      return .vamo r.getPred o t q r.d m r.getAoff r.c) := by
  obtain ⟨⟩ := r; cases h; rfl
theorem arm_A3 (r : Raw) (h : r.op = 0xA3) : r.toInstr = (do
      let t ← ETy.ofCode r.ty
      let q ← r.getMemq
      let m ← r.getAmode
      return .vacas r.getPred t q r.d m r.getAoff r.c) := by
  obtain ⟨⟩ := r; cases h; rfl
theorem arm_A4 (r : Raw) (h : r.op = 0xA4) : r.toInstr = (do
      let o ← Rmw.ofCode r.fn
      let t ← ETy.ofCode r.ty
      let q ← r.getMemq
      let m ← r.getAmode
      return .bop o t q (toS r.d) m r.getAoff (toS r.c)) := by
  obtain ⟨⟩ := r; cases h; rfl
theorem arm_A5 (r : Raw) (h : r.op = 0xA5) : r.toInstr = (do
      let t ← ETy.ofCode r.ty
      let q ← r.getMemq
      let m ← r.getAmode
      return .bcas t q (toS r.d) m r.getAoff (toS r.c)) := by
  obtain ⟨⟩ := r; cases h; rfl
theorem arm_A6 (r : Raw) (h : r.op = 0xA6) : r.toInstr = (do
      let o ← Rmw.ofCode r.fn
      let t ← ETy.ofCode r.ty
      let q ← r.getMemq
      let m ← r.getAmode
      return .vbop r.getPred o t q r.d m r.getAoff r.c) := by
  obtain ⟨⟩ := r; cases h; rfl
theorem arm_A7 (r : Raw) (h : r.op = 0xA7) : r.toInstr = (do
      let o ← Rmw.ofCode r.fn
      let t ← ETy.ofCode r.ty
      return .bupd o t (toS r.d) (toCtx r.a) (toC r.a) (toS r.b) (toS r.c)) := by
  obtain ⟨⟩ := r; cases h; rfl
theorem arm_A8 (r : Raw) (h : r.op = 0xA8) : r.toInstr = (some (.acinit (toS r.d) (toC r.a) (toS r.b) (toS r.c))) := by
  obtain ⟨⟩ := r; cases h; rfl
theorem arm_A9 (r : Raw) (h : r.op = 0xA9) : r.toInstr = (do
      let n ← ofBit4 r.fn
      return .adec n (toS r.d) (toC r.a) (toS r.b)) := by
  obtain ⟨⟩ := r; cases h; rfl
theorem arm_AA (r : Raw) (h : r.op = 0xAA) : r.toInstr = (some (.ainc (toS r.d) (toC r.a) (toS r.b))) := by
  obtain ⟨⟩ := r; cases h; rfl
theorem arm_AB (r : Raw) (h : r.op = 0xAB) : r.toInstr = (some (.areadx (toS r.d) (toC r.a))) := by
  obtain ⟨⟩ := r; cases h; rfl
theorem arm_AC (r : Raw) (h : r.op = 0xAC) : r.toInstr = (some (.areada (toS r.d) (toC r.a))) := by
  obtain ⟨⟩ := r; cases h; rfl
theorem arm_AD (r : Raw) (h : r.op = 0xAD) : r.toInstr = (some (.acret (toS r.d) (toC r.a))) := by
  obtain ⟨⟩ := r; cases h; rfl
theorem arm_B0 (r : Raw) (h : r.op = 0xB0) : r.toInstr = (do
      let u ← ofBit4 r.fn
      let o ← Ord.ofCode r.ordq
      let s ← Scope.ofCode r.sc
      return .fence u o s) := by
  obtain ⟨⟩ := r; cases h; rfl
theorem arm_B1 (r : Raw) (h : r.op = 0xB1) : r.toInstr = (do
      let c ← Cmp.ofWaitCode r.fn
      let t ← STy.ofCode r.ty
      let o ← Ord.ofCode r.ordq
      let s ← Scope.ofCode r.sc
      let m ← r.getAmode
      return .waitc c t o s (toS r.d) m r.getAoff (toS r.c)) := by
  obtain ⟨⟩ := r; cases h; rfl
theorem arm_B2 (r : Raw) (h : r.op = 0xB2) : r.toInstr = (do
      let t ← STy.ofCode r.ty
      let o ← Ord.ofCode r.ordq
      let s ← Scope.ofCode r.sc
      let m ← r.getAmode
      return .poll t o s (toS r.d) m r.getOff) := by
  obtain ⟨⟩ := r; cases h; rfl
theorem arm_B3 (r : Raw) (h : r.op = 0xB3) : r.toInstr = (some (.bari (toS r.d) (toC r.a) (toS r.b))) := by
  obtain ⟨⟩ := r; cases h; rfl
theorem arm_B4 (r : Raw) (h : r.op = 0xB4) : r.toInstr = (do
      let s ← Scope.ofCode r.sc
      return .bara s (toS r.d) (toC r.a)) := by
  obtain ⟨⟩ := r; cases h; rfl
theorem arm_B5 (r : Raw) (h : r.op = 0xB5) : r.toInstr = (do
      let s ← Scope.ofCode r.sc
      return .barw s (toS r.d) (toC r.a) (toS r.b)) := by
  obtain ⟨⟩ := r; cases h; rfl
theorem arm_B6 (r : Raw) (h : r.op = 0xB6) : r.toInstr = (do
      let s ← Scope.ofCode r.sc
      return .baraw s (toS r.d) (toC r.a)) := by
  obtain ⟨⟩ := r; cases h; rfl
theorem arm_C0 (r : Raw) (h : r.op = 0xC0) : r.toInstr = (do
      let m ← r.getAmode
      return .spawn m r.c) := by
  obtain ⟨⟩ := r; cases h; rfl
theorem arm_C1 (r : Raw) (h : r.op = 0xC1) : r.toInstr = (do
      let m ← r.getAmode
      return .spawnl m r.c) := by
  obtain ⟨⟩ := r; cases h; rfl
theorem arm_C2 (r : Raw) (h : r.op = 0xC2) : r.toInstr = (some (.fnew (toS r.d) (toC r.a))) := by
  obtain ⟨⟩ := r; cases h; rfl
theorem arm_C3 (r : Raw) (h : r.op = 0xC3) : r.toInstr = (match r.fn.toNat with
      | 0 => some (.ffill (.value (toS r.b)) (toS r.d) (toC r.a))
      | 1 => some (.ffill .cancel (toS r.d) (toC r.a))
      | _ => none) := by
  obtain ⟨⟩ := r; cases h; rfl
theorem arm_C4 (r : Raw) (h : r.op = 0xC4) : r.toInstr = (do
      let t ← ofBit4 r.fn
      return .join t (toS r.d) (toC r.a)) := by
  obtain ⟨⟩ := r; cases h; rfl
theorem arm_C5 (r : Raw) (h : r.op = 0xC5) : r.toInstr = (some (.joint (toS r.d) (toC r.a))) := by
  obtain ⟨⟩ := r; cases h; rfl
theorem arm_C6 (r : Raw) (h : r.op = 0xC6) : r.toInstr = (match r.fn.toNat with
      | 0 => some (.exit none)
      | 1 => some (.exit (some (toS r.a)))
      | _ => none) := by
  obtain ⟨⟩ := r; cases h; rfl
theorem arm_C7 (r : Raw) (h : r.op = 0xC7) : r.toInstr = (match r.fn.toNat with
      | 0 => some (.regrp (.range r.b r.c) (toS r.d) (toC r.a))
      | 1 => some (.regrp .flush (toS r.d) (toC r.a))
      | _ => none) := by
  obtain ⟨⟩ := r; cases h; rfl
theorem arm_C8 (r : Raw) (h : r.op = 0xC8) : r.toInstr = (do
      let n ← ofBit4 r.fn
      return .qpop n (toS r.d) (toC r.a) (toS r.b)) := by
  obtain ⟨⟩ := r; cases h; rfl
theorem arm_C9 (r : Raw) (h : r.op = 0xC9) : r.toInstr = (match r.fn.toNat with
      | 0 => some (.qapp (.app (toS r.b)) (toS r.d) (toC r.a))
      | 1 => some (.qapp .close (toS r.d) (toC r.a))
      | _ => none) := by
  obtain ⟨⟩ := r; cases h; rfl
theorem arm_CA (r : Raw) (h : r.op = 0xCA) : r.toInstr = (some .lhint) := by
  obtain ⟨⟩ := r; cases h; rfl
theorem arm_CB (r : Raw) (h : r.op = 0xCB) : r.toInstr = (some (.waitpred (toS r.d))) := by
  obtain ⟨⟩ := r; cases h; rfl
theorem arm_D0 (r : Raw) (h : r.op = 0xD0) : r.toInstr = (do
      let b ← ofBit4 r.fn
      let t ← ETy.ofCode r.ty
      let x ← r.getRnd
      return .plane b r.getPred t x (toS r.d) r.a (r.b.extractLsb' 0 2) r.c) := by
  obtain ⟨⟩ := r; cases h; rfl
theorem arm_D1 (r : Raw) (h : r.op = 0xD1) : r.toInstr = (some (.mfmt (r.d.extractLsb' 0 2) (toS r.a))) := by
  obtain ⟨⟩ := r; cases h; rfl
theorem arm_D2 (r : Raw) (h : r.op = 0xD2) : r.toInstr = (some (.mma r.getPred r.d r.a (r.c.extractLsb' 0 2))) := by
  obtain ⟨⟩ := r; cases h; rfl
theorem arm_D3 (r : Raw) (h : r.op = 0xD3) : r.toInstr = (some (.mzero r.getPred r.d)) := by
  obtain ⟨⟩ := r; cases h; rfl
theorem arm_E0 (r : Raw) (h : r.op = 0xE0) : r.toInstr = (do
      let s ← ofSt r.cp
      return .cpy s (toS r.d) r.ty (toC r.a) (toC r.b) (toS r.c)) := by
  obtain ⟨⟩ := r; cases h; rfl
theorem arm_E1 (r : Raw) (h : r.op = 0xE1) : r.toInstr = (do
      let w ← ofBit4 r.fn
      let s ← ofSt r.cp
      return .cpyt w s (toS r.d) r.ty (toS r.a) (toS r.b) (toS r.c)) := by
  obtain ⟨⟩ := r; cases h; rfl
theorem arm_E2 (r : Raw) (h : r.op = 0xE2) : r.toInstr = (do
      let s ← ofSt r.cp
      return .stage s (toS r.d) r.ty (toS r.a) (toS r.b) (toS r.c)) := by
  obtain ⟨⟩ := r; cases h; rfl
theorem arm_E3 (r : Raw) (h : r.op = 0xE3) : r.toInstr = (do
      let w ← ofBit4 r.fn
      let s ← ofSt r.cp
      return .drain w (r.mod == 1) s (toS r.d) r.ty r.a (toS r.b) (toS r.c)) := by
  obtain ⟨⟩ := r; cases h; rfl
theorem arm_E4 (r : Raw) (h : r.op = 0xE4) : r.toInstr = (if r.len == .l96 then some (.twait r.ty (.reg (toS r.a) r.getImm32)) else some (.twait r.ty (.back r.c))) := by
  obtain ⟨⟩ := r; cases h; rfl
theorem arm_E5 (r : Raw) (h : r.op = 0xE5) : r.toInstr = (do
      let c ← ofBit4 r.fn
      return .tread c (toS r.d) r.ty) := by
  obtain ⟨⟩ := r; cases h; rfl
theorem arm_E6 (r : Raw) (h : r.op = 0xE6) : r.toInstr = (some (.dpost (toS r.d) r.ty (toC r.a) (toC r.b) (toC r.c))) := by
  obtain ⟨⟩ := r; cases h; rfl
theorem arm_E7 (r : Raw) (h : r.op = 0xE7) : r.toInstr = (some (.xsend (toS r.d) r.ty (toC r.a) (toC r.b) (toC r.c))) := by
  obtain ⟨⟩ := r; cases h; rfl
theorem arm_E8 (r : Raw) (h : r.op = 0xE8) : r.toInstr = (do
      let u ← ofBit4 r.fn
      return .xwait u (toS r.d) (toC r.a)) := by
  obtain ⟨⟩ := r; cases h; rfl
theorem arm_E9 (r : Raw) (h : r.op = 0xE9) : r.toInstr = (some (.xstat (toS r.d) (toC r.a) (toS r.b))) := by
  obtain ⟨⟩ := r; cases h; rfl
theorem arm_F0 (r : Raw) (h : r.op = 0xF0) : r.toInstr = (do
      let x ← Sr.ofCode r.c
      match r.fn.toNat with
      | 0 => return .rdsr (.s (toS r.d)) x
      | 1 => return .rdsr (.v r.d) x
      | 2 => return .rdsr (.c (toC r.d)) x
      | _ => none) := by
  obtain ⟨⟩ := r; cases h; rfl
theorem arm_F1 (r : Raw) (h : r.op = 0xF1) : r.toInstr = (do
      let x ← Sr.ofCode r.c
      return .wrsr x (toS r.a)) := by
  obtain ⟨⟩ := r; cases h; rfl
theorem arm_F2 (r : Raw) (h : r.op = 0xF2) : r.toInstr = (some (.trap r.c)) := by
  obtain ⟨⟩ := r; cases h; rfl
theorem arm_F3 (r : Raw) (h : r.op = 0xF3) : r.toInstr = (some (.phint r.d r.a r.b r.c (r.ext.extractLsb' 0 32) (r.ext.extractLsb' 32 16) (r.ext.getLsbD 48))) := by
  obtain ⟨⟩ := r; cases h; rfl
theorem arm_F4 (r : Raw) (h : r.op = 0xF4) : r.toInstr = (some (.brk r.c)) := by
  obtain ⟨⟩ := r; cases h; rfl
theorem arm_F5 (r : Raw) (h : r.op = 0xF5) : r.toInstr = (do
      let p ← ofBit4 r.fn
      return .invv p (toC r.a) (toS r.b)) := by
  obtain ⟨⟩ := r; cases h; rfl
theorem arm_F6 (r : Raw) (h : r.op = 0xF6) : r.toInstr = (do
      let f ← FlushScope.ofCode r.fn
      return .cflush f (toC r.a) (toS r.b)) := by
  obtain ⟨⟩ := r; cases h; rfl
theorem arm_FF (r : Raw) (h : r.op = 0xFF) : r.toInstr = (some .udf) := by
  obtain ⟨⟩ := r; cases h; rfl

/-! ### One lemma per constructor -/

theorem noImm_vmad (p ty sat d a v c) : ¬(Instr.vmad p ty sat d a (.imm v) c).wf = true := fun h => by
  have h2 : (wfV3 ETy.int p ty d a (.imm v) && false && regFor ty c) = true := h
  simp at h2
theorem noImm_vsel (p ty d a v c) : ¬(Instr.vsel p ty d a (.imm v) c).wf = true := fun h => by
  have h2 : (wfV3 ETy.intB p ty d a (.imm v) && false) = true := h
  simp at h2
theorem noImm_vdp4 (p su ty sat d a v c) : ¬(Instr.vdp4 p su ty sat d a (.imm v) c).wf = true := fun h => by
  have h2 : (p.ok && (ty == .i8x4 || (ty == .n8x4 && !su)) && false) = true := h
  simp at h2
theorem noImm_vfma (p ty r d a v c) : ¬(Instr.vfma p ty r d a (.imm v) c).wf = true := fun h => by
  have h2 : ((wfV3 ETy.flt p ty d a (.imm v) && false) && regFor ty c) = true := h
  simp at h2
theorem noImm_vfdot2 (p ty r d a v c) : ¬(Instr.vfdot2 p ty r d a (.imm v) c).wf = true := fun h => by
  have h2 : (p.ok && (ty == .f16x2 || ty == .bf16x2) && false) = true := h
  simp at h2

theorem br (off : W32) : Statement (.br off) := by
  intro r h _
  (cases h; refine (arm_01 _ rfl).trans ?_; simp)
theorem brc (c : BrCond) (off : W32) : Statement (.brc c off) := by
  intro r h _
  cases c <;> (cases h; refine (arm_02 _ rfl).trans ?_; simp)
theorem brd (p : Pred) (t rc : W32) : Statement (.brd p t rc) := by
  intro r h _
  (cases h; refine (arm_03 _ rfl).trans ?_; simp; exact ⟨low_append rc t, high_append rc t⟩)
theorem call (d : SReg) (off : W32) : Statement (.call d off) := by
  intro r h _
  (cases h; refine (arm_05 _ rfl).trans ?_; simp)
theorem ret (a : SReg) : Statement (.ret a) := by
  intro r h _
  (cases h; refine (arm_06 _ rfl).trans ?_; simp)
theorem jmpi (a : SReg) : Statement (.jmpi a) := by
  intro r h _
  (cases h; refine (arm_07 _ rfl).trans ?_; simp)
theorem loop (a : SReg) (off : W32) : Statement (.loop a off) := by
  intro r h _
  (cases h; refine (arm_08 _ rfl).trans ?_; simp)
theorem sadd (ty : STy) (d a : SReg) (y : SSrc) : Statement (.sadd ty d a y) := by
  intro r h _
  cases y <;> (cases h; refine (arm_10 _ rfl).trans ?_; simp)
theorem ssub (ty : STy) (d a : SReg) (y : SSrc) : Statement (.ssub ty d a y) := by
  intro r h _
  cases y <;> (cases h; refine (arm_11 _ rfl).trans ?_; simp)
theorem smul (ty : STy) (d a : SReg) (y : SSrc) : Statement (.smul ty d a y) := by
  intro r h _
  cases y <;> (cases h; refine (arm_12 _ rfl).trans ?_; simp)
theorem smulh (ty : STy) (d a : SReg) (y : SSrc) : Statement (.smulh ty d a y) := by
  intro r h _
  cases y <;> (cases h; refine (arm_13 _ rfl).trans ?_; simp)
theorem sdiv (ty : STy) (d a : SReg) (y : SSrc) : Statement (.sdiv ty d a y) := by
  intro r h _
  cases y <;> (cases h; refine (arm_14 _ rfl).trans ?_; simp)
theorem srem (ty : STy) (d a : SReg) (y : SSrc) : Statement (.srem ty d a y) := by
  intro r h _
  cases y <;> (cases h; refine (arm_15 _ rfl).trans ?_; simp)
theorem sand (ty : STy) (d a : SReg) (y : SSrc) : Statement (.sand ty d a y) := by
  intro r h _
  cases y <;> (cases h; refine (arm_16 _ rfl).trans ?_; simp)
theorem sor (ty : STy) (d a : SReg) (y : SSrc) : Statement (.sor ty d a y) := by
  intro r h _
  cases y <;> (cases h; refine (arm_17 _ rfl).trans ?_; simp)
theorem sxor (ty : STy) (d a : SReg) (y : SSrc) : Statement (.sxor ty d a y) := by
  intro r h _
  cases y <;> (cases h; refine (arm_18 _ rfl).trans ?_; simp)
theorem sshl (ty : STy) (d a : SReg) (y : SSrc) : Statement (.sshl ty d a y) := by
  intro r h _
  cases y <;> (cases h; refine (arm_19 _ rfl).trans ?_; simp)
theorem sshr (ty : STy) (d a : SReg) (y : SSrc) : Statement (.sshr ty d a y) := by
  intro r h _
  cases y <;> (cases h; refine (arm_1A _ rfl).trans ?_; simp)
theorem ssra (ty : STy) (d a : SReg) (y : SSrc) : Statement (.ssra ty d a y) := by
  intro r h _
  cases y <;> (cases h; refine (arm_1B _ rfl).trans ?_; simp)
theorem smin (ty : STy) (d a : SReg) (y : SSrc) : Statement (.smin ty d a y) := by
  intro r h _
  cases y <;> (cases h; refine (arm_1C _ rfl).trans ?_; simp)
theorem smax (ty : STy) (d a : SReg) (y : SSrc) : Statement (.smax ty d a y) := by
  intro r h _
  cases y <;> (cases h; refine (arm_1D _ rfl).trans ?_; simp)
theorem scmp (c : Cmp) (ty : STy) (d a : SReg) (y : SSrc) : Statement (.scmp c ty d a y) := by
  intro r h _
  cases y <;> (cases h; refine (arm_1E _ rfl).trans ?_; simp)
theorem ssel (ty : STy) (d a b c : SReg) : Statement (.ssel ty d a b c) := by
  intro r h _
  (cases h; refine (arm_1F _ rfl).trans ?_; simp)
theorem smov (ty : STy) (d : SReg) (y : SSrc) : Statement (.smov ty d y) := by
  intro r h _
  cases y <;> (cases h; refine (arm_20 _ rfl).trans ?_; simp)
theorem sli (ty : STy) (d : SReg) (imm : W64) : Statement (.sli ty d imm) := by
  intro r h _
  (cases h; refine (arm_21 _ rfl).trans ?_; simp)
theorem saddi (ty : STy) (d a : SReg) (imm : W32) : Statement (.saddi ty d a imm) := by
  intro r h _
  (cases h; refine (arm_22 _ rfl).trans ?_; simp)
theorem sbfe (ty : STy) (d a : SReg) (pos len : Byte) : Statement (.sbfe ty d a pos len) := by
  intro r h _
  (cases h; refine (arm_23 _ rfl).trans ?_; simp)
theorem sbfi (ty : STy) (d a : SReg) (pos len : Byte) : Statement (.sbfi ty d a pos len) := by
  intro r h _
  (cases h; refine (arm_24 _ rfl).trans ?_; simp)
theorem spopc (ty : STy) (d a : SReg) : Statement (.spopc ty d a) := by
  intro r h _
  (cases h; refine (arm_25 _ rfl).trans ?_; simp)
theorem sclz (ty : STy) (d a : SReg) : Statement (.sclz ty d a) := by
  intro r h _
  (cases h; refine (arm_26 _ rfl).trans ?_; simp)
theorem cbnd (ex : Bool) (d a : CReg) (b : SReg) : Statement (.cbnd ex d a b) := by
  intro r h _
  (cases h; refine (arm_30 _ rfl).trans ?_; simp)
theorem cinc (d a : CReg) (b : SReg) : Statement (.cinc d a b) := by
  intro r h _
  (cases h; refine (arm_31 _ rfl).trans ?_; simp)
theorem cinci (d a : CReg) (imm : W32) : Statement (.cinci d a imm) := by
  intro r h _
  (cases h; refine (arm_32 _ rfl).trans ?_; simp)
theorem cperm (d a : CReg) (b : SReg) : Statement (.cperm d a b) := by
  intro r h _
  (cases h; refine (arm_33 _ rfl).trans ?_; simp)
theorem cget (f : CField) (d : SReg) (a : CReg) : Statement (.cget f d a) := by
  intro r h _
  (cases h; refine (arm_34 _ rfl).trans ?_; simp)
theorem ctest (d : SReg) (a : CReg) (b : SReg) (m : BitVec 7) : Statement (.ctest d a b m) := by
  intro r h _
  (cases h; refine (arm_35 _ rfl).trans ?_; simp)
theorem csub (d : SReg) (a b : CReg) : Statement (.csub d a b) := by
  intro r h _
  (cases h; refine (arm_36 _ rfl).trans ?_; simp)
theorem kbool (d a b : KReg) (tt : BitVec 4) : Statement (.kbool d a b tt) := by
  intro r h _
  (cases h; refine (arm_38 _ rfl).trans ?_; simp)
theorem kget (d : SReg) (a : KReg) : Statement (.kget d a) := by
  intro r h _
  (cases h; refine (arm_39 _ rfl).trans ?_; simp)
theorem kset (d : KReg) (a : SReg) : Statement (.kset d a) := by
  intro r h _
  (cases h; refine (arm_3A _ rfl).trans ?_; simp)
theorem kcnt (d : SReg) (a : KReg) : Statement (.kcnt d a) := by
  intro r h _
  (cases h; refine (arm_3B _ rfl).trans ?_; simp)
theorem kfind (hi : Bool) (d : SReg) (a : KReg) : Statement (.kfind hi d a) := by
  intro r h _
  (cases h; refine (arm_3C _ rfl).trans ?_; simp)
theorem kshf (f : KShift) (d a : KReg) (n : BitVec 5) : Statement (.kshf f d a n) := by
  intro r h _
  (cases h; refine (arm_3D _ rfl).trans ?_; simp)
theorem kquad (all : Bool) (d a : KReg) : Statement (.kquad all d a) := by
  intro r h _
  (cases h; refine (arm_3E _ rfl).trans ?_; simp)
theorem vadd (p : Pred) (ty : ETy) (sat : Bool) (d a : VReg) (y : VSrc) : Statement (.vadd p ty sat d a y) := by
  intro r h _
  cases y <;> (cases h; refine (arm_40 _ rfl).trans ?_; simp)
theorem vsub (p : Pred) (ty : ETy) (sat : Bool) (d a : VReg) (y : VSrc) : Statement (.vsub p ty sat d a y) := by
  intro r h _
  cases y <;> (cases h; refine (arm_41 _ rfl).trans ?_; simp)
theorem vmul (p : Pred) (ty : ETy) (sat : Bool) (d a : VReg) (y : VSrc) : Statement (.vmul p ty sat d a y) := by
  intro r h _
  cases y <;> (cases h; refine (arm_42 _ rfl).trans ?_; simp)
theorem vmulh (p : Pred) (ty : ETy) (d a : VReg) (y : VSrc) : Statement (.vmulh p ty d a y) := by
  intro r h _
  cases y <;> (cases h; refine (arm_43 _ rfl).trans ?_; simp)
theorem vmad (p : Pred) (ty : ETy) (sat : Bool) (d a : VReg) (y : VSrc) (c : VReg) : Statement (.vmad p ty sat d a y c) := by
  intro r h hw
  cases y <;> (cases h; refine (arm_44 _ rfl).trans ?_; first | (simp; done) | exact (noImm_vmad _ _ _ _ _ _ _ hw).elim)
theorem vand (p : Pred) (ty : ETy) (d a : VReg) (y : VSrc) : Statement (.vand p ty d a y) := by
  intro r h _
  cases y <;> (cases h; refine (arm_45 _ rfl).trans ?_; simp)
theorem vor (p : Pred) (ty : ETy) (d a : VReg) (y : VSrc) : Statement (.vor p ty d a y) := by
  intro r h _
  cases y <;> (cases h; refine (arm_46 _ rfl).trans ?_; simp)
theorem vxor (p : Pred) (ty : ETy) (d a : VReg) (y : VSrc) : Statement (.vxor p ty d a y) := by
  intro r h _
  cases y <;> (cases h; refine (arm_47 _ rfl).trans ?_; simp)
theorem vnot (p : Pred) (ty : ETy) (d a : VReg) : Statement (.vnot p ty d a) := by
  intro r h _
  (cases h; refine (arm_48 _ rfl).trans ?_; simp)
theorem vshl (p : Pred) (ty : ETy) (d a : VReg) (y : VSrc) : Statement (.vshl p ty d a y) := by
  intro r h _
  cases y <;> (cases h; refine (arm_49 _ rfl).trans ?_; simp)
theorem vshr (p : Pred) (ty : ETy) (d a : VReg) (y : VSrc) : Statement (.vshr p ty d a y) := by
  intro r h _
  cases y <;> (cases h; refine (arm_4A _ rfl).trans ?_; simp)
theorem vsra (p : Pred) (ty : ETy) (d a : VReg) (y : VSrc) : Statement (.vsra p ty d a y) := by
  intro r h _
  cases y <;> (cases h; refine (arm_4B _ rfl).trans ?_; simp)
theorem vmin (p : Pred) (ty : ETy) (d a : VReg) (y : VSrc) : Statement (.vmin p ty d a y) := by
  intro r h _
  cases y <;> (cases h; refine (arm_4C _ rfl).trans ?_; simp)
theorem vmax (p : Pred) (ty : ETy) (d a : VReg) (y : VSrc) : Statement (.vmax p ty d a y) := by
  intro r h _
  cases y <;> (cases h; refine (arm_4D _ rfl).trans ?_; simp)
theorem vabs (p : Pred) (ty : ETy) (sat : Bool) (d a : VReg) : Statement (.vabs p ty sat d a) := by
  intro r h _
  (cases h; refine (arm_4E _ rfl).trans ?_; simp)
theorem vcmp (p : Pred) (c : Cmp) (ty : ETy) (d : KReg) (a : VReg) (y : VSrc) : Statement (.vcmp p c ty d a y) := by
  intro r h _
  cases y <;> (cases h; refine (arm_4F _ rfl).trans ?_; simp)
theorem vsel (p : Pred) (ty : ETy) (d a : VReg) (y : VSrc) (c : KReg) : Statement (.vsel p ty d a y c) := by
  intro r h hw
  cases y <;> (cases h; refine (arm_50 _ rfl).trans ?_; first | (simp; done) | exact (noImm_vsel _ _ _ _ _ _ hw).elim)
theorem vmov (p : Pred) (ty : ETy) (d : VReg) (y : VSrc) : Statement (.vmov p ty d y) := by
  intro r h _
  cases y <;> (cases h; refine (arm_51 _ rfl).trans ?_; simp)
theorem vli (p : Pred) (ty : ETy) (d : VReg) (imm : W32) : Statement (.vli p ty d imm) := by
  intro r h _
  (cases h; refine (arm_52 _ rfl).trans ?_; simp)
theorem vpopc (p : Pred) (ty : ETy) (d a : VReg) : Statement (.vpopc p ty d a) := by
  intro r h _
  (cases h; refine (arm_53 _ rfl).trans ?_; simp)
theorem vclz (p : Pred) (ty : ETy) (d a : VReg) : Statement (.vclz p ty d a) := by
  intro r h _
  (cases h; refine (arm_54 _ rfl).trans ?_; simp)
theorem vbrev (p : Pred) (ty : ETy) (d a : VReg) : Statement (.vbrev p ty d a) := by
  intro r h _
  (cases h; refine (arm_55 _ rfl).trans ?_; simp)
theorem vbfe (p : Pred) (ty : ETy) (d a : VReg) (pos len : Byte) : Statement (.vbfe p ty d a pos len) := by
  intro r h _
  (cases h; refine (arm_56 _ rfl).trans ?_; simp)
theorem vbfi (p : Pred) (ty : ETy) (d a : VReg) (pos len : Byte) : Statement (.vbfi p ty d a pos len) := by
  intro r h _
  (cases h; refine (arm_57 _ rfl).trans ?_; simp)
theorem vdp4 (p : Pred) (su : Bool) (ty : ETy) (sat : Bool) (d a : VReg) (y : VSrc) (c : VReg) : Statement (.vdp4 p su ty sat d a y c) := by
  intro r h hw
  cases y <;> (cases h; refine (arm_58 _ rfl).trans ?_; first | (simp; done) | exact (noImm_vdp4 _ _ _ _ _ _ _ _ hw).elim)
theorem vfadd (p : Pred) (ty : ETy) (r : Rnd) (d a : VReg) (y : VSrc) : Statement (.vfadd p ty r d a y) := by
  intro r h _
  cases y <;> (cases h; refine (arm_60 _ rfl).trans ?_; simp)
theorem vfsub (p : Pred) (ty : ETy) (r : Rnd) (d a : VReg) (y : VSrc) : Statement (.vfsub p ty r d a y) := by
  intro r h _
  cases y <;> (cases h; refine (arm_61 _ rfl).trans ?_; simp)
theorem vfmul (p : Pred) (ty : ETy) (r : Rnd) (d a : VReg) (y : VSrc) : Statement (.vfmul p ty r d a y) := by
  intro r h _
  cases y <;> (cases h; refine (arm_62 _ rfl).trans ?_; simp)
theorem vfma (p : Pred) (ty : ETy) (r : Rnd) (d a : VReg) (y : VSrc) (c : VReg) : Statement (.vfma p ty r d a y c) := by
  intro r h hw
  cases y <;> (cases h; refine (arm_63 _ rfl).trans ?_; first | (simp; done) | exact (noImm_vfma _ _ _ _ _ _ _ hw).elim)
theorem vfmin (p : Pred) (ty : ETy) (d a : VReg) (y : VSrc) : Statement (.vfmin p ty d a y) := by
  intro r h _
  cases y <;> (cases h; refine (arm_64 _ rfl).trans ?_; simp)
theorem vfmax (p : Pred) (ty : ETy) (d a : VReg) (y : VSrc) : Statement (.vfmax p ty d a y) := by
  intro r h _
  cases y <;> (cases h; refine (arm_65 _ rfl).trans ?_; simp)
theorem vfcmp (p : Pred) (c : FCmp) (ty : ETy) (d : KReg) (a : VReg) (y : VSrc) : Statement (.vfcmp p c ty d a y) := by
  intro r h _
  cases y <;> (cases h; refine (arm_66 _ rfl).trans ?_; simp)
theorem vfrcp (p : Pred) (ty : ETy) (r : Rnd) (d a : VReg) : Statement (.vfrcp p ty r d a) := by
  intro r h _
  (cases h; refine (arm_67 _ rfl).trans ?_; simp)
theorem vfrsq (p : Pred) (ty : ETy) (r : Rnd) (d a : VReg) : Statement (.vfrsq p ty r d a) := by
  intro r h _
  (cases h; refine (arm_68 _ rfl).trans ?_; simp)
theorem vfsqrt (p : Pred) (ty : ETy) (r : Rnd) (d a : VReg) : Statement (.vfsqrt p ty r d a) := by
  intro r h _
  (cases h; refine (arm_69 _ rfl).trans ?_; simp)
theorem vfdiv (p : Pred) (ty : ETy) (r : Rnd) (d a : VReg) (y : VSrc) : Statement (.vfdiv p ty r d a y) := by
  intro r h _
  cases y <;> (cases h; refine (arm_6A _ rfl).trans ?_; simp)
theorem vfexp2 (p : Pred) (ty : ETy) (r : Rnd) (d a : VReg) : Statement (.vfexp2 p ty r d a) := by
  intro r h _
  (cases h; refine (arm_6B _ rfl).trans ?_; simp)
theorem vflog2 (p : Pred) (ty : ETy) (r : Rnd) (d a : VReg) : Statement (.vflog2 p ty r d a) := by
  intro r h _
  (cases h; refine (arm_6C _ rfl).trans ?_; simp)
theorem vfsin (p : Pred) (ty : ETy) (r : Rnd) (d a : VReg) : Statement (.vfsin p ty r d a) := by
  intro r h _
  (cases h; refine (arm_6D _ rfl).trans ?_; simp)
theorem vfcos (p : Pred) (ty : ETy) (r : Rnd) (d a : VReg) : Statement (.vfcos p ty r d a) := by
  intro r h _
  (cases h; refine (arm_6E _ rfl).trans ?_; simp)
theorem vftanh (p : Pred) (ty : ETy) (r : Rnd) (d a : VReg) : Statement (.vftanh p ty r d a) := by
  intro r h _
  (cases h; refine (arm_6F _ rfl).trans ?_; simp)
theorem vfcvt (p : Pred) (dst src : Byte) (part : BitVec 3) (r : Rnd) (d a : VReg) : Statement (.vfcvt p dst src part r d a) := by
  intro r h _
  (cases h; refine (arm_70 _ rfl).trans ?_; simp)
theorem vftoi (p : Pred) (u : Bool) (ty : ETy) (rm : Rm) (d a : VReg) : Statement (.vftoi p u ty rm d a) := by
  intro r h _
  (cases h; refine (arm_71 _ rfl).trans ?_; simp)
theorem vitof (p : Pred) (bf : Bool) (ty : ETy) (r : Rnd) (d a : VReg) : Statement (.vitof p bf ty r d a) := by
  intro r h _
  (cases h; refine (arm_72 _ rfl).trans ?_; simp)
theorem vfrnd (p : Pred) (ty : ETy) (rm : Rm) (d a : VReg) : Statement (.vfrnd p ty rm d a) := by
  intro r h _
  (cases h; refine (arm_73 _ rfl).trans ?_; simp)
theorem vfclass (p : Pred) (ty : ETy) (d a : VReg) : Statement (.vfclass p ty d a) := by
  intro r h _
  (cases h; refine (arm_74 _ rfl).trans ?_; simp)
theorem vfscale (p : Pred) (ty : ETy) (r : Rnd) (d a : VReg) (y : VSrc) : Statement (.vfscale p ty r d a y) := by
  intro r h _
  cases y <;> (cases h; refine (arm_75 _ rfl).trans ?_; simp)
theorem vfdot2 (p : Pred) (ty : ETy) (r : Rnd) (d a : VReg) (y : VSrc) (c : VReg) : Statement (.vfdot2 p ty r d a y c) := by
  intro r h hw
  cases y <;> (cases h; refine (arm_76 _ rfl).trans ?_; first | (simp; done) | exact (noImm_vfdot2 _ _ _ _ _ _ _ hw).elim)
theorem vshuf (p : Pred) (ty : ETy) (d a b : VReg) : Statement (.vshuf p ty d a b) := by
  intro r h _
  (cases h; refine (arm_80 _ rfl).trans ?_; simp)
theorem vrot (p : Pred) (q : Bool) (ty : ETy) (d a : VReg) (n : BitVec 5) : Statement (.vrot p q ty d a n) := by
  intro r h _
  (cases h; refine (arm_81 _ rfl).trans ?_; simp)
theorem vbcast (f : Bcast) (ty : ETy) (a : VReg) : Statement (.vbcast f ty a) := by
  intro r h _
  cases f <;> (cases h; refine (arm_82 _ rfl).trans ?_; simp)
theorem vred (p : Pred) (op : Red) (ty : ETy) (d : SReg) (a : VReg) : Statement (.vred p op ty d a) := by
  intro r h _
  (cases h; refine (arm_83 _ rfl).trans ?_; simp)
theorem vscan (p : Pred) (op : Red) (ex : Bool) (ty : ETy) (d a : VReg) : Statement (.vscan p op ex ty d a) := by
  intro r h _
  cases ex <;> (cases h; refine (arm_84 _ rfl).trans ?_; simp)
theorem vvote (p : Pred) (f : Vote) (ty : ETy) (a : VReg) : Statement (.vvote p f ty a) := by
  intro r h _
  cases f <;> (cases h; refine (arm_85 _ rfl).trans ?_; simp)
theorem vcompact (p : Pred) (ty : ETy) (d a : VReg) : Statement (.vcompact p ty d a) := by
  intro r h _
  (cases h; refine (arm_86 _ rfl).trans ?_; simp)
theorem vmatch (p : Pred) (ty : ETy) (d a : VReg) : Statement (.vmatch p ty d a) := by
  intro r h _
  (cases h; refine (arm_87 _ rfl).trans ?_; simp)
theorem elect (p : Pred) (f : Elect) : Statement (.elect p f) := by
  intro r h _
  cases f <;> (cases h; refine (arm_88 _ rfl).trans ?_; simp)
theorem ld (sz : Size) (ty : STy) (q : MemQ) (d : SReg) (m : AMode) (off : Off) : Statement (.ld sz ty q d m off) := by
  intro r h _
  cases m <;> cases off <;> (cases h; refine (arm_90 _ rfl).trans ?_; simp)
theorem st (sz : Size) (ty : STy) (q : MemQ) (d : SReg) (m : AMode) (off : Off) : Statement (.st sz ty q d m off) := by
  intro r h _
  cases m <;> cases off <;> (cases h; refine (arm_91 _ rfl).trans ?_; simp)
theorem vld (p : Pred) (sz : Size) (ty : ETy) (q : MemQ) (d : VReg) (m : AMode) (off : Off) : Statement (.vld p sz ty q d m off) := by
  intro r h _
  cases m <;> cases off <;> (cases h; refine (arm_92 _ rfl).trans ?_; simp)
theorem vst (p : Pred) (sz : Size) (ty : ETy) (q : MemQ) (d : VReg) (m : AMode) (off : Off) : Statement (.vst p sz ty q d m off) := by
  intro r h _
  cases m <;> cases off <;> (cases h; refine (arm_93 _ rfl).trans ?_; simp)
theorem vldc (p : Pred) (sz : Size) (ty : ETy) (q : MemQ) (d : VReg) (m : AMode) (off : Off) : Statement (.vldc p sz ty q d m off) := by
  intro r h _
  cases m <;> cases off <;> (cases h; refine (arm_94 _ rfl).trans ?_; simp)
theorem vstc (p : Pred) (sz : Size) (ty : ETy) (q : MemQ) (d : VReg) (m : AMode) (off : Off) : Statement (.vstc p sz ty q d m off) := by
  intro r h _
  cases m <;> cases off <;> (cases h; refine (arm_95 _ rfl).trans ?_; simp)
theorem cld (q : MemQ) (d : CReg) (m : AMode) (off : Off) : Statement (.cld q d m off) := by
  intro r h _
  cases m <;> cases off <;> (cases h; refine (arm_96 _ rfl).trans ?_; simp)
theorem cst (q : MemQ) (d : CReg) (m : AMode) (off : Off) : Statement (.cst q d m off) := by
  intro r h _
  cases m <;> cases off <;> (cases h; refine (arm_97 _ rfl).trans ?_; simp)
theorem vlds (p : Pred) (sz : Size) (ty : ETy) (d : VReg) (m : AMode) (off : Off) : Statement (.vlds p sz ty d m off) := by
  intro r h _
  cases m <;> cases off <;> (cases h; refine (arm_98 _ rfl).trans ?_; simp)
theorem vsts (p : Pred) (sz : Size) (ty : ETy) (d : VReg) (m : AMode) (off : Off) : Statement (.vsts p sz ty d m off) := by
  intro r h _
  cases m <;> cases off <;> (cases h; refine (arm_99 _ rfl).trans ?_; simp)
theorem pref (cp : Policy) (m : AMode) (off : Off) : Statement (.pref cp m off) := by
  intro r h _
  cases m <;> cases off <;> (cases h; refine (arm_9A _ rfl).trans ?_; simp)
theorem l2pf (op : L2Op) (tok : SReg) (ctx : BitVec 4) (a : CReg) (b : SReg) : Statement (.l2pf op tok ctx a b) := by
  intro r h _
  (cases h; refine (arm_9B _ rfl).trans ?_; simp)
theorem amo (op : Rmw) (ty : ETy) (q : MemQ) (d : SReg) (m : AMode) (off : Option W32) (c : SReg) : Statement (.amo op ty q d m off c) := by
  intro r h _
  cases m <;> cases off <;> (cases h; refine (arm_A0 _ rfl).trans ?_; simp)
theorem acas (ty : ETy) (q : MemQ) (d : SReg) (m : AMode) (off : Option W32) (c : SReg) : Statement (.acas ty q d m off c) := by
  intro r h _
  cases m <;> cases off <;> (cases h; refine (arm_A1 _ rfl).trans ?_; simp)
theorem vamo (p : Pred) (op : Rmw) (ty : ETy) (q : MemQ) (d : VReg) (m : AMode) (off : Option W32) (c : VReg) : Statement (.vamo p op ty q d m off c) := by
  intro r h _
  cases m <;> cases off <;> (cases h; refine (arm_A2 _ rfl).trans ?_; simp)
theorem vacas (p : Pred) (ty : ETy) (q : MemQ) (d : VReg) (m : AMode) (off : Option W32) (c : VReg) : Statement (.vacas p ty q d m off c) := by
  intro r h _
  cases m <;> cases off <;> (cases h; refine (arm_A3 _ rfl).trans ?_; simp)
theorem bop (op : Rmw) (ty : ETy) (q : MemQ) (d : SReg) (m : AMode) (off : Option W32) (c : SReg) : Statement (.bop op ty q d m off c) := by
  intro r h _
  cases m <;> cases off <;> (cases h; refine (arm_A4 _ rfl).trans ?_; simp)
theorem bcas (ty : ETy) (q : MemQ) (d : SReg) (m : AMode) (off : Option W32) (c : SReg) : Statement (.bcas ty q d m off c) := by
  intro r h _
  cases m <;> cases off <;> (cases h; refine (arm_A5 _ rfl).trans ?_; simp)
theorem vbop (p : Pred) (op : Rmw) (ty : ETy) (q : MemQ) (d : VReg) (m : AMode) (off : Option W32) (c : VReg) : Statement (.vbop p op ty q d m off c) := by
  intro r h _
  cases m <;> cases off <;> (cases h; refine (arm_A6 _ rfl).trans ?_; simp)
theorem bupd (op : Rmw) (ty : ETy) (tok : SReg) (ctx : BitVec 4) (a : CReg) (b c : SReg) : Statement (.bupd op ty tok ctx a b c) := by
  intro r h _
  (cases h; refine (arm_A7 _ rfl).trans ?_; simp)
theorem acinit (d : SReg) (a : CReg) (b c : SReg) : Statement (.acinit d a b c) := by
  intro r h _
  (cases h; refine (arm_A8 _ rfl).trans ?_; simp)
theorem adec (nw : Bool) (d : SReg) (a : CReg) (b : SReg) : Statement (.adec nw d a b) := by
  intro r h _
  (cases h; refine (arm_A9 _ rfl).trans ?_; simp)
theorem ainc (d : SReg) (a : CReg) (b : SReg) : Statement (.ainc d a b) := by
  intro r h _
  (cases h; refine (arm_AA _ rfl).trans ?_; simp)
theorem areadx (d : SReg) (a : CReg) : Statement (.areadx d a) := by
  intro r h _
  (cases h; refine (arm_AB _ rfl).trans ?_; simp)
theorem areada (d : SReg) (a : CReg) : Statement (.areada d a) := by
  intro r h _
  (cases h; refine (arm_AC _ rfl).trans ?_; simp)
theorem acret (d : SReg) (a : CReg) : Statement (.acret d a) := by
  intro r h _
  (cases h; refine (arm_AD _ rfl).trans ?_; simp)
theorem fence (u : Bool) (ord : Ord) (sc : Scope) : Statement (.fence u ord sc) := by
  intro r h _
  (cases h; refine (arm_B0 _ rfl).trans ?_; simp)
theorem waitc (c : Cmp) (ty : STy) (ord : Ord) (sc : Scope) (d : SReg) (m : AMode) (off : Option W32) (x : SReg) : Statement (.waitc c ty ord sc d m off x) := by
  intro r h _
  cases m <;> cases off <;> (cases h; refine (arm_B1 _ rfl).trans ?_; simp)
theorem poll (ty : STy) (ord : Ord) (sc : Scope) (d : SReg) (m : AMode) (off : Off) : Statement (.poll ty ord sc d m off) := by
  intro r h _
  cases m <;> cases off <;> (cases h; refine (arm_B2 _ rfl).trans ?_; simp)
theorem bari (d : SReg) (a : CReg) (b : SReg) : Statement (.bari d a b) := by
  intro r h _
  (cases h; refine (arm_B3 _ rfl).trans ?_; simp)
theorem bara (sc : Scope) (d : SReg) (a : CReg) : Statement (.bara sc d a) := by
  intro r h _
  (cases h; refine (arm_B4 _ rfl).trans ?_; simp)
theorem barw (sc : Scope) (d : SReg) (a : CReg) (b : SReg) : Statement (.barw sc d a b) := by
  intro r h _
  (cases h; refine (arm_B5 _ rfl).trans ?_; simp)
theorem baraw (sc : Scope) (d : SReg) (a : CReg) : Statement (.baraw sc d a) := by
  intro r h _
  (cases h; refine (arm_B6 _ rfl).trans ?_; simp)
theorem spawn (m : AMode) (off : Byte) : Statement (.spawn m off) := by
  intro r h _
  cases m <;> (cases h; refine (arm_C0 _ rfl).trans ?_; simp)
theorem spawnl (m : AMode) (off : Byte) : Statement (.spawnl m off) := by
  intro r h _
  cases m <;> (cases h; refine (arm_C1 _ rfl).trans ?_; simp)
theorem fnew (d : SReg) (a : CReg) : Statement (.fnew d a) := by
  intro r h _
  (cases h; refine (arm_C2 _ rfl).trans ?_; simp)
theorem ffill (f : Fill) (d : SReg) (a : CReg) : Statement (.ffill f d a) := by
  intro r h _
  cases f <;> (cases h; refine (arm_C3 _ rfl).trans ?_; simp)
theorem join (t : Bool) (d : SReg) (a : CReg) : Statement (.join t d a) := by
  intro r h _
  (cases h; refine (arm_C4 _ rfl).trans ?_; simp)
theorem joint (d : SReg) (a : CReg) : Statement (.joint d a) := by
  intro r h _
  (cases h; refine (arm_C5 _ rfl).trans ?_; simp)
theorem exit (v : Option SReg) : Statement (.exit v) := by
  intro r h _
  cases v <;> (cases h; refine (arm_C6 _ rfl).trans ?_; simp)
theorem regrp (f : Regrp) (d : SReg) (a : CReg) : Statement (.regrp f d a) := by
  intro r h _
  cases f <;> (cases h; refine (arm_C7 _ rfl).trans ?_; simp)
theorem qpop (nb : Bool) (d : SReg) (a : CReg) (b : SReg) : Statement (.qpop nb d a b) := by
  intro r h _
  (cases h; refine (arm_C8 _ rfl).trans ?_; simp)
theorem qapp (f : QApp) (d : SReg) (a : CReg) : Statement (.qapp f d a) := by
  intro r h _
  cases f <;> (cases h; refine (arm_C9 _ rfl).trans ?_; simp)
theorem waitpred (d : SReg) : Statement (.waitpred d) := by
  intro r h _
  (cases h; refine (arm_CB _ rfl).trans ?_; simp)
theorem plane (b : Bool) (p : Pred) (ty : ETy) (r : Rnd) (d : SReg) (a : VReg) (n : BitVec 2) (seg : Byte) : Statement (.plane b p ty r d a n seg) := by
  intro r h _
  (cases h; refine (arm_D0 _ rfl).trans ?_; simp)
theorem mfmt (n : BitVec 2) (a : SReg) : Statement (.mfmt n a) := by
  intro r h _
  (cases h; refine (arm_D1 _ rfl).trans ?_; simp)
theorem mma (p : Pred) (d a : VReg) (n : BitVec 2) : Statement (.mma p d a n) := by
  intro r h _
  (cases h; refine (arm_D2 _ rfl).trans ?_; simp)
theorem mzero (p : Pred) (d : VReg) : Statement (.mzero p d) := by
  intro r h _
  (cases h; refine (arm_D3 _ rfl).trans ?_; simp)
theorem cpy (st : Bool) (tok : SReg) (ctx : BitVec 4) (a b : CReg) (c : SReg) : Statement (.cpy st tok ctx a b c) := by
  intro r h _
  (cases h; refine (arm_E0 _ rfl).trans ?_; simp)
theorem cpyt (store : Bool) (st : Bool) (tok : SReg) (ctx : BitVec 4) (a b c : SReg) : Statement (.cpyt store st tok ctx a b c) := by
  intro r h _
  (cases h; refine (arm_E1 _ rfl).trans ?_; simp)
theorem stage (st : Bool) (tok : SReg) (ctx : BitVec 4) (a b c : SReg) : Statement (.stage st tok ctx a b c) := by
  intro r h _
  (cases h; refine (arm_E2 _ rfl).trans ?_; simp)
theorem drain (add : Bool) (i32 : Bool) (st : Bool) (tok : SReg) (ctx : BitVec 4) (a : VReg) (b c : SReg) : Statement (.drain add i32 st tok ctx a b c) := by
  intro r h _
  cases i32 <;> (cases h; refine (arm_E3 _ rfl).trans ?_; simp)
theorem twait (ctx : BitVec 4) (f : TwForm) : Statement (.twait ctx f) := by
  intro r h _
  cases f <;> (cases h; refine (arm_E4 _ rfl).trans ?_; simp)
theorem tread (clr : Bool) (d : SReg) (ctx : BitVec 4) : Statement (.tread clr d ctx) := by
  intro r h _
  (cases h; refine (arm_E5 _ rfl).trans ?_; simp)
theorem dpost (tok : SReg) (ctx : BitVec 4) (a b c : CReg) : Statement (.dpost tok ctx a b c) := by
  intro r h _
  (cases h; refine (arm_E6 _ rfl).trans ?_; simp)
theorem xsend (tok : SReg) (ctx : BitVec 4) (a b c : CReg) : Statement (.xsend tok ctx a b c) := by
  intro r h _
  (cases h; refine (arm_E7 _ rfl).trans ?_; simp)
theorem xwait (unbind : Bool) (d : SReg) (a : CReg) : Statement (.xwait unbind d a) := by
  intro r h _
  (cases h; refine (arm_E8 _ rfl).trans ?_; simp)
theorem xstat (d : SReg) (a : CReg) (b : SReg) : Statement (.xstat d a b) := by
  intro r h _
  (cases h; refine (arm_E9 _ rfl).trans ?_; simp)
theorem rdsr (f : RdDst) (r : Sr) : Statement (.rdsr f r) := by
  intro r h _
  cases f <;> (cases h; refine (arm_F0 _ rfl).trans ?_; simp)
theorem wrsr (r : Sr) (a : SReg) : Statement (.wrsr r a) := by
  intro r h _
  (cases h; refine (arm_F1 _ rfl).trans ?_; simp)
theorem trap (imm : Byte) : Statement (.trap imm) := by
  intro r h _
  (cases h; refine (arm_F2 _ rfl).trans ?_; simp)
theorem phint (d a b c : VReg) (smask : W32) (scrx : BitVec 16) (tobl : Bool) : Statement (.phint d a b c smask scrx tobl) := by
  intro r h _
  (cases h; refine (arm_F3 _ rfl).trans ?_; simp; exact ⟨low_append _ smask, mid_append _ scrx smask, hint_bit tobl scrx smask⟩)
theorem brk (imm : Byte) : Statement (.brk imm) := by
  intro r h _
  (cases h; refine (arm_F4 _ rfl).trans ?_; simp)
theorem invv (pkg : Bool) (a : CReg) (b : SReg) : Statement (.invv pkg a b) := by
  intro r h _
  (cases h; refine (arm_F5 _ rfl).trans ?_; simp)
theorem cflush (f : FlushScope) (a : CReg) (b : SReg) : Statement (.cflush f a b) := by
  intro r h _
  (cases h; refine (arm_F6 _ rfl).trans ?_; simp)
theorem clauseHeader (wait : BitVec 12) (seta setb : BitVec 4) (cnt : BitVec 6) (yield : Bool) : Statement (.clauseHeader wait seta setb cnt yield) := by
  intro r h; cases h
theorem countedComplete (op : Nat) : Statement (.countedComplete op) := by
  intro r h; cases h
theorem pollDelayEnd (p : PathId) : Statement (.pollDelayEnd p) := by
  intro r h; cases h
theorem shootdownComplete (sid : Nat) : Statement (.shootdownComplete sid) := by
  intro r h; cases h
theorem fillreq (core asid va pa : Nat) : Statement (.fillreq core asid va pa) := by
  intro r h; cases h
theorem fillrsp (core asid va pa : Nat) (data : BitVec 1024) (tags : BitVec 8) (ver : W32) : Statement (.fillrsp core asid va pa data tags ver) := by
  intro r h; cases h
theorem sliceStore (r : Req) : Statement (.sliceStore r) := by
  intro r h; cases h
theorem sliceLoad (r : Req) : Statement (.sliceLoad r) := by
  intro r h; cases h
theorem upd (core sid asid vl : Nat) (pa : Nat) (bytes : List Byte) (off : Nat) (tags : BitVec 8) (ver : W32) (own : Bool) : Statement (.upd core sid asid vl pa bytes off tags ver own) := by
  intro r h; cases h
theorem uack (sid core asid vb : Nat) (pa : Nat) (applied : Bool) : Statement (.uack sid core asid vb pa applied) := by
  intro r h; cases h
theorem inv (core slice iid asid : Nat) (lines : Nat × Nat) (ver : W32) : Statement (.inv core slice iid asid lines ver) := by
  intro r h; cases h
theorem iack (iid core : Nat) : Statement (.iack iid core) := by
  intro r h; cases h
theorem stack (m : StoreAnswer) : Statement (.stack m) := by
  intro r h; cases h
theorem lreq (core asid va pa : Nat) : Statement (.lreq core asid va pa) := by
  intro r h; cases h
theorem lgrant (core asid va pa : Nat) (data : BitVec 1024) (tags : BitVec 8) (ver : W32) : Statement (.lgrant core asid va pa data tags ver) := by
  intro r h; cases h
theorem lrecall (core pa : Nat) : Statement (.lrecall core pa) := by
  intro r h; cases h
theorem lret (core pa : Nat) (data : BitVec 1024) (dirty : BitVec 128) (tags : BitVec 8) : Statement (.lret core pa data dirty tags) := by
  intro r h; cases h
theorem homeAtomic (r : Req) : Statement (.homeAtomic r) := by
  intro r h; cases h
theorem bankAccess (r : Req) : Statement (.bankAccess r) := by
  intro r h; cases h
theorem bankAluOp (r : Req) : Statement (.bankAluOp r) := by
  intro r h; cases h
theorem gong (w : Waiter) : Statement (.gong w) := by
  intro r h; cases h
theorem guestFlush (die line : Nat) (data : BitVec 1024) (dirty : BitVec 128) (tags : BitVec 8) : Statement (.guestFlush die line data dirty tags) := by
  intro r h; cases h
theorem remoteAccess (r : Req) : Statement (.remoteAccess r) := by
  intro r h; cases h
theorem mmioAccess (r : Req) : Statement (.mmioAccess r) := by
  intro r h; cases h
theorem areq (core rec op : Nat) (k a : W64) (nw : Bool) : Statement (.areq core rec op k a nw) := by
  intro r h; cases h
theorem aop (core rec op : Nat) (o : AOp) : Statement (.aop core rec op o) := by
  intro r h; cases h
theorem agrant (core rec op : Nat) (status : Nat) (g value : W64) (rseq : W32) : Statement (.agrant core rec op status g value rseq) := by
  intro r h; cases h
theorem rcall (core rec : Nat) (rseq : W32) : Statement (.rcall core rec rseq) := by
  intro r h; cases h
theorem rret (core rec : Nat) (rseq : W32) (amount : W64) : Statement (.rret core rec rseq amount) := by
  intro r h; cases h
theorem aret (core rec : Nat) (amount : W64) : Statement (.aret core rec amount) := by
  intro r h; cases h
theorem drop (core rec : Nat) : Statement (.drop core rec) := by
  intro r h; cases h
theorem commandStart (core ctx n : Nat) : Statement (.commandStart core ctx n) := by
  intro r h; cases h
theorem commandComplete (core ctx n : Nat) : Statement (.commandComplete core ctx n) := by
  intro r h; cases h
theorem autoStageStart (core : Nat) : Statement (.autoStageStart core) := by
  intro r h; cases h
theorem tileLand (core eid tile : Nat) : Statement (.tileLand core eid tile) := by
  intro r h; cases h
theorem dequeRefill (core : Nat) : Statement (.dequeRefill core) := by
  intro r h; cases h
theorem dispatch (core : Nat) : Statement (.dispatch core) := by
  intro r h; cases h
theorem stealRequest (victim thief : Nat) (brr : W64) (idle : Bool) (kib : Option Nat) : Statement (.stealRequest victim thief brr idle kib) := by
  intro r h; cases h
theorem stealAnswer (thief victim : Nat) (e : Option Entry) : Statement (.stealAnswer thief victim e) := by
  intro r h; cases h
theorem packetFetch (part q : Nat) : Statement (.packetFetch part q) := by
  intro r h; cases h
theorem packetStart (part q num : Nat) : Statement (.packetStart part q num) := by
  intro r h; cases h
theorem launch (part q num : Nat) : Statement (.launch part q num) := by
  intro r h; cases h
theorem feed (part q num : Nat) : Statement (.feed part q num) := by
  intro r h; cases h
theorem feedAppend (part q num i : Nat) : Statement (.feedAppend part q num i) := by
  intro r h; cases h
theorem copy (part q num : Nat) : Statement (.copy part q num) := by
  intro r h; cases h
theorem signal (part q num : Nat) : Statement (.signal part q num) := by
  intro r h; cases h
theorem waittl (part q num : Nat) : Statement (.waittl part q num) := by
  intro r h; cases h
theorem zero (part q num : Nat) : Statement (.zero part q num) := by
  intro r h; cases h
theorem inval (part q num : Nat) : Statement (.inval part q num) := by
  intro r h; cases h
theorem qfence (part q num : Nat) : Statement (.qfence part q num) := by
  intro r h; cases h
theorem rootPlace (lid root : Nat) : Statement (.rootPlace lid root) := by
  intro r h; cases h
theorem packetComplete (part q num : Nat) (status : PStatus) (detail : W64) : Statement (.packetComplete part q num status detail) := by
  intro r h; cases h
theorem completionRecord (part q : Nat) : Statement (.completionRecord part q) := by
  intro r h; cases h
theorem faultRecord (die : Nat) (f : FaultRec) : Statement (.faultRecord die f) := by
  intro r h; cases h
theorem groupSave (g : GrpId) : Statement (.groupSave g) := by
  intro r h; cases h
theorem demand (die src : Nat) (round : Nat) (row : List Nat) (f : XDesc) : Statement (.demand die src round row f) := by
  intro r h; cases h
theorem dack (die src : Nat) (xid : W64) (round : Nat) : Statement (.dack die src xid round) := by
  intro r h; cases h
theorem layout (way : Way) (xid : W64) (round total : Nat) : Statement (.layout way xid round total) := by
  intro r h; cases h
theorem grant (way : Way) (xid : W64) (round : Nat) (g : XGrant) (stby : Bool) : Statement (.grant way xid round g stby) := by
  intro r h; cases h
theorem gack (die src : Nat) (xid : W64) (round change : Nat) : Statement (.gack die src xid round change) := by
  intro r h; cases h
theorem ring (way : Way) (xid : W64) (round change : Nat) (fin : Bool) (stby : Bool) : Statement (.ring way xid round change fin stby) := by
  intro r h; cases h
theorem seg (way : Way) (xid : W64) (round : Nat) (g : XGrant) (off : Nat) (bytes : List Byte) : Statement (.seg way xid round g off bytes) := by
  intro r h; cases h
theorem skipseg (way : Way) (xid : W64) (round : Nat) (g : XGrant) (off count : Nat) : Statement (.skipseg way xid round g off count) := by
  intro r h; cases h
theorem sack (way : Way) (xid : W64) (round : Nat) (g : XGrant) (off len : Nat) : Statement (.sack way xid round g off len) := by
  intro r h; cases h
theorem snak (way : Way) (xid : W64) (round : Nat) (g : XGrant) (off len ecode : Nat) : Statement (.snak way xid round g off len ecode) := by
  intro r h; cases h
theorem short (way : Way) (xid : W64) (round : Nat) (g : XGrant) : Statement (.short way xid round g) := by
  intro r h; cases h
theorem chdone (die src : Nat) (xid : W64) (round change : Nat) : Statement (.chdone die src xid round change) := by
  intro r h; cases h
theorem xabort (die src : Nat) (xid : W64) (round reason : Nat) (toArb : Bool) : Statement (.xabort die src xid round reason toArb) := by
  intro r h; cases h
theorem suspect (die src : Nat) (xid : W64) (round : Nat) (last : Option Nat) : Statement (.suspect die src xid round last) := by
  intro r h; cases h
theorem arbstop (way : Way) (xid : W64) (round : Nat) : Statement (.arbstop way xid round) := by
  intro r h; cases h
theorem lastq (way : Way) (xid : W64) (round : Nat) : Statement (.lastq way xid round) := by
  intro r h; cases h
theorem lasta (die src : Nat) (xid : W64) (round : Nat) (last : Option Nat) : Statement (.lasta die src xid round last) := by
  intro r h; cases h
theorem renewal (die src : Nat) (epoch : Nat) : Statement (.renewal die src epoch) := by
  intro r h; cases h
theorem claim (die src : Nat) (epoch : Nat) : Statement (.claim die src epoch) := by
  intro r h; cases h
theorem guestFlushAck (die line : Nat) (dirty : BitVec 128) : Statement (.guestFlushAck die line dirty) := by
  intro r h; cases h
theorem renewalAck (die src : Nat) (epoch : Nat) : Statement (.renewalAck die src epoch) := by
  intro r h; cases h
theorem claimAcceptance (die src : Nat) (epoch : Nat) : Statement (.claimAcceptance die src epoch) := by
  intro r h; cases h
theorem groupRestore (core die rec : Nat) : Statement (.groupRestore core die rec) := by
  intro r h; cases h
theorem zeroEngineDone (pte lvl : Nat) : Statement (.zeroEngineDone pte lvl) := by
  intro r h; cases h
theorem pathPromotion (p : PathId) : Statement (.pathPromotion p) := by
  intro r h; cases h
theorem pageWalk (die : Nat) (asid : Nat) (va : Nat) (acc : Acc) : Statement (.pageWalk die asid va acc) := by
  intro r h; cases h
theorem partitionReassign (die : Nat) (part : Nat) : Statement (.partitionReassign die part) := by
  intro r h; cases h
theorem directoryMerge (die slice base k : Nat) : Statement (.directoryMerge die slice base k) := by
  intro r h; cases h
theorem hostAccess (pa len : Nat) (write : Option (List Byte)) : Statement (.hostAccess pa len write) := by
  intro r h; cases h
theorem l2ctlWrite (die : Nat) (v : W64) : Statement (.l2ctlWrite die v) := by
  intro r h; cases h
theorem resWrite (die n : Nat) (hi : Bool) (v : W64) : Statement (.resWrite die n hi v) := by
  intro r h; cases h
theorem registerWrite (addr : Nat) (v : W64) : Statement (.registerWrite addr v) := by
  intro r h; cases h
theorem forfeit (core : Nat) : Statement (.forfeit core) := by
  intro r h; cases h
theorem stealAttempt (core : Nat) : Statement (.stealAttempt core) := by
  intro r h; cases h
theorem regrpTimeout (pa : Nat) : Statement (.regrpTimeout pa) := by
  intro r h; cases h
theorem earlyStart (part q num : Nat) : Statement (.earlyStart part q num) := by
  intro r h; cases h
theorem doorbell (part q : Nat) (v : W32) : Statement (.doorbell part q v) := by
  intro r h; cases h
theorem queueEnable (part q : Nat) : Statement (.queueEnable part q) := by
  intro r h; cases h
theorem queueResume (part q : Nat) (v : W64) : Statement (.queueResume part q v) := by
  intro r h; cases h
theorem cplack (part q : Nat) (v : W32) : Statement (.cplack part q v) := by
  intro r h; cases h
theorem swapOut (core : Nat) : Statement (.swapOut core) := by
  intro r h; cases h
theorem pgack (die : Nat) (v : W64) : Statement (.pgack die v) := by
  intro r h; cases h
theorem pagerSettle (die : Nat) (fseq : Nat) (r : Settle) : Statement (.pagerSettle die fseq r) := by
  intro r h; cases h
theorem preemptRequest (g : GrpId) : Statement (.preemptRequest g) := by
  intro r h; cases h
theorem preemptDeadline (g : GrpId) : Statement (.preemptDeadline g) := by
  intro r h; cases h
theorem partitionHalt (part : Nat) : Statement (.partitionHalt part) := by
  intro r h; cases h
theorem partitionSwapIn (part : Nat) : Statement (.partitionSwapIn part) := by
  intro r h; cases h
theorem watchdogExpiry (part : Nat) : Statement (.watchdogExpiry part) := by
  intro r h; cases h
theorem evack (part : Nat) (v : W64) : Statement (.evack part v) := by
  intro r h; cases h
theorem debugStep (p : PathId) (what : DebugAct) : Statement (.debugStep p what) := by
  intro r h; cases h
theorem debugStepBack (p : PathId) : Statement (.debugStepBack p) := by
  intro r h; cases h
theorem posttExpiry (die : Nat) (xid : W64) (round : Nat) : Statement (.posttExpiry die xid round) := by
  intro r h; cases h
theorem ringtExpiry (die : Nat) (xid : W64) (round : Nat) : Statement (.ringtExpiry die xid round) := by
  intro r h; cases h
theorem standbyRingtExpiry (die : Nat) (xid : W64) (round : Nat) : Statement (.standbyRingtExpiry die xid round) := by
  intro r h; cases h
theorem arblostExpiry (die : Nat) (xid : W64) (round : Nat) : Statement (.arblostExpiry die xid round) := by
  intro r h; cases h
theorem flitCrcFail (u : ErrUnit) (spare : Bool) : Statement (.flitCrcFail u spare) := by
  intro r h; cases h
theorem linkFailure (link : Nat) : Statement (.linkFailure link) := by
  intro r h; cases h
theorem remoteUnreachable (r : Req) : Statement (.remoteUnreachable r) := by
  intro r h; cases h
theorem moduleFailure (m : Nat) : Statement (.moduleFailure m) := by
  intro r h; cases h
theorem coreFailure (core : Nat) (wholeDie : Bool) : Statement (.coreFailure core wholeDie) := by
  intro r h; cases h
theorem imageLoad (part asid base : Nat) (room : LoadRoom) (img : Image) : Statement (.imageLoad part asid base room img) := by
  intro r h; cases h
theorem quickEyeCheck (eyes : List (Nat × Nat)) : Statement (.quickEyeCheck eyes) := by
  intro r h; cases h
theorem fullTraining (results : List (Nat × Nat)) : Statement (.fullTraining results) := by
  intro r h; cases h
theorem partitionBuild (parts : List (Nat × Nat)) : Statement (.partitionBuild parts) := by
  intro r h; cases h
theorem leaseRenewal (die : Nat) : Statement (.leaseRenewal die) := by
  intro r h; cases h
theorem leaderTermEnd (die : Nat) : Statement (.leaderTermEnd die) := by
  intro r h; cases h
theorem leaseLapse (die : Nat) : Statement (.leaseLapse die) := by
  intro r h; cases h
theorem soleLeader (die : Nat) : Statement (.soleLeader die) := by
  intro r h; cases h
theorem correctedError (u : ErrUnit) (spare : Bool) : Statement (.correctedError u spare) := by
  intro r h; cases h
theorem errorWindowEnd (die : Nat) : Statement (.errorWindowEnd die) := by
  intro r h; cases h
theorem uncorrectedError (u : ErrUnit) (spare : Bool) (granules : List Nat) : Statement (.uncorrectedError u spare granules) := by
  intro r h; cases h
theorem temperatureSwing (unit : Nat) (c : Int) : Statement (.temperatureSwing unit c) := by
  intro r h; cases h
theorem wearRecordWrite (unit : Nat) : Statement (.wearRecordWrite unit) := by
  intro r h; cases h
theorem readWearRecord (unit : Nat) : Statement (.readWearRecord unit) := by
  intro r h; cases h
theorem readAttestationReport (part : Nat) (nonce : BitVec 256) : Statement (.readAttestationReport part nonce) := by
  intro r h; cases h
theorem recoveryImageTransfer (image sig : List Byte) : Statement (.recoveryImageTransfer image sig) := by
  intro r h; cases h
theorem l1Eviction (core asid va : Nat) : Statement (.l1Eviction core asid va) := by
  intro r h; cases h
theorem h95Hour (unit : Nat) : Statement (.h95Hour unit) := by
  intro r h; cases h
theorem dynamicAddress (addr : BitVec 7) : Statement (.dynamicAddress addr) := by
  intro r h; cases h
theorem sidebandNack (code : Byte) : Statement (.sidebandNack code) := by
  intro r h; cases h
theorem powerOn : Statement (.powerOn) := by
  intro r h; cases h
theorem powerDownNotice : Statement (.powerDownNotice) := by
  intro r h; cases h
theorem readBootStage : Statement (.readBootStage) := by
  intro r h; cases h
theorem readTemperatures : Statement (.readTemperatures) := by
  intro r h; cases h
theorem powerLoss : Statement (.powerLoss) := by
  intro r h; cases h
theorem nop : Statement (.nop) := by
  intro r h _
  cases h; rfl
theorem reconv : Statement (.reconv) := by
  intro r h _
  cases h; rfl
theorem yield : Statement (.yield) := by
  intro r h _
  cases h; rfl
theorem lhint : Statement (.lhint) := by
  intro r h _
  cases h; rfl
theorem udf : Statement (.udf) := by
  intro r h _
  cases h; rfl

end Sys2Proof.Laws.Encodable
end

