-- ==== Sys2Proof/Laws/Scalar.lean ====
section
/-! SUPPORT. Scalar operands and results as integers: what an operand's number is modulo 2^w, and that a result depends on
its integer modulo 2^w alone (10 R259-R263). -/

namespace Sys2Proof.Machine

theorem styWidth_pos (ty : STy) : 0 < styWidth ty := by cases ty <;> decide

theorem wrapTo_lt (w : Nat) (z : Int) : wrapTo w z < 2 ^ w := by
  unfold wrapTo
  have h : (0 : Int) < ((2 ^ w : Nat) : Int) := by positivity
  have h1 := Int.emod_lt_of_pos z h
  have h2 := Int.emod_nonneg z (Int.ne_of_gt h)
  omega

/-- A wrapped integer agrees with the integer modulo 2^w. -/
theorem wrapTo_cast (w : Nat) (z : Int) : ((wrapTo w z : Nat) : Int) = z % ((2 ^ w : Nat) : Int) := by
  unfold wrapTo
  exact Int.toNat_of_nonneg (Int.emod_nonneg z (by positivity))

theorem wrapTo_congr (w : Nat) {x z : Int} (h : x % ((2 ^ w : Nat) : Int) = z % ((2 ^ w : Nat) : Int)) :
    wrapTo w x = wrapTo w z := by unfold wrapTo; rw [h]

theorem wrapTo_natCast (w x : Nat) (h : x < 2 ^ w) : wrapTo w (x : Int) = x := by
  unfold wrapTo; rw [Int.emod_eq_of_lt (by omega) (by exact_mod_cast h)]; rfl

/-- A number and the integer that its type reads are the same modulo 2^w. -/
theorem signedOf_emod (w x : Nat) : signedOf w x % ((2 ^ w : Nat) : Int) = (x : Int) % ((2 ^ w : Nat) : Int) := by
  unfold signedOf
  split <;> simp

theorem valueOf_emod (ty : STy) (x : Nat) :
    valueOf ty x % ((2 ^ styWidth ty : Nat) : Int) = (x : Int) % ((2 ^ styWidth ty : Nat) : Int) := by
  unfold valueOf; split
  · exact signedOf_emod _ _
  · rfl

theorem sAdd_eq (ty : STy) (x y : Nat) : sAdd ty x y = wrapTo (styWidth ty) (valueOf ty x + valueOf ty y) := by
  rw [wrapTo_congr _ (z := ((x + y : Nat) : Int))]
  · unfold sAdd wrapTo; norm_cast
  · rw [Nat.cast_add, Int.add_emod, valueOf_emod, valueOf_emod, ← Int.add_emod]

theorem sSub_eq (ty : STy) (x y : Nat) (hy : y < 2 ^ styWidth ty) :
    sSub ty x y = wrapTo (styWidth ty) (valueOf ty x - valueOf ty y) := by
  rw [wrapTo_congr _ (z := ((x + 2 ^ styWidth ty - y : Nat) : Int))]
  · unfold sSub wrapTo; norm_cast
  · rw [Int.sub_emod, valueOf_emod, valueOf_emod, ← Int.sub_emod, Int.ofNat_sub (by omega)]
    push_cast
    rw [show (x : Int) + 2 ^ styWidth ty - y = (x - y) + 2 ^ styWidth ty by ring, Int.add_emod_right]

theorem sMul_eq (ty : STy) (x y : Nat) : sMul ty x y = wrapTo (styWidth ty) (valueOf ty x * valueOf ty y) := by
  rw [wrapTo_congr _ (z := ((x * y : Nat) : Int))]
  · unfold sMul wrapTo; norm_cast
  · rw [Nat.cast_mul, Int.mul_emod, valueOf_emod, valueOf_emod, ← Int.mul_emod]

theorem State.sval_lt (s : State) (ty : STy) (r : SReg) : s.sval ty r < 2 ^ styWidth ty :=
  Nat.mod_lt _ (by positivity)

theorem State.ssrc_lt (s : State) (ty : STy) (y : SSrc) : s.ssrc ty y < 2 ^ styWidth ty := by
  cases y <;> exact Nat.mod_lt _ (by positivity)

/-- A result written to a scalar register, with the frame. -/
theorem State.putS_effect {s : State} (h : s.issuing) (ty : STy) (d : SReg) (v n : Nat) :
    (s.putS ty d v n).g.sreg d = extendS ty v ∧ s.Frame (s.putS ty d v n) { s := [d] } ∧
      (s.putS ty d v n).p = s.p.past n := State.ws_retire h d _ n

end Sys2Proof.Machine
end

