-- ==== Sys2Proof/Laws/Trap.lean ====
section
/-! SUPPORT. What taking a trap does, said once: which of its outcomes it has, and what entering the handler writes
(16 R391, R392, R394, R404). -/

namespace Sys2Proof.Machine

variable (s : State) (gid : Nat) (b : Bool) (code : Nat) (faddr : W64) (unf : Mask)

/-! ### The outcomes of a trap -/

theorem State.trapOn_debugged (h : (s.grp gid).debug = true) : s.trapOn gid b code faddr unf = s.debugHalt gid code faddr b unf := by
  unfold State.trapOn
  rw [if_pos h]

theorem State.trapOn_twice (hd : (s.grp gid).debug = false) (h : ((s.grp gid).path b).frame.isSome = true) :
    s.trapOn gid b code faddr unf = s.escalate gid code faddr := by
  unfold State.trapOn
  dsimp only
  rw [if_neg (by rw [hd]; exact Bool.false_ne_true), if_pos h]

theorem State.trapOn_waits (hd : (s.grp gid).debug = false) (h : ((s.grp gid).path b).frame = none)
    (h' : ((s.grp gid).path (!b)).frame.isSome = true) : s.trapOn gid b code faddr unf =
      if Code.resumes code then s.modPath gid b fun p => { p with held := some ⟨code, faddr⟩ } else s := by
  unfold State.trapOn
  dsimp only
  rw [if_neg (by rw [hd]; exact Bool.false_ne_true), if_neg (by rw [h]; exact Bool.false_ne_true), if_pos h']

theorem State.trapOn_no_handler (hd : (s.grp gid).debug = false) (h : ((s.grp gid).path b).frame = none)
    (h' : ((s.grp gid).path (!b)).frame = none) (hn : (s.launchOf (s.grp gid)).bind (·.handler) = none) :
    s.trapOn gid b code faddr unf = s.escalate gid code faddr := by
  unfold State.trapOn
  dsimp only
  rw [if_neg (by rw [hd]; exact Bool.false_ne_true), if_neg (by rw [h]; exact Bool.false_ne_true),
    if_neg (by rw [h']; exact Bool.false_ne_true), hn]

theorem State.trapOn_handler {a : VA} (hd : (s.grp gid).debug = false) (h : ((s.grp gid).path b).frame = none)
    (h' : ((s.grp gid).path (!b)).frame = none) (hn : (s.launchOf (s.grp gid)).bind (·.handler) = some a) :
    s.trapOn gid b code faddr unf = s.enterHandler gid b a code faddr unf := by
  unfold State.trapOn
  dsimp only
  rw [if_neg (by rw [hd]; exact Bool.false_ne_true), if_neg (by rw [h]; exact Bool.false_ne_true),
    if_neg (by rw [h']; exact Bool.false_ne_true), hn]

/-! ### Entering the handler -/

/-- The group that enters its handler: four trap registers, and one path. -/
def Group.trapped (g : Group) (b : Bool) (h : VA) (code : Nat) (faddr : W64) (unf : Mask) : Group :=
  Group.setPath
    { g with
      cause := BitVec.ofNat 8 code, faddr := faddr, epc := (g.path b).pc.zeroExtend 64, emask := if Code.resumes code then 0 else unf } b
    { g.path b with
      frame := some ⟨(g.path b).left, (g.path b).seta, (g.path b).setb, (g.path b).loops, (g.path b).mask, (g.path b).pc.zeroExtend 64,
        !Code.resumes code, (g.path b).phase, (g.path b).wrote⟩
      phase := none, wrote := [], loops := [], left := 0, pc := h, wait := .none, replay := none, promoted := none }

theorem State.enterHandler_eq {g : Group} (a : VA) (h : Store.find s.groups gid = some g) :
    s.enterHandler gid b a code faddr unf = s.setGrp gid (g.trapped b a code faddr unf) := by
  unfold State.enterHandler State.modGrp
  rw [h]
  rfl

theorem State.enterHandler_grp {g : Group} (a : VA) (h : Store.find s.groups gid = some g) :
    (s.enterHandler gid b a code faddr unf).grp gid = g.trapped b a code faddr unf := by
  rw [s.enterHandler_eq gid b code faddr unf a h]
  simp [State.grp, State.setGrp]

/-- Entering the handler changes one group and nothing else. -/
theorem State.enterHandler_outside {g : Group} (a : VA) (h : Store.find s.groups gid = some g) :
    s.sameOutside (s.enterHandler gid b a code faddr unf) := by
  rw [s.enterHandler_eq gid b code faddr unf a h]
  rfl

theorem State.enterHandler_others {g : Group} (a : VA) (h : Store.find s.groups gid = some g) {k : Nat} (hk : k ≠ gid) :
    Store.find (s.enterHandler gid b a code faddr unf).groups k = Store.find s.groups k := by
  rw [s.enterHandler_eq gid b code faddr unf a h]
  exact Store.find_put_ne _ _ hk

variable (g : Group) (a : VA)

@[simp] theorem Group.trapped_cause : (g.trapped b a code faddr unf).cause = BitVec.ofNat 8 code := by cases b <;> rfl
@[simp] theorem Group.trapped_faddr : (g.trapped b a code faddr unf).faddr = faddr := by cases b <;> rfl
@[simp] theorem Group.trapped_epc : (g.trapped b a code faddr unf).epc = (g.path b).pc.zeroExtend 64 := by cases b <;> rfl
@[simp] theorem Group.trapped_emask : (g.trapped b a code faddr unf).emask = if Code.resumes code then 0 else unf := by cases b <;> rfl
@[simp] theorem Group.trapped_fpcsr : (g.trapped b a code faddr unf).fpcsr = g.fpcsr := by cases b <;> rfl
@[simp] theorem Group.trapped_sregs : (g.trapped b a code faddr unf).sregs = g.sregs := by cases b <;> rfl
@[simp] theorem Group.trapped_vregs : (g.trapped b a code faddr unf).vregs = g.vregs := by cases b <;> rfl
@[simp] theorem Group.trapped_cregs : (g.trapped b a code faddr unf).cregs = g.cregs := by cases b <;> rfl
@[simp] theorem Group.trapped_kregs : (g.trapped b a code faddr unf).kregs = g.kregs := by cases b <;> rfl
@[simp] theorem Group.trapped_other : (g.trapped b a code faddr unf).path (!b) = g.path (!b) := by cases b <;> rfl
@[simp] theorem Group.trapped_pc : ((g.trapped b a code faddr unf).path b).pc = a := by cases b <;> rfl
@[simp] theorem Group.trapped_mask : ((g.trapped b a code faddr unf).path b).mask = (g.path b).mask := by cases b <;> rfl
@[simp] theorem Group.trapped_stack : ((g.trapped b a code faddr unf).path b).stack = (g.path b).stack := by cases b <;> rfl
@[simp] theorem Group.trapped_wait : ((g.trapped b a code faddr unf).path b).wait = .none := by cases b <;> rfl

end Sys2Proof.Machine
end

