-- ==== Sys2Proof/Laws/Words.lean ====
section
/-! SUPPORT. A word gives back the fields it was made of (09 Table 9.2). -/

namespace Sys2Proof

theorem extract_high {v w : Nat} (x : BitVec v) (y : BitVec w) (k n : Nat) (h : w ≤ k) :
    (x ++ y).extractLsb' k n = x.extractLsb' (k - w) n := by
  apply BitVec.eq_of_getLsbD_eq
  intro i hi
  simp only [BitVec.getLsbD_extractLsb', hi, decide_true, Bool.true_and, BitVec.getLsbD_append]
  rw [if_neg (by omega)]
  congr 1; omega

theorem extract_low {v w : Nat} (x : BitVec v) (y : BitVec w) (k n : Nat) (h : k + n ≤ w) :
    (x ++ y).extractLsb' k n = y.extractLsb' k n := by
  apply BitVec.eq_of_getLsbD_eq
  intro i hi
  simp only [BitVec.getLsbD_extractLsb', hi, decide_true, Bool.true_and, BitVec.getLsbD_append]
  rw [if_pos (by omega)]

theorem extract_all {w : Nat} (x : BitVec w) : x.extractLsb' 0 w = x := by
  apply BitVec.eq_of_getLsbD_eq
  intro i hi
  simp [hi]

/-! ### Each field of a word -/

variable (r : Raw)

theorem Raw.word_len : r.word.extractLsb' 0 2 = r.len.code := by
  unfold Raw.word; rw [extract_low _ _ _ _ (by decide)]; exact extract_all _
theorem Raw.word_op : r.word.extractLsb' 2 8 = r.op := by
  unfold Raw.word; repeat rw [extract_high _ _ _ _ (by decide)]
  rw [extract_low _ _ _ _ (by decide)]; exact extract_all _
theorem Raw.word_fn : r.word.extractLsb' 10 4 = r.fn := by
  unfold Raw.word; repeat rw [extract_high _ _ _ _ (by decide)]
  rw [extract_low _ _ _ _ (by decide)]; exact extract_all _
theorem Raw.word_d : r.word.extractLsb' 14 8 = r.d := by
  unfold Raw.word; repeat rw [extract_high _ _ _ _ (by decide)]
  rw [extract_low _ _ _ _ (by decide)]; exact extract_all _
theorem Raw.word_a : r.word.extractLsb' 22 8 = r.a := by
  unfold Raw.word; repeat rw [extract_high _ _ _ _ (by decide)]
  rw [extract_low _ _ _ _ (by decide)]; exact extract_all _
theorem Raw.word_b : r.word.extractLsb' 30 8 = r.b := by
  unfold Raw.word; repeat rw [extract_high _ _ _ _ (by decide)]
  rw [extract_low _ _ _ _ (by decide)]; exact extract_all _
theorem Raw.word_c : r.word.extractLsb' 38 8 = r.c := by
  unfold Raw.word; repeat rw [extract_high _ _ _ _ (by decide)]
  rw [extract_low _ _ _ _ (by decide)]; exact extract_all _
theorem Raw.word_k : r.word.extractLsb' 46 3 = r.k := by
  unfold Raw.word; repeat rw [extract_high _ _ _ _ (by decide)]
  rw [extract_low _ _ _ _ (by decide)]; exact extract_all _
theorem Raw.word_ty : r.word.extractLsb' 50 4 = r.ty := by
  unfold Raw.word; repeat rw [extract_high _ _ _ _ (by decide)]
  rw [extract_low _ _ _ _ (by decide)]; exact extract_all _
theorem Raw.word_cp : r.word.extractLsb' 54 2 = r.cp := by
  unfold Raw.word; repeat rw [extract_high _ _ _ _ (by decide)]
  rw [extract_low _ _ _ _ (by decide)]; exact extract_all _
theorem Raw.word_sc : r.word.extractLsb' 56 3 = r.sc := by
  unfold Raw.word; repeat rw [extract_high _ _ _ _ (by decide)]
  rw [extract_low _ _ _ _ (by decide)]; exact extract_all _
theorem Raw.word_ordq : r.word.extractLsb' 59 2 = r.ordq := by
  unfold Raw.word; repeat rw [extract_high _ _ _ _ (by decide)]
  rw [extract_low _ _ _ _ (by decide)]; exact extract_all _
theorem Raw.word_mod : r.word.extractLsb' 61 3 = r.mod := by
  unfold Raw.word; repeat rw [extract_high _ _ _ _ (by decide)]
  rw [extract_low _ _ _ _ (by decide)]; exact extract_all _
theorem Raw.word_kn : r.word.getLsbD 49 = r.kn := by
  have h : r.word.extractLsb' 49 1 = BitVec.ofBool r.kn := by
    unfold Raw.word; repeat rw [extract_high _ _ _ _ (by decide)]
    rw [extract_low _ _ _ _ (by decide)]; exact extract_all _
  have h' := congrArg (BitVec.getLsbD · 0) h
  simpa using h'
theorem Raw.word_ext : r.word.extractLsb' 64 64 = r.ext := by
  unfold Raw.word; repeat rw [extract_high _ _ _ _ (by decide)]
  exact extract_all _

/-- The fields of the word of `r` are `r`. -/
theorem Raw.ofWord_word (h : r.len = .l64 → r.ext = 0) : Raw.ofWord r.word = r := by
  simp only [Raw.ofWord, r.word_len, r.word_op, r.word_fn, r.word_d, r.word_a, r.word_b, r.word_c, r.word_k, r.word_kn,
    r.word_ty, r.word_cp, r.word_sc, r.word_ordq, r.word_mod, r.word_ext]
  obtain ⟨len⟩ := r
  cases len <;> simp_all [Len.code]

end Sys2Proof
end

