-- ==== Sys2Proof/Tests/Slice0.lean ====
section
/-! SUPPORT. The project's own tests: ill-formed terms that WellFormed refuses, words written out from the spec's tables,
small steps with results taken from the manual, and for every statement a concrete state that meets its hypotheses. -/

namespace Sys2Proof.Tests

open Sys2Proof.Machine Sys2Proof.Claim

-- One test after the other: side by side, each waits on a thread with a stack of its own.
set_option Elab.async false

/-! ### Small states -/

/-- A capability over [0x1000, 0x2000) with every permission. -/
def capT : Cap := Cap.make 0x2000 0x1000 0 127 0x1000 true

/-- The same, untagged. -/
def capU : Cap := { capT with tag := false }

/-- A kernel with one entry, whose handler is that entry; its code starts at 0x8000. -/
def kernel : Launch :=
  { part := 0, queue := 0, num := 1, asid := 1, code := Cap.make 0x9000 0x8000 0 0x7F 0x8000 true, brr := 0xAAAA555500000000, es := 0
    hent := 0, entries := [⟨0, 64, 32, 1, 256, 4096⟩], tsrt := 0, tsrs := [], args := [(0, 0)], homes := [none], ent := 0
    pri := 1, ha := 0, early := false, pred := none, unplaced := [], tasks := 1 }

/-- A path at 0x8020 with all its lanes. -/
def path : Path := { live := true, pc := 0x8020, mask := 0xFFFFFFFF, left := 4 }

/-- A group in slot 0 of core 0: s1 holds 5, s2 all ones, s3 zero and s4 the least number of 64 bits; c1 is tagged and c2 is not;
k1 names lane 0. -/
def group : Group :=
  { Group.blank with
    place := .res 0 0, launch := 7, asid := 1, v := 64, s := 32, scrSize := 256, tobCnt := 2, eid := 3
    sregs := [(1, 5), (2, 0xFFFFFFFFFFFFFFFF), (4, 0x8000000000000000), (5, 0x1000), (6, 0x8020)]
    cregs := [(1, capT), (2, capU)], kregs := [(1, 1)], pa := path }

/-- One group that runs. -/
def one : State :=
  { State.reset with
    groups := [(1, group)], cur := ⟨1, false⟩, launches := [(7, kernel)], parts := [(0, { dies := [0] })], fresh := 20 }

/-- The same with another group. -/
def with_ (f : Group → Group) : State := { one with groups := [(1, f group)] }

/-- The same with another path. -/
def withPath (f : Path → Path) : State := with_ fun g => { g with pa := f g.pa }

/-- Both paths of the group live. -/
def both : State := with_ fun g => { g with pb := { path with pc := 0x9000 } }

/-- An operation of the issuing path. -/
def inFlight : OpRec :=
  { core := 0, gid := 1, b := false, ia := 0x8000, chA := true, chB := false, flag := some 0, stores := true, reads := true, uo := false
    lanes := 0xFFFFFFFF, out := 1, fin := .none }

/-- A leaf of 32 KiB: present, writable, executable, with atomics and tags, touched and written, of memory type `mt`, at frame
number `f` (01 Table 1.5); RHI names no replica. -/
def leaf (mt f : Nat) : Nat := 3 + mt * 4 + 0x1F80 + f * 2 ^ 16 + 0xFFFF * 2 ^ 68

/-- Frames: HBM at 0x100000, the common memory of die 0, and HBM of package 1. -/
def hbm : Nat := leaf 0 0x20
def cmem : Nat := leaf 1 0x2000000
def remote : Nat := leaf 3 (2 ^ 28 + 0x20)

/-- The context of address space 1 stands at 0x3000: partition 0, with a table at 0x4000 (01 R34). -/
def withSpace (s : State) : State :=
  { s with asids := [(1, 0x3000)], mem := [(0x3000, 0x01), (0x3001, 0x40), (0x302A, 0x01)] }

/-- Another state, in which VA 0 to 0x7FFF of address space 1 translates by a leaf that slice 1 of die 0 has cached. -/
def mapIn (s : State) (pte : Nat) : State :=
  { withSpace s with dies := [(0, { tcache := [⟨1, 1, 0, 0, 0x5000, BitVec.ofNat 128 pte⟩] })] }

/-! ### Terms that WellFormed refuses: one or more for every check -/

def p0 : Pred := ⟨0, false⟩
/-- K = 0 with KN = 1 (09 R219). -/
def pBad : Pred := ⟨0, true⟩
def rne : Rnd := ⟨.rne, false⟩
def acqGrp : MemQ := ⟨.acq, .grp, .ca⟩
def relGrp : MemQ := ⟨.rel, .grp, .ca⟩
def plainPkg : MemQ := ⟨.plain, .pkg, .ca⟩
def plainCa : MemQ := ⟨.plain, .grp, .ca⟩

/-- Branch offsets that are no multiples of 8, a predicate, a loop body below its least size (10 R248, R257; 09 R219). -/
theorem test_wf_control : ∀ i ∈ [Instr.br 4, .brc (.any pBad) 8, .brc (.all pBad) 8, .brc (.any p0) 4, .brc (.all p0) 4, .brc (.nz 1) 4, .brc (.z 1) 4,
    .brd pBad 8 8, .brd p0 4 8, .brd p0 8 4, .call 1 4, .loop 1 16, .loop 1 0xFFFFFFF0, .loop 1 28], i.wf = false := by decide +kernel

/-- 10 R246, R260, R262: SSEL and SLI need 64 bits; the bit field lies within the width. -/
theorem test_wf_scalar : ∀ i ∈ [Instr.ssel .i32 1 2 3 4, .ssel .n32 1 2 3 4, .sli .i32 1 0, .sbfe .i32 1 2 32 1, .sbfe .i64 1 2 0 0,
    .sbfe .n32 1 2 16 17, .sbfi .i64 1 2 64 1, .sbfi .n32 1 2 0 33], i.wf = false := by decide +kernel

/-- k0 is no destination (10 R271). -/
theorem test_wf_masks : ∀ i ∈ [Instr.kbool 0 1 2 8, .kset 0 1, .kshf .l 0 1 2, .kquad true 0 1], i.wf = false := by decide +kernel

/-- Types outside a row's set, odd pairs, forms that a row has not (11 Table 11.2). -/
theorem test_wf_vector : ∀ i ∈ [Instr.vadd pBad .i32 false 1 2 (.reg 3), .vadd p0 .f32 false 1 2 (.reg 3), .vsub p0 .b32 false 1 2 (.reg 3),
    .vmul p0 .i64 false 1 2 (.reg 4), .vmul p0 .i64 false 2 1 (.reg 4), .vmul p0 .i64 false 2 4 (.reg 3), .vmulh p0 .f16 1 2 (.reg 3),
    .vmad p0 .i32 false 1 2 (.imm 3) 4, .vmad p0 .i64 false 2 4 (.reg 6) 7, .vand p0 .f32 1 2 (.reg 3), .vor p0 .f64 2 4 (.reg 6),
    .vxor p0 .bf16 1 2 (.reg 3), .vnot p0 .f32 1 2, .vshl p0 .f32 1 2 (.reg 3), .vshr p0 .f32 1 2 (.reg 3), .vsra p0 .b32 1 2 (.reg 3),
    .vmin p0 .f32 1 2 (.reg 3), .vmax p0 .b32 1 2 (.reg 3), .vabs p0 .n32 false 1 2, .vabs p0 .n8x4 false 1 2, .vcmp p0 .eq .i32 0 1 (.reg 2),
    .vcmp p0 .eq .i16x2 1 1 (.reg 2), .vcmp p0 .eq .i64 1 1 (.reg 2), .vsel p0 .i32 1 2 (.imm 3) 4, .vsel p0 .f32 1 2 (.reg 3) 4,
    .vmov p0 .f32 1 (.reg 2), .vmov p0 .n64 1 (.reg 2), .vli p0 .f32 1 5, .vli p0 .i64 1 5, .vpopc p0 .f32 1 2, .vclz p0 .f32 1 2, .vbrev p0 .f32 1 2,
    .vbfe p0 .i16x2 1 2 0 4, .vbfe p0 .i32 1 2 31 2, .vbfi p0 .n64 2 4 64 1, .vbfi p0 .i8x4 1 2 0 4, .vdp4 p0 false .i16x2 false 1 2 (.reg 3) 4,
    .vdp4 p0 true .n8x4 false 1 2 (.reg 3) 4, .vdp4 p0 false .i8x4 false 1 2 (.imm 3) 4], i.wf = false := by decide +kernel

/-- 11 Table 11.3, R287, R292. -/
theorem test_wf_float : ∀ i ∈ [Instr.vfadd p0 .i32 rne 1 2 (.reg 3), .vfadd p0 .f32 rne 1 2 (.imm 3), .vfsub p0 .b32 rne 1 2 (.reg 3),
    .vfmul p0 .f64 rne 1 2 (.reg 4), .vfma p0 .f64 rne 2 4 (.reg 6) 7, .vfmin p0 .i32 1 2 (.reg 3), .vfmax p0 .f32 1 2 (.imm 3),
    .vfcmp p0 .uo .f16x2 1 1 (.reg 2), .vfcmp p0 .uo .f32 0 1 (.reg 2), .vfcmp p0 .uo .f32 1 1 (.imm 2), .vfcmp p0 .uo .f64 1 1 (.reg 2),
    .vfrcp p0 .i32 rne 1 2, .vfrsq p0 .b32 rne 1 2, .vfsqrt p0 .i32 rne 1 2, .vfdiv p0 .i32 rne 1 2 (.reg 3), .vfexp2 p0 .f64 rne 2 4,
    .vflog2 p0 .f64 rne 2 4, .vfsin p0 .f64 rne 2 4, .vfcos p0 .f64 rne 2 4, .vftanh p0 .f64 rne 2 4, .vfcvt p0 0x05 0x02 0 rne 1 2,
    .vfcvt p0 0x02 0x20 0 rne 1 2, .vfcvt p0 0x24 0x02 4 rne 1 2, .vfcvt p0 0x02 0x01 0 rne 1 3, .vfcvt p0 0x01 0x02 0 rne 1 2,
    .vftoi p0 false .i32 .rne 1 2, .vitof p0 false .f32 rne 1 2, .vitof p0 true .i32 rne 1 2, .vfrnd p0 .i32 .rne 1 2, .vfclass p0 .i32 1 2,
    .vfclass p0 .f64 1 3, .vfscale p0 .f32 rne 1 2 (.imm 3), .vfscale p0 .i32 rne 1 2 (.reg 3), .vfdot2 p0 .f32 rne 1 2 (.reg 3) 4,
    .vfdot2 p0 .f16x2 rne 1 2 (.imm 3) 4], i.wf = false := by decide +kernel

/-- 11 Tables 11.5, 11.6. -/
theorem test_wf_cross : ∀ i ∈ [Instr.vshuf p0 .i64 1 2 3, .vshuf p0 .i64 2 1 3, .vrot p0 true .i32 1 2 8, .vrot p0 false .i64 1 2 3,
    .vbcast (.lane p0 1 3) .i64 2, .vbcast (.first pBad 1) .i32 2, .vbcast (.ts 1 3) .i64 3, .vred p0 .add .f32 1 2, .vred p0 .fadd .i32 1 2,
    .vred p0 .and .f32 1 2, .vscan p0 .min true .b32 1 2, .vscan p0 .add true .i64 1 2, .vvote p0 (.mk 0) .i32 1, .vvote pBad (.cnt 1) .i32 1,
    .vvote pBad (.lo 1) .i32 1, .vvote pBad (.hi 1) .i32 1, .vvote p0 (.eq 1) .i64 1, .vcompact p0 .i64 1 2, .vmatch p0 .i64 1 3, .elect p0 (.k 0),
    .elect pBad (.s 1)], i.wf = false := by decide +kernel

/-- Modes, sizes and qualifiers of loads and stores (12 Tables 12.2-12.4, R305; 03 R86). -/
theorem test_wf_memory : ∀ i ∈ [Instr.ld .full .i32 plainCa 1 (.cv 1 2) (.short 0), .ld .word .i32 plainCa 1 (.c 1) (.short 0),
    .ld .full .i64 relGrp 1 (.c 1) (.short 0), .ld .full .i64 plainPkg 1 (.c 1) (.short 0), .ld .full .i64 acqGrp 1 .scr (.short 0),
    .st .full .i64 acqGrp 1 (.c 1) (.short 0), .st .full .i64 ⟨.plain, .grp, .st⟩ 1 .scr (.short 0), .vld p0 .full .i32 plainCa 1 .scr (.short 0),
    .vld p0 .full .i32 plainCa 1 (.cp 1 3) (.short 0), .vld p0 .byte .f32 plainCa 1 (.c 1) (.short 0), .vld p0 .word .i32 plainCa 1 (.c 1) (.short 0),
    .vld p0 .full .i64 plainCa 1 (.c 1) (.short 0), .vst pBad .full .i32 plainCa 1 (.c 1) (.short 0), .vst p0 .full .i32 acqGrp 1 (.c 1) (.short 0),
    .vldc p0 .full .i32 plainCa 1 (.cv 1 2) (.short 0), .vstc p0 .full .i32 plainCa 1 .scr (.short 0), .cld plainCa 1 (.cv 1 2) (.short 0),
    .cld relGrp 1 (.c 1) (.short 0), .cst acqGrp 1 (.c 1) (.short 0), .vlds p0 .full .i32 1 (.c 1) (.short 0), .vsts p0 .half .f32 1 .scr (.short 0),
    .vsts p0 .full .i64 1 .scr (.short 0), .pref .ca .scr (.short 0)], i.wf = false := by decide +kernel

/-- 12 Tables 12.5, 12.6. -/
theorem test_wf_atomics : ∀ i ∈ [Instr.amo .pmax .i64 plainCa 1 (.c 1) none 2, .amo .fadd .i32 plainCa 1 (.c 1) none 2,
    .amo .add .i32 plainCa 1 .scr none 2, .amo .add .i32 plainPkg 1 (.c 1) none 2, .acas .f32 plainCa 1 (.c 1) none 2, .vamo p0 .sup .i64 plainCa 2 (.c 1) none 4,
    .vamo p0 .add .i64 plainCa 1 (.c 1) none 4, .vamo p0 .add .i64 plainCa 2 (.c 1) none 3, .vacas p0 .f32 plainCa 1 (.c 1) none 2, .bop .pmax .i32 plainCa 1 (.c 1) none 2,
    .bcas .b32 plainCa 1 (.c 1) none 2, .vbop p0 .sup .n32 plainCa 1 (.c 1) none 2, .bupd .pmaxs .i64 1 2 1 3 4, .bupd .fadd .i32 1 2 1 3 4],
    i.wf = false := by decide +kernel

/-- 12 R321, R323; 13 R328, R333, Table 13.6; 14 R357-R359; 09 R222. -/
theorem test_wf_others : ∀ i ∈ [Instr.waitc .eq .i32 .rel .grp 1 (.c 1) none 2, .waitc .eq .i32 .plain .pkg 1 (.c 1) none 2,
    .waitc .eq .i32 .plain .grp 1 .scr none 2, .poll .i32 .ar .grp 1 (.c 1) (.short 0), .poll .i32 .plain .sys 1 (.c 1) (.short 0), .spawn (.c 1) 0,
    .spawnl (.scrv 1) 0, .regrp (.range 3 2) 1 2, .plane false p0 .i64 rne 1 2 0 0, .plane false pBad .i32 rne 1 2 0 0, .mma pBad 16 4 0, .mzero pBad 16,
    .rdsr (.s 1) .laneid, .rdsr (.s 1) .fut, .rdsr (.v 1) .cycle, .rdsr (.v 1) .fpcsr, .rdsr (.c 1) .epc, .clauseHeader 0 12 15 1 false,
    .clauseHeader 0 15 14 1 false], i.wf = false := by decide +kernel

/-! ### Words of the manual, and words written out from its tables -/

/-- A base word from its fields (09 Table 9.2). -/
def baseWord (l op fn d a b c k kn ty cp sc ordq mod : Nat) : Nat :=
  l + op * 2 ^ 2 + fn * 2 ^ 10 + d * 2 ^ 14 + a * 2 ^ 22 + b * 2 ^ 30 + c * 2 ^ 38 + k * 2 ^ 46 + kn * 2 ^ 49 + ty * 2 ^ 50 + cp * 2 ^ 54 + sc * 2 ^ 56 +
    ordq * 2 ^ 59 + mod * 2 ^ 61

/-- The 8 bytes decode to the instruction, and it encodes to them. -/
def means (w : Nat) (i : Instr) : Bool := decode (BitVec.ofNat 128 w) == .ok i 8 && encode i == some (BitVec.ofNat 128 w)

/-- The loop of 10 Table 10.1's worked example. -/
theorem test_words_control : decode (BitVec.ofNat 128 (0x0000000000800021 + 0x30 * 2 ^ 64)) = .ok (.loop 2 0x30) 16 ∧
    decode (BitVec.ofNat 128 (0x0000000001800809 + 0x10 * 2 ^ 64)) = .ok (.brc (.nz 6) 0x10) 16 ∧ means 0x00000000007FC003 (.clauseHeader 0 15 15 1 false) ∧
    means (baseWord 0 0x06 0 0 7 0 0 0 0 0 0 0 0 0) (.ret 7) := by decide +kernel

theorem test_words_scalar : means 0x200C00000000C080 (.smov .n64 3 (.imm 0)) ∧ means (baseWord 0 0x23 0 4 5 3 9 0 0 1 0 0 0 0) (.sbfe .n32 4 5 3 9) ∧
    decode (BitVec.ofNat 128 (baseWord 2 0x21 0 4 0 0 0 0 0 2 0 0 0 0 + 0x123456789ABCDEF0 * 2 ^ 64)) = .ok (.sli .i64 4 0x123456789ABCDEF0) 16 := by decide +kernel

theorem test_words_capability_mask : means (baseWord 0 0x30 0 3 2 5 0 0 0 0 0 0 0 0) (.cbnd false 3 2 5) ∧
    means (baseWord 0 0x35 0 3 2 5 0x43 0 0 0 0 0 0 0) (.ctest 3 2 5 0x43) ∧ means (baseWord 0 0x38 0 1 2 3 0x8 0 0 0 0 0 0 0) (.kbool 1 2 3 8) ∧
    means (baseWord 0 0x3D 2 1 2 0 31 0 0 0 0 0 0 0) (.kshf .rot 1 2 31) := by decide +kernel

/-- 11's worked examples. -/
theorem test_words_vector : means 0x032281814105018C (.vfma ⟨2, true⟩ .f32 ⟨.rup, false⟩ 20 4 (.reg 5) 6) ∧
    means 0x0002400000014620 (.elect ⟨1, true⟩ (.s 5)) ∧ means (baseWord 0 0x40 0 10 2 3 0 3 1 4 1 0 0 0) (.vadd ⟨3, true⟩ .i16x2 true 10 2 (.reg 3)) ∧
    means (baseWord 0 0x40 0 10 2 3 0 0 0 0 0 0 0 2) (.vadd p0 .i32 false 10 2 (.sc 3)) ∧
    means (baseWord 0 0x70 2 6 3 0x02 0x24 0 0 0 1 1 0 0) (.vfcvt p0 0x24 0x02 2 ⟨.rtz, true⟩ 6 3) := by decide +kernel

/-- 12's and 16's worked examples. -/
theorem test_words_memory : means 0x400C83018102AE98 (.vbop ⟨2, false⟩ .pmaxs .n64 plainCa 10 (.cv 4 6) none 12) ∧
    means 0x400400018081424C (.vst p0 .full .n32 plainCa 5 (.cv 2 6) (.short 0)) ∧
    means (baseWord 0 0x90 2 9 3 7 0x88 0 0 2 1 0 0 1) (.ld .half .i64 ⟨.plain, .grp, .sl⟩ 9 (.cs 3 7) (.short 0x88)) ∧
    means (baseWord 0 0xA0 2 9 3 0 5 0 0 3 0 3 3 0) (.amo .smax .n64 ⟨.ar, .pkg, .ca⟩ 9 (.c 3) none 5) ∧
    means (baseWord 0 0xB0 0 0 0 0 0 0 0 0 0 3 1 0) (.fence false .acq .pkg) := by decide +kernel

theorem test_words_tasks_system_engines : means 0x0000000002000344 (.mfmt 0 8) ∧ means (baseWord 0 0xC4 1 5 2 0 0 0 0 0 0 0 0 0) (.join true 5 2) ∧
    means (baseWord 0 0xF0 0 5 0 0 7 0 0 0 0 0 0 0) (.rdsr (.s 5) .cause) ∧ means (baseWord 0 0xF1 0 0 5 0 11 0 0 0 0 0 0 0) (.wrsr .fpcsr 5) ∧
    means (baseWord 0 0xE0 0 9 1 2 3 0 0 6 2 0 0 0) (.cpy true 9 6 1 2 3) := by decide +kernel

/-- Reserved fields, forms and codes (09 R215, R218-R221, R228; 10 R263, R271). -/
theorem test_words_refused : ∀ w ∈ [baseWord 0 0x00 0 1 0 0 0 0 0 0 0 0 0 0, baseWord 0 0x10 0 4 5 6 1 0 0 2 0 0 0 0, baseWord 0 0x10 0 4 5 6 0 0 0 4 0 0 0 0,
    baseWord 0 0x10 0 64 5 6 0 0 0 2 0 0 0 0, baseWord 0 0x1E 6 4 5 6 0 0 0 2 0 0 0 0, baseWord 0 0x3A 0 0 5 0 0 0 0 0 0 0 0 0,
    baseWord 0 0x40 0 1 2 3 0 0 1 0 0 0 0 0, baseWord 0 0x40 0 1 2 3 0 0 0 15 0 0 0 0, baseWord 0 0x90 0 1 2 0 0 0 0 0 3 0 0 0,
    baseWord 0 0xF1 0 0 5 0 13 0 0 0 0 0 0 0, baseWord 0 0x27 0 0 0 0 0 0 0 0 0 0 0 0, baseWord 1 0x10 0 4 5 6 0 0 0 2 0 0 0 0,
    baseWord 1 0x52 0 7 0 0 0 0 0 1 0 0 0 0 + 2 ^ 96], ∃ a b c, decode (BitVec.ofNat 128 w) = .bad a b c := by
  intro w h
  simp only [List.mem_cons, List.not_mem_nil, or_false] at h
  rcases h with rfl | rfl | rfl | rfl | rfl | rfl | rfl | rfl | rfl | rfl | rfl | rfl | rfl <;> exact ⟨_, _, _, by rfl⟩

/-! ### Small steps -/

/-- What a field of the next state is. -/
def after {α : Type} (i : Instr) (s : State) (f : State → α) : Option α :=
  match exec i s with
  | .next t => some (f t)
  | _ => none

/-- s5 and s6 of the example of 10 R263. -/
def scalars (a b : W64) : State := with_ fun g => { g with sregs := [(5, a), (6, b)] }

theorem test_sadd : after (.sadd .i32 4 5 (.reg 6)) (scalars 0x80000000 0xFFFFFFFF00000001) (fun t => t.g.sreg 4) = some 0xFFFFFFFF80000001 ∧
    after (.sadd .n32 4 5 (.reg 6)) (scalars 0x80000000 0xFFFFFFFF00000001) (fun t => t.g.sreg 4) = some 0x80000001 := by decide +kernel

theorem test_scmp : after (.scmp .lt .i32 7 5 (.reg 6)) (scalars 0x80000000 0xFFFFFFFF00000001) (fun t => t.g.sreg 7) = some 1 ∧
    after (.scmp .lt .n32 7 5 (.reg 6)) (scalars 0x80000000 0xFFFFFFFF00000001) (fun t => t.g.sreg 7) = some 0 := by decide +kernel

/-- 10 R261's corners. -/
theorem test_sdiv_by_zero : after (.sdiv .n32 4 5 (.imm 0)) (scalars 7 0) (fun t => t.g.sreg 4) = some 0xFFFFFFFF ∧
    after (.srem .i64 4 5 (.imm 0)) (scalars 7 0) (fun t => t.g.sreg 4) = some 7 := by decide +kernel
theorem test_sdiv_overflow : after (.sdiv .i32 4 5 (.imm 0xFF)) (scalars 0x80000000 0) (fun t => t.g.sreg 4) = some 0xFFFFFFFF80000000 ∧
    after (.srem .i32 4 5 (.imm 0xFF)) (scalars 0x80000000 0) (fun t => t.g.sreg 4) = some 0 := by decide +kernel

/-- The example of rounding bounds outward (10 R265). -/
def wide (top : Nat) : State :=
  with_ fun g => { g with cregs := [(2, Cap.make top 0 2 0x43 0x1000000011 true)], sregs := [(5, 0x20000000)] }

theorem test_cbnd_rounds_out : after (.cbnd false 3 2 5) (wide 0x10000000) (fun t => t.g.creg 3) = some (Cap.make 0x10000009 8 1 0x43 0x1000000011 true) := by
  decide +kernel
theorem test_cbnd_exact_traps : after (.cbnd true 3 2 5) (wide 0x10000000) (fun t => (t.g.cause, t.g.creg 3)) = some (0x11, Cap.null) := by decide +kernel

/-- The rows of the example of rounding into binary8p4 (08), with the flags NV 1, OF 4, UF 8 and NX 16. -/
theorem test_cvt_small_formats :
    cvt (.p8 4 true true) .rne false (decodeBase fp32 0x42C80000) = (0x74, 16) ∧ cvt (.p8 4 true true) .rup false (decodeBase fp32 0x42C80000) = (0x75, 16) ∧
    cvt (.p8 4 true true) .rtz false (decodeBase fp32 0x42C80000) = (0x74, 16) ∧ cvt (.p8 4 true true) .rne false (decodeBase fp32 0x43960000) = (0x7F, 20) ∧
    cvt (.p8 4 true true) .rne true (decodeBase fp32 0x43960000) = (0x7E, 20) ∧ cvt (.p8 4 true false) .rne false (decodeBase fp32 0x43960000) = (0x7F, 20) ∧
    cvt (.p8 4 false true) .rna false (decodeBase fp32 0xC3960000) = (0xFF, 1) ∧ cvt .f4 .rne false (decodeBase fp32 0x40200000) = (0x4, 16) ∧
    cvt .f4 .rne false (decodeBase fp32 0xBE4CCCCD) = (0x0, 24) := by decide +kernel

/-- The example of one rounding or two (11). -/
def floats : State :=
  with_ fun g => { g with vregs := [(4, mkLanes fun _ => 0x3F800001), (5, mkLanes fun _ => 0x3F800001), (6, mkLanes fun _ => 0xBF800000)] }
def laneOut (v : VReg) (l : Nat) (t : State) : W32 × W64 := ((t.g.vreg v).at l, t.g.fpcsr)

theorem test_vfma_rounds_once : after (.vfma p0 .f32 rne 20 4 (.reg 5) 6) floats (laneOut 20 31) = some (0x34800000, 16) ∧
    after (.vfma p0 .f32 ⟨.rup, false⟩ 20 4 (.reg 5) 6) floats (laneOut 20 0) = some (0x34800001, 16) := by decide +kernel
theorem test_vfmul : after (.vfmul p0 .f32 rne 20 4 (.reg 5)) floats (laneOut 20 3) = some (0x3F800002, 16) ∧
    after (.vfmul p0 .f32 ⟨.rup, false⟩ 20 4 (.reg 5)) floats (laneOut 20 3) = some (0x3F800003, 16) := by decide +kernel

/-- The example of counting survivors (11): path A has lanes 0 to 7. -/
def survivors : State :=
  with_ fun g => { g with
    kregs := [(1, 0xB5)], pa := { path with mask := 0xFF }
    vregs := [(8, mkLanes fun l => BitVec.ofNat 32 (([3, 0, 5, 0, 2, 7, 0, 1, 0, 9] : List Nat).getD l 0))] }

theorem test_vcmp : after (.vcmp p0 .ne .i32 1 8 (.imm 0)) survivors (fun t => t.g.kreg 1) = some 0xB5 := by decide +kernel
theorem test_vscan : after (.vscan ⟨1, false⟩ .add false .i32 9 8) survivors (fun t => (t.g.vreg 9).take 8) = some [3, 0, 8, 0, 10, 17, 0, 18] := by
  decide +kernel
theorem test_vcompact : after (.vcompact ⟨1, false⟩ .b32 10 8) survivors (fun t => (t.g.vreg 10).take 8) = some [3, 5, 2, 7, 1, 0, 0, 0] := by
  decide +kernel
theorem test_vred_elect : after (.vred ⟨1, false⟩ .add .i32 4 8) survivors (fun t => t.g.sreg 4) = some 18 ∧
    after (.elect ⟨1, true⟩ (.s 5)) survivors (fun t => t.g.sreg 5) = some 1 := by decide +kernel

/-- The example of F4 against BF16 with an extra value (14): format slot 0, the two tiles in the TOB, the slots in lane 0 of v4. -/
def tiles2 : State :=
  let brr : W64 := 0xAAAA555500000000
  let tile (o : Nat) (l : List (Nat × Byte)) (c : Core) : Core := l.foldl (fun c e => c.writeLoc (localAddrs brr 2 0 (o + e.1) 1) [e.2]) c
  { (with_ fun g => { g with
      kregs := [(1, 1)], vregs := [(4, mkLanes fun l => if l = 0 then 0x10000 else 0)]
      fmts := [(0, BitVec.ofNat 256 (0x3E8000000210 + 0x800000000804 * 2 ^ 64))] }) with
    cores := [(0, tile 2048 ([(80, 2), (96, 1), (112, 2), (128, 2), (144, 2), (160, 2), (176, 2), (192, 2), (208, 2), (224, 1)])
      (tile 0 [(0, 2), (16, 2), (48, 1)] {}))] }

/-- What the operation will write to lane 0 of v16, and its flags. -/
def accumulated (t : State) : Option (Option W32 × W64) :=
  t.ops.head?.map fun o => (o.2.writes.findSome? fun w => match w with | .v r _ x => if r = 16 then some (x.at 0) else none | _ => none, o.2.flags)

theorem test_mma_extra_value : after (.mma ⟨1, false⟩ 16 4 0) tiles2 accumulated = some (some (some 0x40280000, 0)) := by decide +kernel

/-- A store to the scratch window; TRAP 7 saves the address behind itself and goes to the handler (13 R340, 16 R391). -/
theorem test_scratch_store : after (.st .full .n64 plainCa 1 .scr (.short 16)) one (fun t => natOf (t.scrRead 1 16 8)) = some 5 := by decide +kernel
theorem test_trap : after (.trap 7) one (fun t => (t.g.cause, t.g.faddr, t.g.epc, t.p.pc, t.p.frame.isSome)) = some (0x40, 7, 0x8028, 0x8000, true) := by
  decide +kernel

/-! ### Witnesses: hypotheses of the statements, each met by a concrete state and operands -/

theorem witness_ScalarArithmeticAndMoves : one.issuing ∧
    cmpInt .eq (sNum .i32 (one.g.sreg 1)) (sNum .i32 (sOp one .i32 (.imm 5))) ∧
    ¬ cmpInt .lt (sNum .n64 (one.g.sreg 2)) (sNum .n64 (sOp one .n64 (.reg 1))) ∧
    STy.i64.w64 = true ∧ one.g.sreg 1 ≠ 0 ∧ one.g.sreg 3 = 0 ∧ (60#8).toNat + (4#8).toNat ≤ sWidth .i64 ∧ 0 < (4#8).toNat := by
  unfold State.issuing cmpInt
  decide

theorem witness_ScalarDivision : one.issuing ∧ sNum .i32 (sOp one .i32 (.imm 0)) = 0 ∧ sNum .i32 (sOp one .i32 (.imm 3)) ≠ 0 ∧
    sNum .i64 (sOp one .i64 (.imm 255)) = -1 ∧ sNum .i64 (one.g.sreg 4) = -(2 ^ (sWidth .i64 - 1)) := by
  unfold State.issuing
  decide

theorem witness_CapabilityMovesAndReads : one.issuing ∧ capT.e ≤ 33 ∧
    (capT.tag = true ∧ capT.bounds.base ≤ capT.cursor ∧ ((capT.cursor + (one.g.sreg 5).toNat : Nat) : Int) ≤ capT.bounds.top ∧
      capT.cursor + (one.g.sreg 5).toNat ≤ 2 ^ 57 ∧ ∀ i, i < 7 → (0x7F#7).getLsbD i = true → capT.bits.getLsbD (57 + i) = true) ∧
    ¬ (capU.tag = true ∧ capU.bounds.base ≤ capU.cursor ∧ ((capU.cursor + (one.g.sreg 1).toNat : Nat) : Int) ≤ capU.bounds.top ∧
      capU.cursor + (one.g.sreg 1).toNat ≤ 2 ^ 57 ∧ ∀ i, i < 7 → (0x7F#7).getLsbD i = true → capU.bits.getLsbD (57 + i) = true) := by
  unfold State.issuing
  decide

/-- The whole object, at exponent 0; the untagged source; a length beyond 2^57; a length beyond the source. -/
theorem witness_CapabilityBoundsNarrow : one.issuing ∧ capU.tag = false ∧ capT.tag = true ∧
    2 ^ 57 < capT.cursor + (one.g.sreg 2).toNat ∧ capT.cursor + (one.g.sreg 5).toNat ≤ 2 ^ 57 ∧ IsExponent 0x1000 0x1000 0 ∧
    capT.bounds.base ≤ ((0x1000 : Nat) : Int) ∧ ((0x2000 : Nat) : Int) ≤ capT.bounds.top ∧
    IsExponent 0x1000 0x8020 0 ∧ ((0x1000 + 0x8020 : Nat) : Int) > capT.bounds.top := by
  unfold State.issuing IsExponent
  and_intros <;> decide

theorem witness_MaskInstructions : one.issuing ∧ (1 : KReg) ≠ 0 := by
  unfold State.issuing
  decide

theorem witness_VectorArithmeticAndLogic : one.issuing ∧ one.p.replay = none ∧ ETy.pair .i32 = false ∧ ETy.pair .i64 = true ∧
    31 < 32 ∧ 3 < elemCount .i8x4 := by
  unfold State.issuing
  decide

theorem witness_VectorBitCountsAndFields : one.issuing ∧ ETy.wide .i64 = true ∧ (0#8).toNat + (64#8).toNat ≤ ETy.elemBits .i64 ∧
    0 < (64#8).toNat ∧ 63 < ETy.elemBits .i64 := by
  unfold State.issuing
  decide

theorem witness_VectorCompareMoveDot : one.issuing ∧ (1 : KReg) ≠ 0 ∧ ETy.wide .n32 = true ∧
    (31 < 32 ∧ (one.sel ⟨0, false⟩).getLsbD 31 = true) ∧ (one.sel ⟨0, true⟩) = 0 ∧ VSrc.noImm (.reg 3) = true := by
  unfold State.issuing
  decide

/-- s5 is nonzero and s3 zero; s6 is below 2^57, s4 above it. -/
theorem witness_TransfersAndNop : one.issuing ∧ taken one (.nz 5) ∧ ¬ taken one (.z 5) ∧ taken one (.any ⟨1, false⟩) ∧
    ¬ taken one (.all ⟨1, false⟩) ∧ (one.g.sreg 6).toNat < 2 ^ 57 ∧ (one.p.frame.isSome = true → one.g.sreg 6 ≠ one.g.epc) ∧
    2 ^ 57 ≤ (one.g.sreg 4).toNat := by
  unfold State.issuing taken
  and_intros <;> decide

/-- Where the body of a skipped loop ends. -/
def loopEnd : VA := 0x8040

/-- A loop whose end is the path's instruction, in its last round, and one with two rounds to go. -/
def lastRound : LoopEntry := ⟨0x8000, 0x8020, 1⟩
def moreRounds : LoopEntry := ⟨0x8000, 0x8020, 2⟩

/-- The block of code that holds the end of the loop is in the instruction cache. -/
def cachedEnd : State := { one with cores := [(0, { icache := [(1, 0x8040, 0)] })] }

theorem witness_Loops :
    (one.issuing ∧ one.p.loops.length < 4 ∧ one.g.sreg 1 ≠ 0) ∧
    (let s := withPath fun p => { p with loops := List.replicate 4 moreRounds }
     s.issuing ∧ 4 ≤ s.p.loops.length) ∧
    (cachedEnd.issuing ∧ cachedEnd.g.sreg 3 = 0 ∧ (∀ e ∈ cachedEnd.p.loops, e.fin ≠ cachedEnd.p.pc) ∧ cachedEnd.launchOf cachedEnd.g = some kernel ∧
      (cachedEnd.fetchAt cachedEnd.g.core cachedEnd.g.asid kernel.code loopEnd.toNat 8).2 = .ok (List.replicate 8 0)) ∧
    (moreRounds.fin = path.pc ∧ 1 < moreRounds.left.toNat ∧ lastRound.fin = path.pc ∧ lastRound.left = 1 ∧
      inBody moreRounds path.pc ∧ ¬ inBody moreRounds 0x8028 ∧ inBody moreRounds 0x8000) := by
  unfold State.issuing inBody
  and_intros <;> decide +kernel

/-- With 2080 entries on the reconvergence stack. -/
def fullStack : State :=
  with_ fun g => { g with pa := { path with stack := List.replicate 2080 ⟨true, 1, 0, 0, 0, true⟩ }, pb := { path with pc := 0x9000 } }

/-- With 32 entries on chip. -/
def fullChip : State :=
  with_ fun g => { g with pa := { path with stack := List.replicate 32 ⟨true, 1, 0, 0, 0, true⟩ }, pb := { path with pc := 0x9000 } }

theorem witness_SpillOfAPush : fullChip.issuing ∧ (∀ l, l < 32 → (1#32).getLsbD l = (fullChip.p.mask.getLsbD l && ((fullChip.rk 1).getLsbD l != false))) ∧
    fullChip.q.live = true ∧ fullChip.g.pa.stack.length + fullChip.g.pb.stack.length < 2080 ∧ 32 ≤ fullChip.g.onChip.length := by
  unfold State.issuing
  decide +kernel

theorem witness_DivergentBranch :
    (one.issuing ∧ (∀ l, l < 32 → (0xFFFFFFFF#32).getLsbD l = (one.p.mask.getLsbD l && ((one.rk 0).getLsbD l != false))) ∧
      ∀ l, l < 32 → (0#32).getLsbD l = (one.p.mask.getLsbD l && !(0xFFFFFFFF#32).getLsbD l)) ∧
    (∀ l, l < 32 → (0#32).getLsbD l = (one.p.mask.getLsbD l && ((one.rk 0).getLsbD l != true))) ∧
    ((∀ l, l < 32 → (1#32).getLsbD l = (one.p.mask.getLsbD l && ((one.rk 1).getLsbD l != false))) ∧
      (∀ l, l < 32 → (0xFFFFFFFE#32).getLsbD l = (one.p.mask.getLsbD l && !(1#32).getLsbD l)) ∧ one.q.live = false) ∧
    (both.issuing ∧ (∀ l, l < 32 → (1#32).getLsbD l = (both.p.mask.getLsbD l && ((both.rk 1).getLsbD l != false))) ∧ both.q.live = true ∧
      both.g.pa.stack.length + both.g.pb.stack.length < 2080 ∧ both.g.onChip.length < 32) ∧
    (fullStack.issuing ∧ (∀ l, l < 32 → (1#32).getLsbD l = (fullStack.p.mask.getLsbD l && ((fullStack.rk 1).getLsbD l != false))) ∧
      fullStack.q.live = true ∧ 2080 ≤ fullStack.g.pa.stack.length + fullStack.g.pb.stack.length) := by
  unfold State.issuing
  refine ⟨by decide, by decide, by decide, by decide, ⟨by decide, by decide, by rfl, ?_⟩⟩
  have h : fullStack.g.pa.stack = List.replicate 2080 ⟨true, 1, 0, 0, 0, true⟩ := rfl
  rw [h, List.length_replicate]
  omega

/-- The path stands at the reconvergence point of its stack's top. -/
def atPoint (deferred : Bool) : State := withPath fun p => { p with stack := [⟨deferred, 1, 0x8100, 0x8020, 0, true⟩] }

/-- The path stands at its partner's reconvergence point; the partner waits there, or not. -/
def atPartner (w : Wait) : State :=
  with_ fun g => { g with
    pa := { path with partner := true, rpc := 0x8020 }, pb := { path with partner := true, rpc := 0x8020, wait := w } }

theorem witness_Reconvergence :
    (one.issuing ∧ (∀ x ∈ one.p.stack.head?, x.rpc ≠ one.p.pc) ∧ ¬ (one.p.partner = true ∧ one.p.rpc = one.p.pc)) ∧
    (∀ d, (atPoint d).issuing ∧ (atPoint d).p.stack = [⟨d, 1, 0x8100, 0x8020, 0, true⟩] ∧ (0x8020 : VA) = (atPoint d).p.pc) ∧
    (let s := atPartner .reconv
     s.issuing ∧ (∀ x ∈ s.p.stack.head?, x.rpc ≠ s.p.pc) ∧ (s.p.partner = true ∧ s.p.rpc = s.p.pc) ∧
       s.q.live = true ∧ s.q.wait = .reconv ∧ s.q.pc = s.p.pc) ∧
    (let s := atPartner .none
     s.issuing ∧ (∀ x ∈ s.p.stack.head?, x.rpc ≠ s.p.pc) ∧ (s.p.partner = true ∧ s.p.rpc = s.p.pc) ∧
       ¬ (s.q.live = true ∧ s.q.wait = .reconv ∧ s.q.pc = s.p.pc)) := by
  unfold State.issuing
  refine ⟨by decide, by decide, by decide, by decide⟩

/-- An operation of the issuing path holds flag 0. -/
def counted : State := { one with ops := [(9, inFlight)] }

theorem witness_ClauseHeaders :
    (counted.issuing ∧ (0 < 12 ∧ (1#12).getLsbD 0 = true ∧ (9, inFlight) ∈ counted.ops ∧ inFlight.gid = counted.cur.gid ∧
      inFlight.chA = true ∧ inFlight.flag = some 0)) ∧
    (one.issuing ∧ ∀ i o, o ∈ one.ops → ¬ (i < 12 ∧ o.2.flag = some i)) := by
  unfold State.issuing
  refine ⟨by decide, by decide, fun i o h => absurd h (by simp [one, State.reset])⟩

/-! Numbers. -/

theorem witness_Rounding : aFormat fp32 ∧ aFormat .f4 ∧ aFormat (.p8 7 true false) ∧ Rm.rne ≠ .dyn ∧ (1 : Nat) ≠ 0 ∧ 1 < 2 := by
  refine ⟨?_, trivial, ?_, by decide, by decide, by decide⟩
  · unfold fp32 aFormat; decide
  · unfold aFormat; decide

theorem witness_ExactFloatResults : exactFin (.fin false 3 (-1) false) ∧ exactFin (zeroVal true) ∧
    ratOf (.fin false 3 (-1) false) ≠ 0 ∧ ratOf (zeroVal true) = 0 ∧ 999 < 1000 := by
  refine ⟨rfl, rfl, ?_, ?_, by decide⟩
  · norm_num [ratOf]
  · norm_num [ratOf, zeroVal]

theorem witness_FloatArithmetic : one.issuing ∧ floatTy .f32 ∧ floatTy .bf16x2 ∧ VSrc.noImm (.reg 1) = true ∧
    (∀ b, b < 5 → one.g.fpcsr.getLsbD (8 + b) = false) ∧ (with_ fun g => { g with fpcsr := 0x100 }).g.fpcsr.getLsbD (8 + 0) = true := by
  unfold State.issuing floatTy
  decide

/-- v0 holds zeros. -/
theorem zeros (l i : Nat) : elemOf one .f32 0 l i = 0 := by
  have h : one.g.vreg 0 = List.replicate 32 0 := by rfl
  have a : (one.g.vreg 0).at l = 0 := by
    rw [h, Lanes.at, List.getD_eq_getElem?_getD, List.getElem?_replicate]
    split <;> rfl
  unfold elemOf Group.laneOf
  rw [a]
  simp [elemAt, bitsAt, ETy.pair]

/-- The lesser of two zeros, the class of +0, and +0 rounded to an integer meet the conditions on the results. -/
theorem witness_FloatOrderAndConversions : one.issuing ∧ floatTy .f32 ∧ (1 : KReg) ≠ 0 ∧ elemCount .f32 = 1 ∧
    (∀ l i, isNan (fElem one .f32 0 l i) = false ∧ ¬ fBefore (fElem one .f32 0 l i) (fElem one .f32 0 l i)) ∧
    (∀ l i, fElem one .f32 0 l i = .fin false 0 (-149) false) ∧ RoundsTo .rne false ((0 : Nat) * (2 : ℚ) ^ (-149 : Int)) 0 ∧
    exactFin (decodeBase (fmtOf .f32) 0) ∧ signOf (decodeBase (fmtOf .f32) 0) = false ∧ |ratOf (decodeBase (fmtOf .f32) 0)| = (0 : Nat) ∧
    one.sel ⟨0, true⟩ = 0 ∧ one.sel ⟨0, false⟩ ≠ 0 ∧ 0 < cvtBits 0x10 ∧ 0 < cvtBits 0x02 ∧ (7#3).toNat < max 1 (32 / (1 * min (cvtBits 0x10) (cvtBits 0x02))) := by
  have z (l i : Nat) : fElem one .f32 0 l i = .fin false 0 (-149) false := by
    rw [fElem, zeros]; rfl
  have r : ratOf (.fin false 0 (-149) false) = 0 := by simp [ratOf]
  refine ⟨rfl, by unfold floatTy; decide, by decide, by decide, fun l i => ⟨by rw [z]; rfl, ?_⟩, z, ?_, by rfl, by rfl, ?_, ?_⟩
  · rw [z]; simp [fBefore, fLess, signOf]
  · simp [RoundsTo]
  · change |ratOf (.fin false 0 (-149) false)| = _
    rw [r]; simp
  · and_intros <;> decide

theorem witness_FloatFunctions : one.issuing ∧ one.parkedOp one.cur.gid one.cur.b = none ∧ floatTy .f64 ∧ one.sel ⟨0, true⟩ = 0 ∧
    one.sel ⟨0, false⟩ ≠ 0 := by
  unfold State.issuing floatTy
  decide

/-! Cross-lane instructions: lane 31 is the first lane that a predicate of lane 31 selects. -/

theorem witness_Permutations :
    (let s := with_ fun g => { g with kregs := [(1, 0x80000000)] }
     s.issuing ∧ 31 < 32 ∧ (s.sel ⟨1, false⟩).getLsbD 31 = true ∧ ∀ l, l < 31 → (s.sel ⟨1, false⟩).getLsbD l = false) ∧
    one.sel ⟨0, true⟩ = 0 := by
  unfold State.issuing
  decide

theorem witness_Reductions : one.issuing ∧ redTypes .add .i8x4 ∧ redTypes .xor .b32 ∧ redTypes .fmin .f64 ∧ one.sel ⟨0, true⟩ = 0 ∧
    one.sel ⟨0, false⟩ ≠ 0 := by
  unfold State.issuing redTypes floatTy
  decide

/-- Lane 0 alone is selected by k1; v1 differs between lanes 0 and 1. -/
theorem witness_VotesAndCompaction : one.issuing ∧ (1 : KReg) ≠ 0 ∧ one.sel ⟨0, true⟩ = 0 ∧ one.sel ⟨1, false⟩ ≠ 0 ∧
    (0 < 32 ∧ (one.sel ⟨1, false⟩).getLsbD 0 = true ∧ ∀ j, j < 0 → (one.sel ⟨1, false⟩).getLsbD j = false) ∧
    (∀ l, l < 32 → ∀ j, j < 32 → one.g.laneOf false 0 l = one.g.laneOf false 0 j) ∧
    (let s := with_ fun g => { g with vregs := [(1, mkLanes fun l => BitVec.ofNat 32 l)] }
     s.issuing ∧ (s.sel ⟨0, false⟩).getLsbD 0 = true ∧ (s.sel ⟨0, false⟩).getLsbD 1 = true ∧ s.g.laneOf false 1 0 ≠ s.g.laneOf false 1 1) := by
  unfold State.issuing
  decide

/-! ### Witnesses: memory -/

/-- The state in which the operation's release, if it has one, is ready, and whether it is. -/
def released (s : State) (m : MemOp) : State × Bool :=
  if ordRel m.ord then (m.check s).st.releaseAt s.cur.gid s.cur.b m.sc false else ((m.check s).st, true)

/-- The operation passes its checks, its release is ready, it sends requests that nothing holds back, to no object that an access
to another package is queued for, through leaves that have DF set, and its path runs. -/
def passes (s : State) (m : MemOp) : Bool :=
  let k := m.check s
  let v := released s m
  let rs := m.reqs k.st.c k.st.g.asid k.st.p.wrote [] k.passed
  let d := m.setDirty v.1 k.passed
  k.failed.isEmpty && v.2 && !rs.isEmpty && !v.1.orderStall rs && k.st.p.wrote.isEmpty && !rs.any v.1.remoteQueued && d.2 &&
    (d.1.parkedOp d.1.cur.gid d.1.cur.b).isNone && (Store.find d.1.groups d.1.cur.gid).isSome && d.1.p.wait == .none

/-- The hypotheses of Issues and CtrIssues, and those of ActsAt, for such an operation, all of them together. -/
theorem passes_spec (s : State) (m : MemOp) (h : passes s m = true) :
    ∃ (u v w : State) (passed : List (LaneAcc × List (Nat × Nat × Trans))), m.check s = ⟨u, passed, []⟩ ∧
      (if ordRel m.ord then u.releaseAt s.cur.gid s.cur.b m.sc false = (v, true) else v = u) ∧
      m.setDirty v passed = (w, true) ∧ m.reqs u.c u.g.asid u.p.wrote [] passed ≠ [] ∧
      v.orderStall (m.reqs u.c u.g.asid u.p.wrote [] passed) = false ∧ w.parkedOp w.cur.gid w.cur.b = none ∧
      ∃ r ∈ m.reqs u.c u.g.asid [] [] passed, ReadyAt s s m w r.pa r.page := by
  simp only [passes, Bool.and_eq_true, Bool.not_eq_true', List.isEmpty_eq_false_iff, List.isEmpty_iff, Option.isNone_iff_eq_none,
    beq_iff_eq] at h
  obtain ⟨⟨⟨⟨⟨⟨⟨⟨⟨a, b⟩, c⟩, d⟩, e⟩, f⟩, g⟩, x⟩, i⟩, j⟩ := h
  have y : m.check s = ⟨(m.check s).st, (m.check s).passed, []⟩ := by rw [← a]
  have z : if ordRel m.ord then (m.check s).st.releaseAt s.cur.gid s.cur.b m.sc false = ((released s m).1, true)
      else (released s m).1 = (m.check s).st := by
    unfold released at b ⊢
    split
    · rw [← b, if_pos (by assumption)]
    · rfl
  refine ⟨_, _, _, _, y, z, (by rw [← g]), c, d, x, ?_⟩
  rw [e] at c d f
  cases q : m.reqs (m.check s).st.c (m.check s).st.g.asid [] [] (m.check s).passed with
  | nil => exact absurd q c
  | cons r rs =>
    rw [q] at d f
    exact ⟨r, .head _, _, _, _, r, rs, y, z, q, d, fun n hn => by simpa using List.any_eq_false.1 f n hn, by rw [← g], i, j, rfl, rfl⟩

/-- What holds such an operation back: its release, something in program order before it, and a leaf that has changed. -/
def held (s : State) (m : MemOp) : Bool × Bool × Bool :=
  let k := m.check s
  (k.failed.isEmpty && !(k.st.releaseAt s.cur.gid s.cur.b m.sc false).2,
    k.failed.isEmpty && k.st.orderStall (m.reqs k.st.c k.st.g.asid k.st.p.wrote [] k.passed), k.failed.isEmpty && !(m.setDirty k.st k.passed).2)

/-- Plain accesses, at the L1's policy. -/
def plain : MemQ := ⟨.plain, .grp, .ca⟩

/-- The path's group with its pages in HBM, in common memory, and in another package. -/
def inHbm : State := mapIn one hbm
def inCmem' : State := mapIn one cmem
def inRemote : State := mapIn one remote

/-- An acquire load of the path stands between, and a leaf without DF, whose entry has changed in memory. -/
def counted' : State := { inHbm with ops := [(9, inFlight)] }
def afterAcquire : State := { inHbm with ops := [(9, { inFlight with acq := some .grp })] }
def changedLeaf : State := mapIn one (hbm - 2 ^ 12)

theorem witness_HeldAccesses :
    held counted' { plainOp capT .store plain [⟨0, 0x1000, 8, .store (bytesOf 8 5)⟩] inHbm.act true .none with ord := .rel, sc := .die } = (true, false, false) ∧
    (held afterAcquire (plainOp capT .load plain [⟨0, 0x1000, 8, .load⟩] inHbm.act true (.scalar .i64 9))).2 = (true, false) ∧
    (held changedLeaf (plainOp capT .store plain [⟨0, 0x1000, 8, .store (bytesOf 8 5)⟩] inHbm.act true .none)).2.2 = true := by decide +kernel

/-- A load, a vector load and store with a lane each, and tagged accesses; 0x1000 is aligned. The remote page is the one whose
request waits for its operation. -/
theorem witness_LoadsAndStores : inHbm.issuing ∧ viaCap (.c 1) ∧ viaCap (.cv 1 0) ∧ uniform (.c 1) ∧ sameAddr (.c 1) = true ∧
    sameAddr (.cv 1 0) = false ∧ inHbm.sel ⟨0, true⟩ = 0 ∧
    passes inHbm (plainOp capT .load plain [⟨0, 0x1000, 8, .load⟩] inHbm.act true (.scalar .i64 9)) = true ∧
    passes inHbm (plainOp capT .store plain [⟨0, 0x1FF8, 8, .store (bytesOf 8 5)⟩] inHbm.act true .none) = true ∧
    passes inHbm (plainOp capT .load plain ((picked inHbm ⟨1, false⟩).map fun l => ⟨l, addr inHbm (.cv 1 0) 0 l, 4, .load⟩)
      (inHbm.sel ⟨1, false⟩) false (.vector .i32 false 9)) = true ∧
    passes (spent inHbm) (plainOp capT .store plain ((picked inHbm ⟨1, false⟩).map fun l => ⟨l, addr inHbm (.cv 1 0) 0 l, 4, .store (bytesOf 4 0)⟩)
      (inHbm.sel ⟨1, false⟩) false .none) = true ∧
    passes inHbm { plainOp capT .load plain [⟨0, 0x1000, 16, .loadCap true⟩] inHbm.act true (.cap 3) with align := true } = true ∧
    passes (spent inHbm) { plainOp capT .cst plain [⟨0, 0x1000, 16, .storeCap capT.bits true⟩] inHbm.act true .none with
      align := true, target := .cst true } = true ∧
    passes inRemote (plainOp capT .load plain [⟨0, 0x1000, 8, .load⟩] inHbm.act true (.scalar .i64 9)) = true := by
  and_intros <;> first | decide +kernel | trivial

theorem witness_AtomicsAndBankOperations : inHbm.issuing ∧ viaCap (.c 1) ∧ inHbm.sel ⟨0, true⟩ = 0 ∧
    passes (spent inHbm) (atomicOp capT plain .amo [⟨0, 0x1000, 4, .rmw .add 32 5⟩] inHbm.act true (.scalar .i32 9)) = true ∧
    passes (spent inHbm) (atomicOp capT plain .amo [⟨0, 0x1000, 8, .cas 64 0 5⟩] inHbm.act true (.scalar .i64 9)) = true ∧
    passes (spent inCmem') (atomicOp capT plain (.bank false) [⟨0, 0x1000, 8, .rmw .pmax 64 5⟩] inHbm.act true (.scalar .n64 9)) = true ∧
    passes (spent inCmem') (atomicOp capT plain (.bank true) [⟨0, 0x1000, 8, .rmw .pmaxs 64 5⟩] inHbm.act true (.scalar .n64 9)) = true := by
  and_intros <;> first | decide +kernel | trivial

/-- An untagged capability; one byte beyond the top; a permission missing; an aligned and a misaligned address that pass. -/
theorem witness_AccessChecks : one.issuing ∧ one.parkedOp one.cur.gid one.cur.b = none ∧ viaCap (.c 1) ∧ plain.ord = .plain ∧
    CapCause capU [0] 0x1000 8 0x10 ∧ CapCause capT [1] 0x1FF9 8 0x11 ∧ CapCause { capT with bits := capT.bits ^^^ (1 <<< 57) } [0] 0x1000 8 0x12 ∧
    CapPasses capT [0] 0x1000 16 ∧ CapPasses capT [0, 1, 2] 0x1004 8 ∧ 0x1004 % 16 ≠ 0 ∧ 0x1004 % 8 ≠ 0 ∧
    (with_ fun g => { g with cregs := [(1, { capT with bits := capT.bits ^^^ (1 <<< 62) })] }).issuing ∧
    ({ capT with bits := capT.bits ^^^ (1 <<< 62) } : Cap).bits.getLsbD 62 = false := by
  unfold CapCause CapPasses viaCap
  and_intros <;> first | decide +kernel | rfl

/-- The window of 256 bytes: its last 8 bytes, one byte beyond, its last granule, and a lane's access at each end. -/
theorem witness_ScratchAccesses : one.issuing ∧ one.parkedOp one.cur.gid one.cur.b = none ∧ windowFits one ∧ ¬ viaCap .scr ∧
    248 + 8 ≤ one.g.scrSize ∧ one.g.scrSize < 249 + 8 ∧ 240 + 16 ≤ one.g.scrSize ∧ 240 % 16 = 0 ∧ one.g.scrBase % 16 = 0 ∧
    one.g.scrSize < 256 + 16 ∧ 8 + 16 ≤ one.g.scrSize ∧ 8 % 16 ≠ 0 ∧ one.sel ⟨0, true⟩ = 0 ∧ one.sel ⟨0, false⟩ ≠ 0 ∧
    (∀ l, l < 32 → (one.sel ⟨0, false⟩).getLsbD l = true → 0 + l * 8 + 8 ≤ one.g.scrSize) ∧
    (31 < 32 ∧ (one.sel ⟨0, false⟩).getLsbD 31 = true ∧ one.g.scrSize < 8 + 31 * 8 + 8 ∧
      (∀ l, l < 32 → (one.sel ⟨0, false⟩).getLsbD l = true → one.g.scrSize < 8 + l * 8 + 8 → 8 + 31 * 8 ≤ 8 + l * 8) ∧
      ∀ l, l < 32 → ((0x80000000#32).getLsbD l = true ↔ (one.sel ⟨0, false⟩).getLsbD l = true ∧ one.g.scrSize < 8 + l * 8 + 8)) := by
  unfold windowFits viaCap
  and_intros <;> first | decide +kernel | rfl

/-! Fences, waits, barriers. -/

/-- A load of the path whose bytes have not come, and a group that has taken over a store of its own core's L1. -/
def unread : OpRec := { inFlight with spans := [(0x101000, 8, false)] }
def reading : State := { one with ops := [(9, unread)] }
def seer : State := with_ fun g => { g with seen := [⟨3, 0x101000, 8, true, false⟩] }

theorem witness_FencesAndPrefetch :
    (one.issuing ∧ one.parkedOp one.cur.gid one.cur.b = none ∧ (∀ o ∈ one.ops, o.2.parked = true)) ∧
    (counted.issuing ∧ counted.parkedOp counted.cur.gid counted.cur.b = none ∧ (9, inFlight) ∈ counted.ops ∧ inFlight.gid = counted.cur.gid ∧
      inFlight.chA = true ∧ inFlight.parked = false ∧ inFlight.stores = true ∧ inFlight.reads = true ∧ Ord.rel ≠ .acq) ∧
    (9, unread) ∈ reading.ops ∧ unread.reads = true ∧ unread.out ≠ 0 ∧ unread.got.length < unread.spans.length ∧
    (∀ e ∈ seer.g.seen, e.l1 = true ∨ seer.outstanding e.sid = false) ∧ seer.g.seen ≠ [] ∧
    ¬ CapPasses capU [0] 0x1000 1 ∧ (one.look 0 1 0x1000 .load).2 = .error ⟨0x20, 1⟩ ∧
    (CapPasses capT [0] 0x1000 1 ∧ (inHbm.look 0 1 0x1000 .load).2 = .ok ⟨0x101000, ⟨0, 0, true, .ca⟩⟩ ∧
      (let x := (inHbm.look 0 1 0x1000 .load).1
       x.issuing ∧ (x.core x.c).framesUsed 0x1000 < 8 ∧ x.parkedOp x.cur.gid x.cur.b = none ∧ 0 < (x.core x.c).cacheBanks ∧ (x.core x.c).line x.g.asid 0x1000 = none)) := by
  unfold CapPasses State.issuing
  and_intros <;> decide +kernel

/-- The word at 0x1000 is zero: EQ with s3 holds and EQ with s1 does not, and die 0 has monitor entries free. -/
theorem witness_WaitingOnWords : inHbm.issuing ∧ viaCap (.c 1) ∧
    passes inHbm { cap := capT, acc := .load, align := true, extra := none, target := .word, lanes := [⟨0, 0x1000, 4, .poll⟩]
                   mask := inHbm.act, once := true, cp := .sl, ord := .plain, sc := .grp, fin := .none, waits := false } = true ∧
    (inHbm.homeReady (dieOf inHbm.c) 0x101000 4).2 = true ∧
    (let h := (inHbm.homeReady (dieOf inHbm.c) 0x101000 4).1
     h.issuing ∧ cmpInt .eq (sNum .i32 (BitVec.ofNat 64 (h.readNat 0x101000 4))) (sNum .i32 (h.g.sreg 3)) ∧
       ¬ cmpInt .eq (sNum .i32 (BitVec.ofNat 64 (h.readNat 0x101000 4))) (sNum .i32 (h.g.sreg 1)) ∧
       ((h.die 0).monitors.filter fun e => e.slice == monSlice 0x101000).length < 1024) := by
  unfold cmpInt State.issuing
  and_intros <;> first | decide +kernel | trivial

/-- A barrier that expects five arrivals. -/
def expecting : State := { inCmem' with mem := inCmem'.mem ++ [(0x10000001008, 5)] }

theorem witness_Barriers : inCmem'.issuing ∧ inCmem'.p.phase = none ∧
    passes (spent inCmem') (objectOp capT 16 inCmem'.act (.barrier false) .plain .grp) = true ∧
    passes (spent inCmem') (objectOp capT 16 inCmem'.act (.barrier true) .rel .pkg) = true ∧
    passes inCmem' (objectOp capT 16 inCmem'.act (.barrier false) .plain .grp) = true ∧
    passes (spent expecting) (objectOp capT 16 inCmem'.act (.barrier false) .rel .grp) = true ∧
    inCmem'.readNat 0x10000001008 4 ≤ (inCmem'.readNat 0x10000001000 4 + 1) % 2 ^ 32 ∧
    ¬ expecting.readNat 0x10000001008 4 ≤ (expecting.readNat 0x10000001000 4 + 1) % 2 ^ 32 ∧
    (0 + 2 ^ 32 - (inCmem'.g.sreg 2).toNat % 2 ^ 32) % 2 ^ 32 = 1 ∧ ¬ 1 ≤ (0 + 2 ^ 32 - (inCmem'.g.sreg 3).toNat % 2 ^ 32) % 2 ^ 32 ∧
    inCmem'.recordsMet 0x10000001000 16 = [] ∧ (inCmem'.g.sreg 3).toNat = 0 ∧ 0 < (inCmem'.g.sreg 1).toNat ∧
    (inCmem'.g.sreg 1).toNat < 2 ^ 32 ∧ 2 ^ 32 ≤ (inCmem'.g.sreg 2).toNat ∧ inCmem'.readNat 0x1000000100C 2 < 65535 := by
  and_intros <;> first | decide +kernel | rfl

/-! Allowance counters: the core holds nothing, or five units of the record at 0x101000. -/

def ctrOp (ord : Ord) (pair : Bool) : MemOp :=
  { cap := capT, acc := .atomic, align := true, extra := none, target := .counter, lanes := [⟨0, capT.cursor, 64, .load⟩]
    mask := inHbm.act, once := true, cp := .ca, ord := ord, sc := .pkg, fin := .status 9 pair }

def holder : State := { inHbm with cores := [(0, { allow := [⟨1, 0x1000, 0x101000, 5⟩] })] }
def asking : State := { inHbm with cores := [(0, { areqs := [(0x101000, 4)] })] }

theorem witness_AllowanceInstructions : inHbm.issuing ∧ passes inHbm (ctrOp .plain false) = true ∧ passes (spent inHbm) (ctrOp .rel false) = true ∧ passes holder (ctrOp .acq true) = true ∧
    (holder.core holder.c).allowAt holder.g.asid 0x1000 = some ⟨1, 0x1000, 0x101000, 5⟩ ∧ (inHbm.g.sreg 3).toNat = 0 ∧
    0 < (holder.g.sreg 1).toNat ∧ (holder.g.sreg 1).toNat ≤ (5 : W64).toNat ∧ 0 < (inHbm.g.sreg 1).toNat ∧ (inHbm.core inHbm.c).areqs = [] ∧
    (asking.issuing ∧ passes asking (ctrOp .plain false) = true ∧ ∃ x ∈ (asking.core asking.c).areqs, x.1 = 0x101000) := by
  and_intros <;> first | decide +kernel | rfl

/-! ### Witnesses: tasks -/

/-- Memory holds these bytes, and the context of address space 1. -/
def holding (m : List (Nat × Byte)) (s : State) : State := { s with mem := (withSpace one).mem ++ m }

/-- The cell at 0x10000001000 is FULL. -/
def full' : State := holding [(0x10000001000, 1)] inCmem'

theorem witness_Futures : inCmem'.issuing ∧ passes inCmem' (objectOp capT 32 inCmem'.act (.object false) .plain .grp) = true ∧
    passes (spent full') (objectOp capT 32 full'.act (.object false) .plain .grp) = true ∧
    futSt inCmem' 0x10000001000 = 0 ∧ futSt full' 0x10000001000 = 1 ∧
    futSt (holding [(0x10000001000, 2)] inCmem') 0x10000001000 ≠ 1 ∧ futSt (holding [(0x10000001000, 2)] inCmem') 0x10000001000 ≠ 0 ∧
    inCmem'.recordsMet 0x10000001000 32 = [] ∧ futWaits inCmem' 0x10000001000 < 65535 ∧
    (inCmem'.releaseAt inCmem'.cur.gid inCmem'.cur.b .pkg true).2 = true ∧
    (let s := { inCmem' with ops := [(9, inFlight)] }
     passes (spent s) (objectOp capT 32 s.act (.object false) .plain .grp) = true ∧ (s.releaseAt s.cur.gid s.cur.b .pkg true).2 = false) ∧
    ((capT.tag = true ∧ (inCmem'.futCell 0 1 capT).2 = .ok 0x10000001000 ∧ (inCmem'.futCell 0 1 capT).1.recordsMet 0x10000001000 32 = [] ∧
      futSt (inCmem'.futCell 0 1 capT).1 0x10000001000 = 0)) := by
  unfold State.issuing
  and_intros <;> decide +kernel

/-- The first byte of the window, a closure's ENTRY, names no entry. -/
def badEntry : State := { one with cores := [(0, { loc := [(0x40000, 1)] })] }

/-- The issuing group's kernel started early, before kernel 6, which is over or not. -/
def early (done : Bool) : State :=
  { one with launches := [(6, { kernel with done := done }), (7, { kernel with early := true, pred := some 6 })] }

theorem witness_TasksStartAndEnd :
    (one.issuing ∧ one.g.scrSize < 129 + 128 ∧ 8 + 128 ≤ one.g.scrSize ∧ 8 % 128 ≠ 0 ∧ 128 + 128 ≤ one.g.scrSize ∧ 128 % 128 = 0) ∧
    (badEntry.issuing ∧ badClosure (natOf (badEntry.scrRead badEntry.cur.gid 0 128)) 1 = true) ∧
    (badClosure (natOf (one.scrRead one.cur.gid 0 128)) 1 = false ∧ one.scrTag one.cur.gid 16 = false ∧
      (let u := (spent one).releaseAt one.cur.gid one.cur.b .core true
       u.2 = true ∧ (u.1.core u.1.c).deque.length < 2048)) ∧
    ((spent counted).releaseAt counted.cur.gid counted.cur.b .core true).2 = false ∧
    (counted.issuing ∧ (9, inFlight) ∈ counted.ops ∧ inFlight.gid = counted.cur.gid ∧ inFlight.parked = false ∧ ∀ g ∈ counted.groups, g.2.ending = none) ∧
    ((∀ o ∈ one.ops, o.2.gid = one.cur.gid → o.2.parked = true) ∧ (∀ g ∈ one.groups, g.2.ending = none) ∧ one.g.fut.tag = false ∧
      (∀ e ∈ one.g.seen, one.outstanding e.sid = false) ∧ (∀ l ∈ (one.core one.c).lines, l.lease = false) ∧
      one.lretInFlight one.c = false ∧ ∀ g ∈ (one.die (dieOf one.c)).guests, g.dirty = 0) ∧
    (one.launchOf one.g = some kernel ∧ kernel.early = false ∧ kernel.pred = none) ∧
    (∀ d, (early d).issuing ∧ (early d).launchOf (early d).g = some { kernel with early := true, pred := some 6 } ∧
      Store.find (early d).launches 6 = some { kernel with done := d }) := by
  unfold State.issuing
  and_intros <;> decide +kernel

/-- A feed queue of 4 records at 0x10000001000: empty, with one record, full, closed. -/
def feedOf (m : List (Nat × Byte)) : State := holding m inCmem'
def emptyFeed : State := feedOf [(0x10000001010, 2)]
def oneFeed : State := feedOf [(0x10000001008, 1), (0x10000001010, 2)]
def fullFeed : State := feedOf [(0x10000001008, 4), (0x10000001010, 2)]
def closedFeed : State := feedOf [(0x10000001010, 2), (0x10000001011, 1)]

theorem witness_FeedsAndRegrouping :
    (inCmem'.issuing ∧ ((inCmem'.g.sreg 3).toNat + 64 ≤ inCmem'.g.scrSize ∧ (inCmem'.g.sreg 3).toNat % 64 = 0) ∧ windowFits inCmem' ∧
      192 + 64 ≤ inCmem'.g.scrSize ∧ 192 % 64 = 0 ∧ (inCmem'.feed 0x10000001000).valid = false) ∧
    (∀ s ∈ [emptyFeed, oneFeed, fullFeed, closedFeed], (s.feed 0x10000001000).valid = true ∧ s.recordsMet 0x10000001000 64 = [] ∧
      passes (spent s) (objectOp capT 64 s.act (.object false) .plain .grp) = true) ∧
    (emptyFeed.readNat 0x10000001000 8 = emptyFeed.readNat 0x10000001008 8 ∧ (emptyFeed.feed 0x10000001000).closed = false ∧
      emptyFeed.readNat 0x10000001012 2 < 65535) ∧
    (oneFeed.readNat 0x10000001000 8 ≠ oneFeed.readNat 0x10000001008 8 ∧
      oneFeed.recordsMet (feedRecord 0x10000001000 (oneFeed.feed 0x10000001000).capl 1) 64 = [] ∧
      (oneFeed.releaseAt oneFeed.cur.gid oneFeed.cur.b .pkg true).2 = true) ∧
    ((fullFeed.readNat 0x10000001008 8 + 2 ^ 64 - fullFeed.readNat 0x10000001000 8) % 2 ^ 64 = 2 ^ (fullFeed.feed 0x10000001000).capl ∧
      (fullFeed.feed 0x10000001000).closed = false) ∧
    (closedFeed.feed 0x10000001000).closed = true ∧
    (passes (spent inCmem') (objectOp capT 16 inCmem'.act (.object true) .plain .grp) = true ∧ inCmem'.readNat 0x10000001000 2 ≤ 1 ∧
      inCmem'.readNat 0x10000001000 2 = 0 ∧ inCmem'.q.live = false ∧ inCmem'.g.pa.stack = [] ∧ inCmem'.g.pb.stack = [] ∧
      (∀ o ∈ inCmem'.ops, o.2.gid ≠ inCmem'.cur.gid) ∧ inCmem'.g.regroup = none) ∧
    (let s : State := { inCmem' with ops := [(9, inFlight)] }
     passes (spent s) (objectOp capT 16 inCmem'.act (.object true) .plain .grp) = true ∧ s.charging = true) ∧
    1 < (holding [(0x10000001000, 2)] inCmem').readNat 0x10000001000 2 ∧
    (let s := mapIn both cmem
     s.issuing ∧ passes (spent s) (objectOp capT 16 s.act (.object true) .plain .grp) = true ∧
      ¬ ((s.q.live = false ∨ s.q.wait = .reconv) ∧ s.g.pa.stack = [] ∧ s.g.pb.stack = [])) := by
  unfold State.issuing windowFits
  and_intros <;> decide +kernel

/-! ### Witnesses: the matrix unit -/

/-- Format slot 0 with BF16 operands at precision 8, K = 16, and no scales (14 Table 14.1); the same block in s8 to s11. -/
def block16 : Nat := 0x804 + 0x804 * 2 ^ 64
/-- The same with scales of A at offset 1000, beyond the window. -/
def blockFar : Nat := 0x40804 + 0x804 * 2 ^ 64 + 1000 * 2 ^ 128

def fmtState (n : Nat) (lane : W32) : State :=
  with_ fun g => { g with
    fmts := [(0, BitVec.ofNat 256 n)], vregs := [(1, mkLanes fun _ => lane)], sregs := [(3, 1), (4, 2), (8, 0x804), (9, 0x804)] }

theorem witness_MatrixUnit :
    (one.issuing ∧ one.parkedOp one.cur.gid one.cur.b = none ∧ one.g.fmtAt 0 = none ∧ fmtSlot 0 = none ∧ fmtSlot block16 ≠ none) ∧
    (let s := fmtState block16 0
     s.issuing ∧ s.g.fmtAt 0 = fmtSlot block16 ∧ (fmtSlot block16).map (·.k) = some 16 ∧ s.g.tobCnt ≤ (s.g.sreg 4).toNat ∧
      (s.g.sreg 3).toNat < s.g.tobCnt ∧ 8 * 16 ≤ (4#8).toNat * (32 * 1) ∧ (3#8).toNat * (32 * 1) < 8 * 16 ∧ s.sel ⟨0, true⟩ = 0 ∧
      s.sel ⟨0, false⟩ ≠ 0 ∧ ETy.pair .f32 = false ∧ slotsFit s ∧ quarter s ⟨0, false⟩ 3 ∧ (∀ q, ¬ quarter s ⟨0, true⟩ q) ∧
      (∀ x, ¬ (s.g.tobCnt ≤ x ∧ ∃ q, quarter s ⟨0, false⟩ q ∧ (x = slotA s 1 q ∨ x = slotB s 1 q)))) ∧
    (let s := fmtState block16 5
     s.issuing ∧ least (fun x => s.g.tobCnt ≤ x ∧ ∃ q, quarter s ⟨0, false⟩ q ∧ (x = slotA s 1 q ∨ x = slotB s 1 q)) 5) ∧
    (let s := fmtState blockFar 0
     s.issuing ∧ (s.g.fmtAt 0).map (fun f => (f.a.sce, f.a.scl, f.b.sce, f.k / f.bl)) = some (true, 1000, false, 1) ∧
      least (fun x => s.g.scrSize ≤ x ∧ ∃ q, quarter s ⟨0, false⟩ q ∧ 1000 + 8 * q * 1 ≤ x ∧ x < 1000 + (8 * q + 8) * 1) 1000) := by
  have low (n : Nat) (q : Nat) (h : q < 4) : slotA (fmtState n 0) 1 q = 0 ∧ slotB (fmtState n 0) 1 q = 0 := by
    have v : ((fmtState n 0).g.vreg 1).at (8 * q) = 0 := by interval_cases q <;> rfl
    unfold slotA slotB
    rw [v]
    exact ⟨rfl, rfl⟩
  have five (q : Nat) (h : q < 4) : slotA (fmtState block16 5) 1 q = 5 ∧ slotB (fmtState block16 5) 1 q = 0 := by
    interval_cases q <;> exact ⟨rfl, rfl⟩
  unfold slotsFit quarter least
  and_intros
  all_goals try first | rfl | decide +kernel | exact ⟨0, by decide +kernel⟩
  · rintro q ⟨h, h', _⟩
    interval_cases q <;> exact absurd h' (by decide +kernel)
  · rintro x ⟨h, q, ⟨hq, _⟩, e⟩
    have h2 : 2 ≤ x := h
    rw [(low _ q hq).1, (low _ q hq).2] at e
    omega
  · rintro y ⟨h, q, ⟨hq, _⟩, e⟩
    have h2 : 2 ≤ y := h
    rw [(five q hq).1, (five q hq).2] at e
    omega
  · rintro y ⟨h, q, _, h1, h2⟩
    omega

theorem witness_MatrixArithmetic : 7 < 8 ∧ (⟨.int true 8, 8, 0, false, 0⟩ : Side).ef = .int true 8 ∧ (8 : Nat) % 16 = 8 ∧ 7 % 16 ≠ 8 ∧
    fmtPrec bf16 ≤ 8 ∧ 4 < fmtPrec bf16 ∧ (∃ s m e st, decodeBase bf16 0x3F80 = .fin s m e st) ∧ (0xFE : Nat) < 0xFF ∧
    finVal (zeroVal false) ∧ zeroTimesInf [(zeroVal false, .inf true)] 128 128 ∧ ¬ zeroTimesInf [(.nan true, zeroVal false)] 128 128 ∧
    (∃ x ∈ [(Val.nan true, zeroVal false)], isNan x.1 = true ∨ isNan x.2 = true) ∧
    ∀ x ∈ [(Val.nan true, zeroVal false)], isInf x.1 = false ∧ isInf x.2 = false := by
  unfold zeroTimesInf
  and_intros <;> first | decide +kernel | rfl | exact ⟨_, _, _, _, rfl⟩

/-! ### Witnesses: engines and the exchange -/

/-- A command of context 2. -/
def command (n : Nat) : Cmd :=
  { ctx := 2, n := n, gid := 1, token := some 9, ins := .cpy false 9 2 1 2 3, caps := [capT, capT], args := [16], regs := [], asid := 1
    launch := 7, scrBase := 0, scrSize := 256, tobBase := 0, tobCnt := 2, status := 0, eaddr := 0, skip := false, started := false, done := false }

def withCore (c : Core) : State := { one with cores := [(0, c)] }

/-- Context 2 full; its last number given; stores in flight, which the release waits for; an accumulator still to be written. -/
def crowded : State := withCore { cmds := (List.range 64).map command }
def spentCtx : State := withCore { ctxs := [(2, { issue := 2 ^ 62 - 1 })] }
def accumulating : State := { one with ops := [(9, { inFlight with writes := [.v 16 0xFFFFFFFF (mkLanes fun _ => 0)] })] }

/-- An acquire load that is not yet performed, and a matrix operation in flight. -/
def acquiringNow : State := { one with ops := [(9, { inFlight with acq := some .die })] }
def nearBusy : State := { one with ops := [(9, { inFlight with reads := false, stores := false })] }

theorem witness_CommandIssue :
    (one.issuing ∧ (one.releaseAt one.cur.gid one.cur.b .die false).2 = true ∧ (one.core one.c).liveCmds 2 < 64 ∧ one.acquiring = false ∧
      ((one.core one.c).ctx 2).issue + 1 ≠ 2 ^ 62 ∧ (one.g.sreg 1).toNat ≤ 2 ^ 32 ∧ 2 ^ 32 < (one.g.sreg 2).toNat ∧
      ¬ ∃ o ∈ one.ops, o.2.gid = one.cur.gid) ∧
    (crowded.issuing ∧ 64 ≤ (crowded.core crowded.c).liveCmds 2) ∧ (acquiringNow.issuing ∧ acquiringNow.acquiring = true) ∧
    (spentCtx.issuing ∧ (spentCtx.core spentCtx.c).liveCmds 2 < 64 ∧ spentCtx.acquiring = false ∧
      ((spentCtx.core spentCtx.c).ctx 2).issue + 1 = 2 ^ 62) ∧
    (counted.issuing ∧ (counted.core counted.c).liveCmds 2 < 64 ∧ counted.acquiring = false ∧
      (counted.releaseAt counted.cur.gid counted.cur.b .die false).2 = false) ∧
    (nearBusy.issuing ∧ ∃ o ∈ nearBusy.ops, o.2.gid = nearBusy.cur.gid ∧ o.2.parked = false ∧ o.2.reads = false ∧ o.2.stores = false) ∧
    (accumulating.issuing ∧ ∃ o ∈ accumulating.ops, o.2.gid = accumulating.cur.gid ∧ o.2.chA = true ∧
      ∃ r ∈ o.2.pendingV, (16 : Nat) ≤ r ∧ r < 16 + 8) := by
  unfold State.issuing
  and_intros <;> decide +kernel

theorem witness_EngineContexts :
    (let s := withCore { ctxs := [(2, { issue := 5, tl := 3 })] }
     s.issuing ∧ 5 - 2 ≤ ((s.core s.c).ctx 2).tl ∧ ((s.core s.c).ctx 2).ev = false ∧ ((s.core s.c).ctx 2).tl < 5 - 1) ∧
    (let s := withCore { ctxs := [(2, { issue := 5, tl := 3, ev := true, enum := 3 })] }
     s.issuing ∧ 5 - 2 ≤ ((s.core s.c).ctx 2).tl ∧ ((s.core s.c).ctx 2).ev = true ∧ ((s.core s.c).ctx 2).enum ≤ 5 - 2) := by
  unfold State.issuing
  decide

/-- Die 0's contexts; the descriptor at 0x1000 reads as zeros, and its identifier is 0. -/
def exch (l : List XCtx) : State :=
  { inCmem' with dies := inCmem'.dies.map fun d => (d.1, { d.2 with xctxs := l }) }
def xround (ended : Bool) : XCtx := { xid := 0, endpoint := true, round := 1, active := true, ended := ended }

/-- The state in which the path goes on when it has read the identifier. -/
def readAt (s : State) : State := s.readXid 1 fun u _ => u

/-- Reading the identifier ends in what follows it, or in a state of its own. -/
theorem readXid_cases (s : State) (a : CReg) :
    (∃ u x, ∀ act, s.readXid a act = act u x) ∨ ∃ v, ∀ act, s.readXid a act = v := by
  unfold State.readXid
  dsimp only
  split
  · exact .inr ⟨_, fun _ => rfl⟩
  · split
    · exact .inr ⟨_, fun _ => rfl⟩
    · split
      · exact .inr ⟨_, fun _ => rfl⟩
      · split
        · exact .inr ⟨_, fun _ => rfl⟩
        · exact .inl ⟨_, _, fun _ => rfl⟩

/-- The identifier is read as 0. -/
theorem reads_zero (s : State) (h1 : (s.readXid 1 fun u _ => { u with fresh := 1 }).fresh = 1)
    (h2 : (s.readXid 1 fun u _ => { u with fresh := 2 }).fresh = 2)
    (h3 : (s.readXid 1 fun u x => { u with fresh := x.toNat }).fresh = 0) : ReadsXid s 1 (readAt s) 0 := by
  obtain ⟨u, x, h⟩ | ⟨v, h⟩ := readXid_cases s 1
  · intro act
    have e : readAt s = u := h _
    rw [h] at h3
    have z : x = 0 := BitVec.eq_of_toNat_eq (by simpa using h3)
    rw [h, e, z]
  · rw [h] at h1 h2
    omega

def eight : List XCtx := (List.range 8).map fun i => { xid := BitVec.ofNat 64 (i + 1), endpoint := true }

theorem witness_ExchangeInstructions :
    (∀ l ∈ [[], eight, [xround false], [xround true], [{ xround false with xsend := some (0, 2, 1) }]],
      ReadsXid (exch l) 1 (readAt (exch l)) 0 ∧ ReadsXid (spent (exch l)) 1 (readAt (spent (exch l))) 0) ∧
    (∀ l ∈ [[], eight, [xround false], [xround true], [{ xround false with xsend := some (0, 2, 1) }]],
      let v := readAt (spent (exch l))
      v.issuing ∧ v.cur = (exch l).cur ∧ v.g = (spent (exch l)).g ∧ (v.core v.c).liveCmds 2 < 64 ∧ v.acquiring = false ∧ ((v.core v.c).ctx 2).issue + 1 ≠ 2 ^ 62 ∧
        ((v.releaseAt v.cur.gid v.cur.b .dom false).2 = true) ∧ (readAt (exch l)).issuing) ∧
    (let v := readAt (spent (exch []))
     v.xctx 0 0 = none ∧ (v.die 0).xctxs.length < 8 ∧ (v.releaseAt v.cur.gid v.cur.b .dom false).2 = true ∧
       let u := (v.releaseAt v.cur.gid v.cur.b .dom false).1
       u.releaseAt v.cur.gid v.cur.b .die false = (u, true)) ∧
    ((readAt (spent (exch eight))).xctx 0 0 = none ∧ 8 ≤ ((readAt (spent (exch eight))).die 0).xctxs.length) ∧
    ((readAt (exch [xround false])).xctx 0 0 = some (xround false) ∧ (xround false).isOpen = true ∧ (xround false).round ≠ 0 ∧
      (xround false).xsend = none ∧ (xround false).acts = none) ∧
    ((readAt (exch [xround true])).xctx 0 0 = some (xround true) ∧ (xround true).isOpen = false ∧ (xround true).ended = true) ∧
    ({ xround false with xsend := some (0, 2, 1) } : XCtx).xsend.isSome = true := by
  unfold State.issuing
  refine ⟨fun l h => ?_, ?_⟩
  swap
  · and_intros <;> decide +kernel
  simp only [List.mem_cons, List.not_mem_nil, or_false] at h
  rcases h with rfl | rfl | rfl | rfl | rfl <;>
    exact ⟨reads_zero _ (by decide +kernel) (by decide +kernel) (by decide +kernel),
      reads_zero _ (by decide +kernel) (by decide +kernel) (by decide +kernel)⟩

/-! ### Witnesses: objects in common memory, with nothing in the way -/

/-- The object that c1 names. -/
def cellT : Trans := ⟨0x10000001000, ⟨1, 0, true, .ca⟩⟩

theorem mapped_cell (s : State) (acc : Acc) (h : (s.die 0).cached 1 0x1000 = some ⟨1, 1, 0, 0, 0x5000, BitVec.ofNat 128 cmem⟩)
    (f : (Pte.ofNat (BitVec.ofNat 128 cmem).toNat).checkLeaf s.pkg (s.partOf 1) 0 acc = none) : Mapped s 0 1 0x1000 acc cellT :=
  ⟨_, h, f, fun _ => by decide +kernel, by decide +kernel, by decide +kernel, rfl⟩

theorem reaches_cell (s : State) (perms : List Nat) (acc : Acc) (n : Nat) (hc : dieOf s.c = 0) (ha : s.g.asid = 1)
    (h : (s.die 0).cached 1 0x1000 = some ⟨1, 1, 0, 0, 0x5000, BitVec.ofNat 128 cmem⟩)
    (f : (Pte.ofNat (BitVec.ofNat 128 cmem).toNat).checkLeaf s.pkg (s.partOf 1) 0 acc = none)
    (g : (capT.tag = true ∧ capT.bounds.base ≤ 0x1000 ∧ ((0x1000 + n : Nat) : Int) ≤ capT.bounds.top ∧ 0x1000 + n ≤ 2 ^ 57 ∧
      ∀ b ∈ perms, capT.bits.getLsbD (57 + b) = true) ∧ 0x1000 % n = 0 ∧
      (∀ k, k < n → mtOf (localOf (0x10000001000 + k)) = some 1 ∧ homeDie (0x10000001000 + k) = homeDie 0x10000001000) ∧
      s.poisoned 0x10000001000 n = false ∧ s.recordsMet 0x10000001000 n = []) : Reaches s capT perms acc 0x1000 n 0x10000001000 :=
  ⟨g.1, g.2.1, ⟨cellT, by rw [hc, ha]; exact mapped_cell s acc h f, rfl⟩, g.2.2.1, g.2.2.2⟩

/-- The states of the barriers, the futures, the queues and the word that c1 names. -/
def clear : List State := [inCmem', expecting, full', emptyFeed, oneFeed, fullFeed, closedFeed, mapIn both cmem]

theorem witness_Calm : ∀ s ∈ clear, Calm s ∧ Settled s ∧ Reaches s (s.g.creg 1) [0] .load (addr s (.c 1) 0 0) 4 0x10000001000 ∧
    ∀ n ∈ [16, 32, 64], Reaches s (s.g.creg 1) [0, 1, 2] .atomic (s.g.creg 1).cursor n 0x10000001000 := by
  intro s h
  have e : s.p.wait = .none ∧ s.ops = [] ∧ s.g.seen = [] ∧ s.agenda = [] ∧ dieOf s.c = 0 ∧ s.g.asid = 1 ∧ s.g.creg 1 = capT ∧
      addr s (.c 1) 0 0 = 0x1000 ∧ capT.cursor = 0x1000 ∧ s.pkg = 0 ∧ s.partOf 1 = 0 ∧
      (s.die 0).cached 1 0x1000 = some ⟨1, 1, 0, 0, 0x5000, BitVec.ofNat 128 cmem⟩ ∧ s.poison = [] ∧ (s.die 0).pinned = [] ∧
      (s.core s.c).lines = [] ∧ s.lretInFlight s.c = false ∧ (s.die 0).guests = [] := by decide +revert +kernel
  obtain ⟨e1, e2, e3, e4, e5, e6, e7, e8, e9, e10, e11, e12, e13, e14, e15, e16, e17⟩ := e
  have d : homeDie 0x10000001000 = 0 := by decide +kernel
  refine ⟨⟨e1, by simp [e2], e3, by simp [e4]⟩, ⟨by simp [e15], e16, by simp [e5, e17]⟩, ?_, fun n hn => ?_⟩
  · rw [e7, e8]
    refine reaches_cell s _ _ _ e5 e6 e12 (by rw [e10, e11]; decide +kernel) ⟨by decide +kernel, by decide, by decide +kernel, ?_, ?_⟩
    · simp [State.poisoned, e13]
    · simp [State.recordsMet, d, e14]
  · rw [e7, e9]
    refine reaches_cell s _ _ _ e5 e6 e12 (by rw [e10, e11]; decide +kernel)
      ⟨by decide +revert +kernel, by decide +revert, by decide +revert +kernel, ?_, ?_⟩
    · simp [State.poisoned, e13]
    · simp [State.recordsMet, d, e14]

/-- Each case of the objects: phases and counts, empty and full cells, the queues, the word, and the regroup cell. -/
theorem witness_Clear :
    (inCmem'.readNat 0x10000001008 4 ≤ (inCmem'.readNat 0x10000001000 4 + 1) % 2 ^ 32 ∧
      ¬ expecting.readNat 0x10000001008 4 ≤ (expecting.readNat 0x10000001000 4 + 1) % 2 ^ 32 ∧ expecting.readNat 0x1000000100C 2 < 65535 ∧
      inCmem'.p.phase = none ∧ expecting.p.phase = none) ∧
    (futSt inCmem' 0x10000001000 = 0 ∧ futSt full' 0x10000001000 = 1) ∧
    (∀ s ∈ [emptyFeed, oneFeed, fullFeed, closedFeed], (s.feed 0x10000001000).valid = true ∧ windowFits s ∧
      (s.g.sreg 3).toNat + 64 ≤ s.g.scrSize ∧ (s.g.sreg 3).toNat % 64 = 0) ∧
    (let s := mapIn both cmem
     s.issuing ∧ homeDie 0x10000001000 = dieOf s.c ∧ ¬ ((s.q.live = false ∨ s.q.wait = .reconv) ∧ s.g.pa.stack = [] ∧ s.g.pb.stack = [])) ∧
    (cmpInt .eq (sNum .i32 (BitVec.ofNat 64 (inCmem'.readNat 0x10000001000 4))) (sNum .i32 (inCmem'.g.sreg 3)) ∧
      ¬ cmpInt .eq (sNum .i32 (BitVec.ofNat 64 (inCmem'.readNat 0x10000001000 4))) (sNum .i32 (inCmem'.g.sreg 1)) ∧
      ((inCmem'.die (homeDie 0x10000001000)).monitors.filter fun e => e.slice == monSlice 0x10000001000).length < 1024) := by
  unfold cmpInt State.issuing windowFits
  and_intros <;> decide +kernel

/-! ### Witnesses: traps, special registers, flushes -/

theorem witness_SpecialRegisters : one.issuing ∧ Sr.cause ≠ .laneid ∧ Sr.cause ≠ .fut ∧ Sr.cycle ≠ .laneid ∧ Sr.grpid = .grpid := by
  unfold State.issuing
  decide

/-- A frame of a replay cause, taken at 0x8020. -/
def frameT : Frame := { left := 2, seta := 0, setb := 0, loops := [], mask := 1, epc := 0x8020, replays := true, phase := none }

/-- The issuing path, or the other one, in its handler. -/
def handling (epc : W64) : State := with_ fun g => { g with pa := { path with frame := some frameT }, epc := epc }
def otherHandles : State := with_ fun g => { g with pb := { path with frame := some frameT } }

theorem witness_TrapEntry :
    hasHandler one 1 0x8000 ∧ one.cur.gid = 1 ∧ ((0x30 = 0x30 ∨ 0x30 = 0x40 ∨ 0x30 = 0x58)) ∧ ¬ (0x10 = 0x30 ∨ 0x10 = 0x40 ∨ 0x10 = 0x58) ∧
    ((otherHandles.grp 1).debug = false ∧ ((otherHandles.grp 1).path false).frame = none ∧
      ((otherHandles.grp 1).path (!false)).frame.isSome = true) ∧
    (let s : State := { handling 0x8020 with ops := [(9, inFlight)] }
     Store.find s.launches (s.grp 1).launch = some kernel ∧ (s.grp 1).debug = false ∧ (s.grp 1).ending = none ∧
      ((s.grp 1).path false).frame.isSome = true ∧ ((9, inFlight) ∈ s.ops ∧ inFlight.gid = 1 ∧ inFlight.parked = false) ∧
      ∀ x ∈ s.groups, x.2.ending = none) := by
  unfold hasHandler
  and_intros
  all_goals first
    | decide +kernel
    | exact ⟨kernel, ⟨0, 64, 32, 1, 256, 4096⟩, by and_intros <;> decide +kernel⟩

/-- A path in its handler, with sr.epc and s6 both holding `e`. -/
def inHandler (e : W64) : State := with_ fun g => { g with pa := { path with frame := some frameT }, epc := e, sregs := [(6, e)] }

theorem witness_HandlerReturn :
    (∀ e ∈ [(0x8020 : W64), 0x8028], (inHandler e).issuing ∧ (inHandler e).p.frame = some frameT ∧
      (inHandler e).g.sreg 6 = (inHandler e).g.epc ∧ (inHandler e).g.epc.toNat < 2 ^ 57 ∧ (inHandler e).q.held = none) ∧
    (inHandler 0x8020).g.epc = frameT.epc ∧ (inHandler 0x8028).g.epc ≠ frameT.epc := by
  unfold State.issuing
  refine ⟨fun e h => ?_, by decide, by decide⟩
  simp only [List.mem_cons, List.not_mem_nil, or_false] at h
  rcases h with rfl | rfl <;> decide

/-- PHINT with the whole window and with more; lengths of 0, of the whole object, and beyond it. -/
theorem witness_HintsAndFlushes : one.issuing ∧ 128 * (2#16).toNat ≤ one.g.scrSize ∧ one.g.scrSize < 128 * (3#16).toNat ∧ capU.tag = false ∧
    capT.tag = true ∧ (one.g.sreg 3).toNat = 0 ∧ 0 < (one.g.sreg 5).toNat ∧
    (capT.bounds.base ≤ capT.cursor ∧ ((capT.cursor + (one.g.sreg 5).toNat : Nat) : Int) ≤ capT.bounds.top ∧
      capT.cursor + (one.g.sreg 5).toNat ≤ 2 ^ 57) ∧
    ¬ ((capT.cursor + (one.g.sreg 6).toNat : Nat) : Int) ≤ capT.bounds.top := by
  unfold State.issuing
  decide

/-! ### Witnesses: encodings and the step -/

theorem witness_DecodeOfEncode :
    (Instr.vld ⟨1, false⟩ .full .bf16 ⟨.plain, .grp, .ca⟩ 0 (.cv 2 4) (.short 0)).wf = true ∧
    encode (.vld ⟨1, false⟩ .full .bf16 ⟨.plain, .grp, .ca⟩ 0 (.cv 2 4) (.short 0)) = some 0x4038400100800248 := by
  decide

theorem witness_EncodeOfDecode : decode 0 = .ok .nop 8 ∧ (0x28 : BitVec 128).toNat % 4 < 3 ∧ ¬ assigned ((0x28 : BitVec 128).toNat / 4 % 256) ∧
    (0x28 : BitVec 128).toNat % 2 ^ 64 ≠ 0x3FC := by
  unfold assigned
  refine ⟨by rfl, by decide, by decide, by decide⟩

/-- The word at the program counter is in the instruction cache, and the path has the next turn. -/
def fetching (s : State) (w : Nat) : State :=
  { s with cores := [(0, { icache := [(1, 0x8020, BitVec.ofNat 256 w)] })], turns := [.path ⟨0, 0, false⟩] }

/-- The state in which a path's word is fetched. -/
def ready (s : State) (gid : Nat) (b : Bool) : State :=
  { ({ ({ s with time := s.time + 1 } : State).beat with turns := [] } : State).tick (s.grp gid).core with cur := ⟨gid, b⟩ }

/-- The drain of the accumulator at v16, which an operation has still to write (14 R367). -/
def drainWord : Nat := 0x000004844406038C
def drainT : Instr := .drain false false false 24 0 16 17 18

/-- Whether the path stalled in the state that the instruction leaves. -/
def stallsAfter (s : State) (i : Instr) (w : State) : Option Bool :=
  match exec i w with
  | .next t => some (stalled s t 1 false)
  | _ => none

/-- A store of the accumulator's first register, which takes the operation's result in its place (09 R226). -/
def storeAcc : Instr := .vst ⟨0, false⟩ .full .n32 ⟨.plain, .grp, .ca⟩ 16 (.c 1) (.short 0)

/-- The drain with its context full: its path holds the port (05 R130). -/
def crowdedDrain : State :=
  { fetching crowded drainWord with
    cores := [(0, { cmds := (List.range 64).map fun n => { command n with ctx := 0 }, icache := [(1, 0x8020, BitVec.ofNat 256 drainWord)] })] }

theorem witness_ForwardingAndHeldPort :
    (accumulating.feeders storeAcc ≠ [] ∧ accumulating.countStall storeAcc = false ∧ tokenStall accumulating.g storeAcc = false ∧
      (stallsAfter accumulating storeAcc (accumulating.forward storeAcc)).isSome = true) ∧
    (let x := ready crowdedDrain 1 false
     stallsAfter crowdedDrain drainT (x.fetchAt x.g.core x.g.asid kernel.code x.p.pc.toNat 8).1 = some true ∧ crowdedDrain.portHeld 1 false = true) := by
  decide +kernel

/-- A long word, whose second half is its extension. -/
def longWord : Nat := 0x000400000001C149

theorem witness_LongInstruction :
    let x := ready (fetching one (longWord + 0x1F00 * 2 ^ 64)) 1 false
    let u := (x.fetchAt x.g.core x.g.asid kernel.code x.p.pc.toNat 8).1
    codeLen longWord = 16 ∧ x.p.pc.toNat % 32 ≠ 24 ∧ u.extensionAt x.g.core x.g.asid x.p.pc.toNat = 0x1F00 ∧
      decode (BitVec.ofNat 128 (longWord + 0x1F00 * 2 ^ 64)) = .ok (.vli ⟨0, false⟩ .n32 7 0x1F00) 16 := by
  decide +kernel

theorem stallsAfter_next (s : State) (i : Instr) (w : State) (b : Bool) (h : stallsAfter s i w = some b) (t : State)
    (e : exec i w = .next t) : stalled s t 1 false = b := by
  unfold stallsAfter at h
  rw [e] at h
  exact Option.some.inj h

theorem witness_StepRunsDecoded :
    (∀ e ∈ [(one, 0, Instr.nop), (accumulating, drainWord, drainT)],
      let s := fetching e.1 e.2.1
      let x := ready s 1 false
      s.turns = .path ⟨0, 0, false⟩ :: [] ∧ s.portPaths 0 0 = [(1, false)] ∧ x.p.held = none ∧ x.launchOf x.g = some kernel ∧
        inBudget x.g.v x.g.s e.2.2 = true ∧ x.p.pc.toNat % 8 = 0 ∧ codeLen e.2.1 = 8 ∧ (e.2.1 % 4 = 3 → x.p.left = 0) ∧ 0 < x.p.left ∧
        tokenStall x.g e.2.2 = false ∧ (x.fetchAt x.g.core x.g.asid kernel.code x.p.pc.toNat 8).1.countStall e.2.2 = false ∧
        (x.fetchAt x.g.core x.g.asid kernel.code x.p.pc.toNat 8).1.p.replay ≠ some 0) ∧
    (let x := ready (fetching one 0) 1 false
     (x.fetchAt x.g.core x.g.asid kernel.code x.p.pc.toNat 8).2 = .ok (List.replicate 8 0) ∧ decode (BitVec.ofNat 128 0) = .ok .nop 8 ∧
       let w := (x.fetchAt x.g.core x.g.asid kernel.code x.p.pc.toNat 8).1
       ∀ t, exec .nop w = .next t → stalled (fetching one 0) t 1 false = false) ∧
    (let x := ready (fetching accumulating drainWord) 1 false
     (x.fetchAt x.g.core x.g.asid kernel.code x.p.pc.toNat 8).2 = .ok (bytesOf 8 drainWord) ∧ decode (BitVec.ofNat 128 drainWord) = .ok drainT 8 ∧
       let w := (x.fetchAt x.g.core x.g.asid kernel.code x.p.pc.toNat 8).1
       ∀ t, exec drainT w = .next t → stalled (fetching accumulating drainWord) t 1 false = true) ∧
    (let s : State := { one with turns := [.event 0], agenda := [.nop] }
     s.turns = .event 0 :: [] ∧ s.agenda[eventAt s.agenda 0]? = some .nop) := by
  exact ⟨by decide +kernel, ⟨by rfl, by rfl, stallsAfter_next _ _ _ _ (by decide +kernel)⟩,
    ⟨by rfl, by rfl, stallsAfter_next _ _ _ _ (by decide +kernel)⟩, by decide +kernel⟩

/-! ### Witnesses: translation -/

/-- What the context's record says. -/
def space : AsCtx := { ttb0 := 0x4001, ttb1 := 0, ttb2 := 0, ttb3 := 0, rhtb := 0, rhtn := 0, asid := 1, part := 0, resv := false }

/-- Tables at 0x4000, 0x8000, 0xC000 and 0x10000 lead from VA 0 to a leaf in HBM; and a leaf at T3, which has none. -/
def tables : State :=
  { holding [(0x4000, 1), (0x4002, 2), (0x8000, 1), (0x8002, 3), (0xC000, 1), (0xC002, 4), (0x10000, 0x83), (0x10001, 0x1F), (0x10002, 0x20),
      (0x10008, 0xF0), (0x10009, 0xFF), (0x1000A, 0x0F)] one with asids := [(1, 0x3000)] }
def topLeaf : State := { holding [(0x4000, 3)] one with asids := [(1, 0x3000)] }

/-- A shootdown of a page, for which path A of the group waits; nothing is left to do for it. -/
def shoot : Shoot := { sid := 4, asid := 1, lo := 0, hi := 0x8000, dies := [0], ops := [], drained := true, lines := [], gid := 1, b := false }
def shooting : State := { withPath fun p => { p with wait := .shootdown 4 } with shoots := [shoot] }

/-- A leaf at 0x5000 whose frame, 0x100000, has still to be zeroed. -/
def zeroing : State := holding [(0x5000, 3), (0x5001, 0x20), (0x5002, 0x20)] one

theorem witness_TranslationAndZeroing :
    WalksTo tables 1 0 0 hbm ∧ WalksTo topLeaf 1 0 3 3 ∧ 0 ≤ 2 ∧
    (badLeaf 0 0 (Pte.ofNat (leaf 5 0)) ∧ badLeaf 0 2 (Pte.ofNat cmem) ∧ badLeaf 0 1 (Pte.ofNat hbm)) ∧
    (¬ badLeaf 0 0 (Pte.ofNat hbm) ∧ (Pte.ofNat (hbm + 2 ^ 13)).zp = true ∧ ¬ badLeaf 0 0 (Pte.ofNat (hbm + 2 ^ 13)) ∧
      (Pte.ofNat (hbm + 2 ^ 64)).own ≠ 0 ∧ ¬ badLeaf 0 0 (Pte.ofNat (hbm + 2 ^ 64)) ∧ (Pte.ofNat (hbm + 3 * 2 ^ 5)).ord = 3 ∧
      ¬ badLeaf 0 0 (Pte.ofNat (hbm + 3 * 2 ^ 5)) ∧ refusesAcc (Pte.ofNat (hbm - 0x80)) .store ∧ refusesAcc (Pte.ofNat (hbm - 0x200)) .atomic ∧
      refusesAcc (Pte.ofNat (hbm - 0x100)) .fetch ∧ ¬ refusesAcc (Pte.ofNat hbm) .atomic) ∧
    ((tables.die 0).cached 1 0 = none ∧ (tables.die 0).tableFor 1 0 = none ∧ tables.dies = [] ∧ (Pte.ofNat hbm).zp = false ∧ (Pte.ofNat hbm).af = true ∧ (Pte.ofNat hbm).own = tables.partOf 1 ∧
      (Pte.ofNat hbm).ord ≠ 3 ∧ (Pte.ofNat hbm).df = true ∧ mtOf (localOf ((Pte.ofNat hbm).pa + 0)) ≠ none) ∧
    (shooting.shoots = [shoot] ∧ shooting.shootBusy shoot = false ∧ shooting.aretInFlight shoot.dies = false ∧
      (∀ d ∈ shooting.dies, ∀ g ∈ d.2.guests, g.dirty = 0) ∧
      (∀ c ∈ shooting.cores, ∀ e ∈ c.2.allow, ¬ (e.asid = shoot.asid ∧ shoot.lo ≤ e.va ∧ e.va < shoot.hi)) ∧ shoot.gid ≠ 0 ∧
      ((shooting.grp shoot.gid).path shoot.b).wait = .shootdown shoot.sid ∧ (Store.find shooting.groups shoot.gid).isSome = true) ∧
    (let n := zeroing.readNat 0x5000 16
     n % 4 = 3 ∧ (Pte.ofNat n).zp = true ∧ zeroing.recordsMet 0x5000 16 = [] ∧ zeroing.recordsIn (Pte.ofNat n).pa 0x8000 = [] ∧
       zeroing.recordsIn (zeroing.pkg * 2 ^ 43 + 2 ^ 40 + 7 * 2 ^ 26) (2 ^ 26) = [] ∧ 0x5000 + 16 ≤ (Pte.ofNat n).pa) ∧ 7 < 8 := by
  unfold WalksTo badLeaf refusesAcc pointsOn
  and_intros <;> decide +kernel

/-! ### Witnesses: the memory hierarchy -/

/-- A part of operation 9 at the line of HBM at 0x101000, whose home is die 0; core 32 is a core of die 1. -/
def part9 (core mt len : Nat) (act : Act) : Req :=
  { op := 9, lane := 0, part := 0, core := core, asid := 1, va := 0x1000, pa := 0x101000, len := len, page := ⟨mt, 0, true, .ca⟩, act := act
    rel := none, acq := none, early := false }

/-- Die `d` as given, with operation 9 in flight. -/
def atDie (d : Nat) (x : Die) : State := { counted with dies := [(d, x)] }

/-- A guest line of die 1 with all its bytes valid. -/
def guestLine (dirty : BitVec 128) : Guest := { pa := 0x101000, data := 5, valid := BitVec.allOnes 128, dirty := dirty, tags := 0 }
def guested : State := atDie 1 { guests := [guestLine 0] }

/-- Two entries for the halves of the lines at 0x101000; the first has a sharer. -/
def entryAt0 (sh : List Sharer) : DirEntry := ⟨sliceOf 0x101000, 0x101000, 7, 0, none, sh⟩
def shared : State := atDie 0 { dirs := [entryAt0 [⟨5, 1, 0x1000⟩]] }

theorem counted_noSharers : noSharers counted := fun _ => ⟨fun _ h => absurd h List.not_mem_nil, rfl⟩

/-- No lane of the links to other packages works. -/
def unlinked : State := { counted with plat := { counted.plat with linksDown := List.range 16 } }

theorem witness_MemoryEvents :
    (Store.find counted.ops 9 = some inFlight ∧ inFlight.out = 1 ∧ inFlight.parked = false ∧ 0 < 1 ∧ 16 ≤ 16 ∧ 0 < 32 ∧ 0 < 16) ∧
    (servedByGuest (dieOf 0) 0x101000 ⟨0, 0, true, .ca⟩ .ca = false ∧ counted.sliceReady (dieOf 0) 0x101000 16 false false = (counted, true) ∧
      counted.sliceReady (dieOf 0) 0x101000 16 false true = (counted, true) ∧ counted.recordsMet 0x101000 16 = [] ∧ noSharers counted ∧
      noneEnding counted) ∧
    ((part9 0 0 8 .load).act = .load ∧ (part9 0 0 8 .load).page.mt ≠ 2 ∧ (part9 0 2 8 .load).page.mt = 2 ∧
      (part9 0 0 16 (.loadCap true)).act = .loadCap true ∧ (part9 0 0 8 (.store (bytesOf 8 5))).act = .store (bytesOf 8 5) ∧
      (bytesOf 8 5).length = 8) ∧
    (servedByGuest (dieOf 32) 0x101000 ⟨0, 0, true, .ca⟩ .ca = true ∧ guested.guestHas (dieOf 32) 0x101000 16 = true ∧
      (linesOf 0x101000 16).any (guested.flushing (dieOf 32)) = false ∧ Store.find guested.ops 9 = some inFlight) ∧
    (mtOf (localOf 0x101000) = some 0 ∧ 0x101000 % 128 + 16 ≤ 128 ∧ (shared.die (homeDie 0x101000)).dirAt 0x101000 = some (entryAt0 [⟨5, 1, 0x1000⟩]) ∧
      shared.recordsMet 0x101000 16 = [] ∧ shared.sliceReady (dieOf 0) 0x101000 16 false true = (shared, true)) ∧
    (32 = 8 * (part9 0 0 4 (.rmw .fadd 32 5)).len ∧ 64 = 8 * (part9 0 1 8 (.rmw .pmaxs 64 5)).len ∧ (part9 0 1 8 (.rmw .pmaxs 64 5)).page.mt ≠ 0 ∧
      32 = 8 * (part9 0 0 4 (.cas 32 0 5)).len ∧ (counted.readNat 0x101000 4 = (0 : W64).toNat % 2 ^ 32) ∧
      ¬ counted.readNat 0x101000 4 = (1 : W64).toNat % 2 ^ 32) ∧
    (∃ x old, beats x old) ∧ (∃ x old, ¬ beats x old) ∧
    (fresh shared 0 0x101000 ∧ shared.outsideReady 0x101000 16 false = (shared, true) ∧ shared.outsideReady 0x101000 16 true = (shared, true) ∧
      guested.sliceReady (dieOf 32) 0x101000 16 true true = (guested, true)) ∧
    (1 < 8 ∧ 1024 * 9 + 512 + 16 * 0 + 1 = 9729 ∧ pkgOf 0x101000 = counted.pkg ∧ pkgOf (2 ^ 43 + 0x100000) ≠ counted.pkg ∧
      (counted.linkFor 0 (2 ^ 43 + 0x100000)).isSome = true ∧ unlinked.linkFor 0 (2 ^ 43 + 0x100000) = none) := by
  unfold noneEnding Claim.fresh beats
  and_intros
  all_goals first
    | exact counted_noSharers
    | decide +kernel
    | exact ⟨2 ^ 32, 0, by decide +kernel⟩
    | exact ⟨1, 0, by decide +kernel⟩

/-- The line of core 0 at 0x1000, of version 5. -/
def lineAt (pending lease : Bool) : Line :=
  { asid := 1, va := 0x1000, pa := 0x101000, data := 0, tags := 0, ver := 5, own := [], pending := pending, held := [], loads := []
    lease := lease, dirty := 1, stale := false }
def lined (pending lease : Bool) : State := withCore { lines := [lineAt pending lease] }

/-- A store that waits for two acknowledgements, or for the last one. -/
def pend (n : Nat) : Pend := { sid := 7, pa := 0x101000, len := 8, uo := false, acks := n, next := [.stack ⟨0, 0, 7⟩] }
def awaiting (n : Nat) : State := atDie 0 { pends := [pend n] }

/-- Two entries that may be merged: lines 0x101000 and 0x101080, and the merged one. -/
def half (b : Nat) : DirEntry := ⟨2, 0x101000 + b, 7, 3, none, [⟨5, 1, 0x1000 + b⟩]⟩

def entryS : AEntry := ⟨1, 0x1000, 0x101000, 5⟩

/-- INVs that core 0 has still to answer, and that a lease of the line of core 5 waits for. -/
def gone (n : Nat) : Leaving := { iid := 4, acks := n, slice := 2, base := 0x101000, k := 7, cores := [0], sids := [] }
def lockOf : Lock := ⟨0x101000, 5, 1, 0x1000⟩
def departing (n : Nat) (l : List Lock) : State := atDie 0 { leaving := [gone n], locks := l }

/-- An access of core 0 waits for the lease of its line. -/
def asksLease : LWait := ⟨1, 0x1000, 0x101000, [], false⟩
def leasing : State := withCore { lines := [lineAt false false], lwaits := [asksLease] }

theorem witness_Lines :
    0x1000 % 128 = 0 ∧ 0x1000 < 2 ^ 57 ∧ 0x101000 % 128 = 0 ∧
    (∀ a, ((lined false a).core 0).line 1 0x1000 = some (lineAt false a) ∧ (lineAt false a).pending = false) ∧
    olderEq 5 5 = true ∧ olderEq 6 5 = false ∧ (126 ≤ 127 ∧ 127 < 126 + 2 ∧ (lineAt false false).own.getD 127 0 = 0) ∧
    (one.core 0).line 1 0x1000 = none ∧ (∀ x ∈ ((lined false true).core 0).lines, x.pending = false ∧ x.va % 128 = 0) ∧
    (∀ a, ((lined true a).core 0).line 1 0x1000 = some (lineAt true a) ∧ (lineAt true a).pending = true ∧ (lineAt true a).pa = 0x101000 ∧
      (lineAt true a).loads = [] ∧ (lineAt true a).held = [] ∧ (lineAt true a).stale = false ∧ (lineAt true a).lease = a) ∧
    (∀ p, ((lined p true).core 0).lines.find? (fun x => x.pa == 0x101000 && x.lease) = some (lineAt p true)) ∧
    ((holder.core 0).line 1 0x1000 = none ∧ (holder.core 0).allowAt 1 0x1000 = some entryS) := by
  and_intros <;> decide +kernel

theorem witness_Acknowledgements :
    (∀ n ∈ [0, 1, 2], Store.findKey? (awaiting n).dies (fun x => x.pends.any (·.sid == 7)) = some 0 ∧
      ((awaiting n).die 0).pends.find? (·.sid == 7) = some (pend n) ∧ ∀ g ∈ (awaiting n).groups, g.2.ending = none) ∧
    (∀ n ∈ [1, 2], ((departing n []).die 0).leaving = [gone n] ∧ ((departing n []).die 0).locks = [] ∧ (gone n).iid = 4 ∧ 0 ∈ (gone n).cores ∧
      (gone n).sids = []) ∧
    (((departing 1 [lockOf]).die 0).leaving = [gone 1] ∧ ((departing 1 [lockOf]).die 0).locks = [lockOf] ∧ homeDie lockOf.line = 0) := by
  and_intros <;> decide +kernel

theorem witness_FillsAndLeases :
    (homeDie 0x101000 = dieOf 0 ∧ one.locked 0x101000 128 = false ∧ one.sliceReady (dieOf 0) 0x101000 128 false false = (one, true) ∧
      (one.die (dieOf 0)).dirAt 0x101000 = none ∧ unleased one (dieOf 0)) ∧
    ((leasing.core 0).lwaits = [asksLease] ∧ asksLease.asid = 1 ∧ asksLease.va = 0x1000 ∧ asksLease.pa = 0x101000 ∧ asksLease.reqs = [] ∧
      asksLease.stale = false ∧ (leasing.core 0).line 1 0x1000 = some (lineAt false false) ∧ ∀ n ∈ (lineAt false false).own, n = 0) ∧
    (one.core 0).lwaits = [] ∧
    ((one.die (homeDie 0x101000)).dirAt 0x101000 = none ∧ unleased one (homeDie 0x101000) ∧ (one.die (homeDie 0x101000)).leaving = [] ∧
      (one.die (homeDie 0x101000)).locks = [] ∧ one.recall 0x101000 128 = (one, true) ∧ one.versionRoom (homeDie 0x101000) 0x101000 = true) ∧
    (one.recordsMet 0x101000 128 = [] ∧ (∀ g ∈ one.groups, g.2.ending = none) ∧ noSharers counted) ∧
    ((shared.die (homeDie 0x101000)).dirAt 0x101000 = some (entryAt0 [⟨5, 1, 0x1000⟩]) ∧
      ∀ x ∈ (shared.die (homeDie 0x101000)).dirs, x.covers (sliceOf 0x101000) 0x101000 = true → x = entryAt0 [⟨5, 1, 0x1000⟩]) ∧
    ((guested.die (dieOf 32)).guest 0x101000 = some (guestLine 0) ∧ (guestLine 0).leaving = false ∧ (guestLine 3).dirty &&& ~~~1 ≠ 0 ∧
      ({ guestLine 1 with leaving := true } : Guest).dirty &&& ~~~1 = 0) ∧
    ((half 0).base % 2 ^ (7 + 1) = 0 ∧ 7 < 16 ∧ (half 0).k = 7 ∧
      half 0x80 = { half 0 with base := (half 0).base + 2 ^ 7, sharers := (half 0).sharers.map fun q => { q with vb := (q.vb + 2 ^ 7) % 2 ^ 57 } } ∧
      (half 0).lease = none ∧ ((atDie 0 { dirs := [half 0, half 0x80] }).die 0).dirs = [half 0, half 0x80] ∧
      ((atDie 0 { dirs := [half 0, half 0x80] }).die 0).locks = []) := by
  unfold unleased
  and_intros
  all_goals first
    | exact counted_noSharers
    | decide +kernel

/-! ### Witnesses: completion, allowances, engines, the deque -/

/-- An operation of path A whose lane 0 has returned 0x80, and the path that waits for it. -/
def ended (fin : Fin) (flags : W64) (hold : Nat) (writes : List RegWrite) : OpRec :=
  { inFlight with out := 0, fin := fin, flags := flags, hold := hold, writes := writes, lanes := 1, got := [⟨0, 0, [0x80], false⟩] }
def ends (o : OpRec) (w : Wait) : State :=
  { (with_ fun g => { g with fpcsr := 0x100, pa := { path with wait := w } }) with ops := [(9, o)] }

theorem witness_CompletionEvents :
    (∀ o ∈ [ended (.scalar .i32 7) 0 0 [], ended (.vector .i64 true 7) 0 0 [], ended (.cap 7) 0 0 [], ended (.status 62 true) 0 0 [],
        ended .none 1 0 [.s 1 5, .k 1 3], ended .none 0x20 8 [], ended (.poll .i32 7 0x1000) 0 0 []], ∀ w ∈ [Wait.none, .op 9],
      let s := ends o w
      Store.find s.ops 9 = some o ∧ o.out = 0 ∧ o.parked = false ∧ o.after = [] ∧ o.bad = none ∧ (Store.find s.groups o.gid).isSome = true ∧ noneEnding s ∧
        gave o 0 [0x80] false ∧ ((s.grp o.gid).path false).wait = w ∧ (s.grp o.gid).pb.wait ≠ .op 9 ∧ (s.grp o.gid).fpcsr.getLsbD (8 + 0) = true ∧
        ((s.grp o.gid).path o.b).held = none ∧ o.quiet = false) ∧
    (∀ x ∈ [] ++ [RegWrite.k 1 3], names x ≠ names (.s 1 5)) ∧ (ended .none 1 0 []).flags.getLsbD 0 = true ∧
    (∀ i, i < 5 → (ended .none 0x20 8 []).flags.getLsbD i = true → (0x100 : W64).getLsbD (8 + i) = false) ∧
    ((withPath fun p => { p with paddr := 0x1000, pval := fromBytes true [0x80] }).g.pa.pval = fromBytes true [0x80]) ∧
    (one.inSlot 0 0 = some 1 ∧ (Store.find one.groups 1).isSome = true ∧
      let g := one.grp 1
      g.pa.live = true ∧ g.pa.wait = .none ∧ g.resident = true ∧ g.ending = none ∧ g.preempt = false ∧ g.debug = false ∧ g.pa.steps = none ∧
        g.pb.frame = none ∧ (one.core g.core).halted = false ∧ (one.core g.core).failed = false ∧ g.pa.promoted = none) ∧
    (let s := withPath fun p => { p with wait := .delay }
     s.inSlot 0 0 = some 1 ∧ (s.grp 1).pa.wait = .delay) ∧
    (let s := withPath fun p => { p with wait := .wake }
     s.waiterGid (.res ⟨0, 0, false⟩) = some 1 ∧ (s.grp 1).pa.wait = .wake ∧ (s.grp 1).resident = true) ∧
    (let s := with_ fun g => { g with place := .saved 0 3, pa := { path with wait := .wake } }
     s.waiterGid (.saved 0 3 false) = some 1 ∧ (s.grp 1).pa.wait = .wake ∧ (s.grp 1).place = .saved 0 3 ∧ (s.grp 1).saved.ready = none ∧
       (s.grp 1).saved.halted = false) := by
  unfold gave noneEnding
  and_intros <;> decide +kernel

/-- The counter record at 0x101000: Q 4, with H units and these flags; core `c` holds some where a bit is set. -/
def record (h flags : Byte) (held : Byte) : State :=
  holding ([(0x101000, h), (0x101008, 4), (0x101014, flags), (0x101020, held)].filter (·.2 ≠ 0)) one
/-- The core's banks hold no cache. -/
def noCache (s : State) : State := { s with cores := [(0, { brr := 0xAAAA555555555555 })] }
def asks : OpRec := { inFlight with ctrK := 3, ctrVa := 0x1000, fin := .status 9 false }
def granting (c : Core) : State := { one with ops := [(9, asks)], cores := [(0, c)] }

theorem witness_AllowanceEvents :
    (∀ s ∈ [one, record 10 0 0, record 10 3 0, record 10 1 1, noCache (record 10 1 0)], s.homeReady (dieOf 0) 0x101000 64 = (s, true) ∧
      (s.core 0).failed = false ∧ (s.home 0x101000).opened = [] ∧ (s.home 0x101000).closed = [] ∧ (s.home 0x101000).round = false) ∧
    (ctrFlags one 0x101000 % 2 = 0 ∧ ctrFlags (record 10 9 0) 0x101000 % 2 = 1 ∧ ¬ ctrOk (record 10 9 0) 0x101000) ∧
    (∀ s ∈ [record 10 1 0, record 10 3 0, record 10 5 0, record 10 1 1, noCache (record 10 1 0)], ctrOk s 0x101000) ∧
    ((10 : W64).toNat ≤ min (ctrH (record 10 1 0) 0x101000 + (0 : W64).toNat) (2 ^ 63 - 1) ∧
      min (ctrH (record 10 1 0) 0x101000 + (0 : W64).toNat) (2 ^ 63 - 1) < (11 : W64).toNat) ∧
    ((noCache (record 10 1 0)).core 0).cacheBanks = 0 ∧ 0 < ((record 10 1 0).core 0).cacheBanks ∧
    ((record 10 1 0).die (homeDie 0x101000)).pinned.length < 1023 ∧
    (∀ c, c < 256 → ctrHeld (record 10 1 0) 0x101000 c = false) ∧ ctrHeld (record 10 1 1) 0x101000 0 = true ∧
    (2 ^ 63 ≤ (2 ^ 63 : W64).toNat ∧ (2 ^ 63 - 1 : W64).toNat < 2 ^ 63 ∧ 2 ^ 32 < (2 ^ 32 + 1 : W64).toNat ∧ (2 ^ 32 : W64).toNat ≤ 2 ^ 32) ∧
    (∀ h, let s := granting { halted := h }
      Store.find s.ops 9 = some asks ∧ asks.out = 1 ∧ asks.parked = false ∧ asks.after = [] ∧ (∀ e ∈ (s.core 0).await, e.1 ≠ 0x101000) ∧
        asks.ctrK < (4 : W64).toNat ∧ (s.core 0).halted = h ∧ (∀ e ∈ (s.core 0).allow, e.pa ≠ 0x101000) ∧ (s.core 0).allow.length < 64 ∧
        0 < (s.core 0).cacheBanks ∧ (s.core 0).framesUsed asks.ctrVa < 8) ∧
    ((holder.core 0).allow.filter (fun x => x.pa == 0x101000) = [entryS]) ∧
    (let s : State := { record 10 1 1 with dies := [(0, { pinned := [0x101000] })] }
     ctrOk s 0x101000 ∧ ctrHeld s 0x101000 0 = true ∧ (s.dies.flatMap fun d => d.2.pinned) = [0x101000]) ∧
    (let s : State := { record 10 1 3 with dies := [(0, { homes := [(0x101000, { round := true })] })] }
     ctrOk s 0x101000 ∧ (s.home 0x101000).round = true ∧ (s.home 0x101000).opened = [] ∧ (0 : W32).toNat = ctrSeq s 0x101000 ∧
       ctrHeld s 0x101000 1 = true) := by
  unfold ctrOk
  and_intros <;> decide +kernel

/-- A copy of 16 bytes from 0x1000 to 0x1010, with these capabilities; a bulk update of 16 bytes. -/
def capD : Cap := Cap.make 0x2000 0x1000 0 127 0x1010 true
def copyOf (n : W64) (caps : List Cap) : Cmd := { command 5 with caps := caps, args := [n] }
def bulk : Cmd := { command 5 with ins := .bupd .fadd .f32 9 2 1 3 3, caps := [capT], args := [16, 5] }
def engine (c : Cmd) : State := { inCmem' with cores := [(0, { cmds := [c] })] }

/-- A command that has started, in a context whose TL is 4, with this status; its token is pending in s9. -/
def started (st : Nat) (x : Ctx) (w : Wait) : State :=
  { (with_ fun g => { g with tokens := [⟨0, 2, 5, 9⟩], pa := { path with wait := w } }) with
    cores := [(0, { ctxs := [(2, x)], cmds := [{ command 5 with started := true, status := st, eaddr := 0x1000 }] })] }
def errorAt (n : Nat) : Ctx := { issue := 6, tl := 4, ev := true, ecode := 3, enum := n, doneSet := [6] }

theorem witness_EngineEvents :
    (∀ c ∈ [copyOf 0 [capD, capT], copyOf 16 [capD, capU], copyOf 16 [capU, capT], copyOf 16 [capD, capT], bulk], Waits (engine c) 0 2 5 c ∧ ∀ x ∈ ((engine c).die 0).pends, x.sid ≠ 1023) ∧
    (let s : State := { engine (copyOf 16 [capD, capT]) with groups := [], cores := [(0, { halted := true, cmds := [copyOf 16 [capD, capT]] })] }
     s.coreStopped 0 = true ∧ ∀ c ∈ (s.core 0).cmds, c.isX = false) ∧
    (capU.tag = false ∧ CapPasses capD [1] capD.cursor 16 ∧ CapPasses capT [0] capT.cursor 16 ∧ CapPasses capT [0, 1, 2] capT.cursor 16 ∧
      capT.cursor % 2 ^ 15 + 16 ≤ 2 ^ 15 ∧ capD.cursor % 2 ^ 15 + 16 ≤ 2 ^ 15 ∧ capT.cursor + 16 ≤ capD.cursor ∧ capT.cursor % 4 = 0 ∧
      16 % 4 = 0 ∧ ETy.pair .f32 = false) ∧
    (let s := engine (copyOf 16 [capD, capT])
     let u := (s.translate 0 1 capT.cursor .load).1
     let v := (u.translate 0 1 capD.cursor .store).1
     (s.translate 0 1 capT.cursor .load).2 = .ok ⟨0x10000001000, ⟨1, 0, true, .ca⟩⟩ ∧
       (u.translate 0 1 capD.cursor .store).2 = .ok ⟨0x10000001010, ⟨1, 0, true, .ca⟩⟩ ∧ u.poisoned 0x10000001000 16 = false ∧
       v.recordsMet 0x10000001010 16 = []) ∧
    (∀ k, k < 16 → mtOf (localOf (0x10000001010 + k)) = some 1 ∧ homeDie (0x10000001010 + k) = homeDie 0x10000001010) ∧
    (let s := engine bulk
     (s.translate 0 1 capT.cursor .atomic).2 = .ok ⟨0x10000001000, ⟨1, 0, true, .ca⟩⟩ ∧
       (s.translate 0 1 capT.cursor .atomic).1.recordsMet 0x10000001000 16 = [] ∧ s.leafMt 0 1 capT.cursor = some 1) ∧
    (∀ st ∈ [0, 3, 12], ∀ x ∈ [{ issue := 6, tl := 4 }, errorAt 4, errorAt 5, errorAt 6], ∀ w ∈ [Wait.none, .twait 0 2 5 8],
      let s := started st x w
      (s.core 0).cmds.find? (fun x => x.ctx == 2 && x.n == 5 && x.started) = some { command 5 with started := true, status := st, eaddr := 0x1000 } ∧
        noneEnding s ∧ s.coreStopped 0 = false ∧ (s.core 0).ctx 2 = x ∧ (Store.find s.groups 1).isSome = true ∧ (⟨0, 2, 5, 9⟩ : Token) ∈ (s.grp 1).tokens ∧
        (s.grp 1).resident = true ∧ (s.grp 1).pa.wait = w) ∧
    ∀ g ∈ (started 3 {} .none).groups, ∀ b k m, (g.2.path b).wait ≠ .twait 0 2 k m := by
  unfold Waits noneEnding CapPasses
  and_intros
  all_goals try decide +kernel
  intro g h b k m
  simp only [started, with_, List.mem_cons, List.not_mem_nil, or_false] at h
  subst h
  cases b <;> simp [Group.path, path, group, Group.blank]

/-- A deque entry of the kernel: entry 0, of class `c`, with `t` tiles, the first of which is `slot`; bit 16 allows theft. -/
def task (id c t slot : Nat) (st : EState) : Entry :=
  ⟨id, 7, BitVec.ofNat 1024 (0x10000 + c * 2 ^ 19 + t * 2 ^ 21 + slot * 2 ^ 256), 0, st, false, []⟩

/-- No group runs; the core's deque holds these. -/
def queueing (d : List Entry) : State := { inCmem' with groups := [], cores := [(0, { deque := d })] }

/-- The slot of a tile that goes to no space, and a record of one row of four bytes at 0x1000 with a slot that loads it. -/
def tileBad : Nat := 2 * 2 ^ 64
def tsr : BitVec 512 :=
  BitVec.ofNat 512 (capT.bits.toNat + 8 * 2 ^ 128 + 2 ^ 160 + 2 ^ 192 + 2 ^ 224 + 2 ^ 256 + 4 * 2 ^ 384 + 2 ^ 400 + 2 ^ 416 + 2 ^ 432 + 9 * 2 ^ 480 +
    2 ^ 488)
def kernelT : Launch := { kernel with tsrs := [(tsr, true, false)] }
def rec0 : EntryRec := ⟨0, 64, 32, 1, 256, 4096⟩
/-- Its buffers: the whole window and two slots. -/
def bufOf (slot : Nat) : Buf := ⟨3, task 3 0 1 slot .pending, 0, 256, 0, 2⟩
def staging (l : Launch) (slot : Nat) : State :=
  { queueing [] with cores := [(0, { deque := [{ task 3 0 1 slot .pending with staging := true }], bufs := [bufOf slot] })], launches := [(7, l)] }

/-- An entry whose future has been filled: its capability names the cell at 0x1000. -/
def filled : Entry := { task 3 1 0 0 .ready with closure := (task 3 1 0 0 .ready).closure ||| (capT.bits.zeroExtend 1024 <<< 128), ctags := 2 }

theorem witness_Staging :
    (Store.find (queueing []).launches 7 = some kernel ∧ kernel.entries[(task 3 1 2 0 .ready).closure.toNat % 2 ^ 16]? = some rec0) ∧
    (let s := queueing [task 3 1 2 0 .pending]
     s.groups = [] ∧ (s.core 0).bufs = [] ∧ upTo rec0.scr 128 ≤ roleCap (s.core 0).brr 1 ∧ (s.core 0).halted = false ∧ (s.core 0).staging = false ∧
       upTo rec0.tob 2048 / 2048 ≤ roleCap (s.core 0).brr 2 / 2048 ∧ (∀ y ∈ (s.core 0).deque, y = task 3 1 2 0 .pending) ∧
       (task 3 1 2 0 .pending).staging = false) ∧
    (∀ e ∈ [(kernel, tileBad), (kernel, 0)],
      let s := staging e.1 e.2
      let t : Entry := { task 3 0 1 e.2 .pending with staging := true }
      (s.core 0).halted = false ∧ (s.core 0).staging = false ∧ (s.core 0).bufs.find? (·.eid == 3) = some (bufOf e.2) ∧
        (bufOf e.2).entry.closure = t.closure ∧ (bufOf e.2).entry.launch = t.launch ∧ t.ctags.getLsbD 1 = false ∧ 0 < tiles t ∧
        (2 ≤ t.closure.toNat / 2 ^ (8 * (32 + 16 * 0) + 64) % 4 ∨
          (t.closure.toNat / 2 ^ (8 * (32 + 16 * 0) + 64) % 4 < 2 ∧ e.1.tsrs = [])) ∧
        (s.core 0).deque.find? (fun y => y.eid == 3 && y.staging) = some t ∧ (s.coreRelease 0 true).2 = true ∧ s.agenda = []) ∧
    (let s := staging kernelT 0
     let t : Entry := { task 3 0 1 0 .pending with staging := true }
     let r := s.stageTile 0 kernelT 7 rec0 (t.closure.toNat / 2 ^ (8 * (32 + 16 * 0)) % 2 ^ 128)
     Store.find s.launches 7 = some kernelT ∧ r.fin.map (·.st) = some 0 ∧ (r.st.core 0).deque = (s.core 0).deque ∧
       (s.core 0).deque.find? (fun y => y.eid == 3 && y.staging) = some t) := by
  and_intros <;> decide +kernel

theorem witness_Dispatch :
    (let s := queueing [task 5 0 0 0 .ready, filled, task 4 1 0 0 .ready]
     (s.core 0).halted = false ∧ (s.core 0).failed = false ∧ s.readied (dieOf 0) = [] ∧ cls filled = 1 ∧ cls (task 4 1 0 0 .ready) = 1 ∧
       cls (task 5 2 0 0 .ready) = 2 ∧ filled.ctags.getLsbD 1 = true ∧ s.earlyFull 0 filled = false) ∧
    (let s := holding [(0x10000001000, 1)] (queueing [filled])
     let u := s.futCell (dieOf 0) kernel.asid ⟨filled.closure.extractLsb' 128 128, true⟩
     u.2 = .ok 0x10000001000 ∧ u.1.cores = s.cores ∧ u.1.launches = s.launches ∧ futSt u.1 0x10000001000 ≠ 0) ∧
    ((task 3 1 0 0 .ready).ctags.getLsbD 1 = false ∧ (task 3 1 0 0 .ready).closure.getLsbD 18 = false ∧ rec0.regs ≤ 8192) := by
  and_intros <;> decide +kernel

/-- A core whose hunger counts 100 cycles. -/
def hungry100 (c : Core) : State := { queueing [] with cores := [(0, c)], clock := 100 }

theorem witness_Stealing :
    (let s := hungry100 {}
     0 < 256 ∧ (s.core 0).ptr < 32 ∧ 64 ≤ s.hunger 0 ∧ s.agenda = []) ∧ (queueing []).hunger 0 < 64 ∧
    (let s := queueing [task 4 1 0 0 .ready, task 3 1 0 0 .ready, task 5 2 0 0 .ready, task 6 0 0 0 .running]
     stealable s kernel.brr false (task 3 1 0 0 .ready) ∧ ¬ stealable s kernel.brr true (task 6 0 0 0 .running) ∧ ¬ stealable s 0 false (task 3 1 0 0 .ready) ∧
       cls (task 3 1 0 0 .ready) ≤ cls (task 4 1 0 0 .ready) ∧ cls (task 3 1 0 0 .ready) < cls (task 5 2 0 0 .ready) ∧
       (s.core 0).halted = false ∧ (s.core 0).failed = false ∧ s.coreRelease 0 false = (s, true)) ∧
    (let s := hungry100 { victims := [5, 6] }
     64 ≤ s.hunger 0 ∧ (s.core 0).victims = 5 :: [6] ∧ (s.core 0).brr = kernel.brr ∧ (s.core 0).deque.length < 2048 ∧
       Store.find s.launches (task 3 1 0 0 .ready).launch = some kernel) := by
  unfold stealable
  and_intros <;> decide +kernel

/-! ### Witnesses: the front end -/

/-- The bytes of a number at an address, without those that are 0. -/
def cells (a n v : Nat) : List (Nat × Byte) := ((List.range n).map fun i => (a + i, BitVec.ofNat 8 (v / 2 ^ (8 * i)))).filter (·.2 ≠ 0)

/-- The 64 bytes of a packet: its number, type, flags, and fields by offset (15 Table 15.2). -/
def pkt (num ty flags : Nat) (fields : List (Nat × Nat)) : Nat :=
  num + ty * 2 ^ 32 + flags * 2 ^ 40 + (fields.map fun f => f.2 * 2 ^ (8 * f.1)).sum

/-- A queue of address space 1 with rings of 16 at 0x200000 and 0x201000, and a range over the page at 0. -/
def queue0 : Queue :=
  { qbase := 0x200000, qcfg := 1, opmask := 0x1FE, doorbell := 3, consumed := 1, state := 1, cplbase := 0x201000, ranges := [(1, 0x8000)], cseq := 1
    fetched := 7, irqaddr := 0x40000001000, irqdata := 5 }

/-- Queue 63 of partition 0. -/
def withQueue (s : State) (x : Queue) : State := { s with parts := [(0, { dies := [0], queues := [(63, x)] })] }

def signal : Nat := pkt 1 4 2 [(8, 0x1000), (16, 9)]
def fetchable (b : Nat) (x : Queue) : State := withQueue (holding (cells 0x200040 64 b) inHbm) x

/-- A packet of the queue, which starts behind no other. -/
def waiting8 (flags : Nat) : Packet := { num := 8, bits := BitVec.ofNat 512 (pkt 8 4 flags [(8, 0x1000), (16, 9)]) }
def earlier7 : Packet := { num := 7, bits := BitVec.ofNat 512 (pkt 7 6 0 []), started := true }

theorem allowed_iff (x : Queue) (a n : Nat) : allowed x a n ↔ x.inRange a n = true := by
  unfold allowed Queue.inRange bitsAt
  rw [Bool.or_eq_true, beq_iff_eq, List.any_eq_true]
  refine or_congr Iff.rfl (exists_congr fun i => ?_)
  dsimp only
  rw [List.mem_range, Bool.and_eq_true, Bool.and_eq_true, bne_iff_ne, decide_eq_true_iff, decide_eq_true_iff, Nat.pos_iff_ne_zero, and_assoc]

theorem witness_QueueEvents :
    63 < 64 ∧
    (let s := withQueue one queue0
     let x := s.queue 0 63
     x.qlog ≤ 16 ∧ x.cplLog ≤ 16 ∧
       (pkgOf x.base = s.pkg ∧ pkgOf (x.base + 64 * 2 ^ x.qlog - 1) = s.pkg ∧ (mtOf (localOf x.base) = some 0 ∨ mtOf (localOf x.base) = some 2) ∧
         mtOf (localOf (x.base + 64 * 2 ^ x.qlog - 1)) = mtOf (localOf x.base)) ∧
       (pkgOf x.cplAt = s.pkg ∧ pkgOf (x.cplAt + 32 * 2 ^ x.cplLog - 1) = s.pkg ∧ (mtOf (localOf x.cplAt) = some 0 ∨ mtOf (localOf x.cplAt) = some 2) ∧
         mtOf (localOf (x.cplAt + 32 * 2 ^ x.cplLog - 1)) = mtOf (localOf x.cplAt)) ∧ x.state = 1 ∧ x.consumed ≠ 5) ∧
    pkgOf ((withQueue one { queue0 with qbase := 0x8000000000000 }).queue 0 63).base ≠ one.pkg ∧
    ((0x100000002 : W64).getLsbD 32 = true ∧ ((withQueue one { queue0 with state := 2 }).queue 0 63).state = 2 ∧
      ((0x100000002 : W64).toNat + 2 ^ 32 - queue0.consumed.toNat) % 2 ^ 32 < 2 ^ 31) ∧
    (∀ b ∈ [signal, signal + 1, pkt 1 0 0 [], pkt 1 4 2 [(8, 0x1001)], pkt 1 4 2 [(8, 0x8000)]],
      let s := fetchable b queue0
      (s.queue 0 63).state = 1 ∧ (s.queue 0 63).consumed ≠ (s.queue 0 63).doorbell ∧ (s.part 0).halted = false ∧
        (let a := (s.queue 0 63).base + (s.queue 0 63).consumed.toNat % 2 ^ (s.queue 0 63).qlog * 64
         ((s.acquireAt (s.feDie 0) .sys).homeReady (s.feDie 0) a 64).2 = true ∧
           ((s.acquireAt (s.feDie 0) .sys).homeReady (s.feDie 0) a 64).1.readNat a 64 = b)) ∧
    (signal % 2 ^ 32 = queue0.consumed.toNat ∧ fieldsOk signal ∧ queue0.opmask.getLsbD (pf signal 4 1) = true ∧
      (∀ e ∈ reaches signal, allowed queue0 (pf signal e.1 8) e.2)) ∧
    ((signal + 1) % 2 ^ 32 ≠ queue0.consumed.toNat ∧ ¬ fieldsOk (pkt 1 0 0 []) ∧ ¬ fieldsOk (pkt 1 4 2 [(8, 0x1001)]) ∧
      ({ queue0 with opmask := 0x1EE } : Queue).opmask.getLsbD (pf signal 4 1) = false ∧ fieldsOk (pkt 1 4 2 [(8, 0x8000)]) ∧
      ∃ e ∈ reaches (pkt 1 4 2 [(8, 0x8000)]), ¬ allowed queue0 (pf (pkt 1 4 2 [(8, 0x8000)]) e.1 8) e.2) ∧
    (let x := { queue0 with packets := [earlier7, waiting8 2] }
     x.packets.find? (fun y => y.num == 8) = some (waiting8 2) ∧ (waiting8 2).started = false ∧
       ∀ y ∈ x.packets, y.num < 8 → y.started = true ∧ pf y.bits.toNat 4 1 ≠ 5 ∧ pf y.bits.toNat 4 1 ≠ 8) ∧
    (let x := { queue0 with packets := [waiting8 1] }
     (waiting8 1).bits.getLsbD 40 = true ∧ x.packets.find? (fun y => y.num == 8) = some (waiting8 1) ∧ ∀ y, ¬ (y ∈ x.packets ∧ y.num < 8)) ∧
    ((waiting8 2).bits.getLsbD 41 = true ∧ (waiting8 1).bits.getLsbD 41 = false ∧ PStatus.fault ≠ .ok ∧ PStatus.fault ≠ .skipped) ∧
    (∀ irq, let s := withQueue one { queue0 with records := [(5, irq)] }
      (s.queue 0 63).records = (5, irq) :: [] ∧ ((s.queue 0 63).cseq - (s.queue 0 63).cplack - 1).toNat ≠ 2 ^ (s.queue 0 63).cplLog ∧
        (∃ u, s.homeReady (s.feDie 0) 0x201020 32 = (u, true) ∧ u.recordsMet 0x201020 32 = []) ∧
        (s.queue 0 63).cplAt + (s.queue 0 63).cseq.toNat % 2 ^ (s.queue 0 63).cplLog * 32 = 0x201020 ∧
        2 ^ 42 ≤ (s.queue 0 63).irqaddr.toNat ∧ (s.queue 0 63).irqaddr.toNat < 2 ^ 43) := by
  simp only [allowed_iff]
  refine ⟨by decide, by decide +kernel, by decide +kernel, by decide +kernel, by decide +kernel,
    ⟨by decide +kernel, by unfold fieldsOk; decide +kernel, by decide +kernel, by decide +kernel⟩,
    ⟨by decide +kernel, by unfold fieldsOk; decide +kernel, by unfold fieldsOk; decide +kernel, by decide +kernel, by unfold fieldsOk; decide +kernel,
      by decide +kernel⟩, by decide +kernel,
    ⟨by decide +kernel, by decide +kernel, ?_⟩, by decide +kernel, ?_⟩
  · rintro y ⟨h, l⟩
    simp only [List.mem_cons, List.not_mem_nil, or_false] at h
    subst h
    exact absurd l (by decide)
  · intro irq
    refine ⟨by rfl, by decide +revert +kernel, ⟨_, Prod.ext rfl ?_, ?_⟩, ?_, ?_, ?_⟩ <;> decide +revert +kernel

/-- Packet 8 of queue 63, started. -/
def workOn (s : State) (bits : Nat) (snap : List (Nat × Nat)) : State :=
  withQueue s { queue0 with qtl := 5, packets := [{ num := 8, bits := BitVec.ofNat 512 bits, started := true, snap := snap }] }
def carried (bits : Nat) (snap : List (Nat × Nat)) : Packet := { num := 8, bits := BitVec.ofNat 512 bits, started := true, snap := snap }

def copyPkt : Nat := pkt 8 3 0 [(8, 0x1100), (16, 0x1000), (24, 16)]
def signalPkt : Nat := pkt 8 4 0 [(8, 0x1000), (16, 9)]
def farSignal : Nat := pkt 8 4 0 [(8, 2 ^ 57), (16, 9)]
def zeroPkt : Nat := pkt 8 6 0 [(8, 0x1000), (16, 16)]
def waitPkt (n : Nat) : Nat := pkt 8 5 0 [(8, 63), (16, n)]
def feedPkt : Nat := pkt 8 2 0 [(8, 0x1000), (16, 0x1100), (24, 1)]

/-- A kernel's descriptor at 0x1000, its one entry record at 0x1040, and a root's arguments at 0x1080. -/
def descCap : Cap := Cap.make 0x2000 0x1000 0 0x7F 0x1000 true
def descriptor : Nat := descCap.bits.toNat + 0x1040 * 2 ^ 128 + 2 ^ 256 + 2 ^ 304 + 0xAAAA555500000000 * 2 ^ 320
def entryBits : Nat := 64 * 2 ^ 48 + 32 * 2 ^ 64 + 2 ^ 80 + 256 * 2 ^ 96 + 4096 * 2 ^ 128
def launchPkt (flags : Nat) : Nat := pkt 8 1 flags [(8, 0x1000), (16, 0x1080), (26, 1), (28, 1)]
def loaded (tags : List Nat) : State :=
  { holding (cells 0x10000001000 64 descriptor ++ cells 0x10000001040 32 entryBits) inCmem' with groups := [], tags := tags }

/-- A launch that started before the packet, with one root that has not been placed. -/
def hinted : Launch := { kernel with queue := 63, num := 7, lhinted := true }
def early8 : Packet := { num := 8, bits := BitVec.ofNat 512 (launchPkt 1), pred := 7 }
def unplaced : Launch := { kernel with unplaced := [0] }

/-- The launch was read. -/
def readOk : FeGot Launch → Bool
  | .ok _ _ => true
  | _ => false

theorem readOk_ok (r : FeGot Launch) (h : readOk r = true) : ∃ u l, r = .ok u l := by
  cases r <;> simp_all [readOk]

def okAt (s : State) (va : Nat) (acc : Acc) (pa : Nat) : Prop := (s.translate 0 1 va acc).2 = .ok ⟨pa, ⟨1, 0, true, .ca⟩⟩

/-- The reads of a launch whose arguments need no HA, in the order of 15 R382, and what they give: the descriptor is valid, its entry
is a root's, and the queue may launch. -/
def readsLaunch (s : State) (p : Packet) : Bool :=
  let b := p.bits.toNat
  match s.feRead (s.fe 0 63) (pf b 8 8) 64 with
  | (u1, some (.ok (b1, t1))) =>
    let d := parseDesc (natOf b1) (t1.getD 0 false)
    match (u1.modPacket 0 63 8 fun y => { y with desc := some (natOf b1, t1.getD 0 false) }).feRead (s.fe 0 63) d.entt (32 * d.nent) with
    | (u2, some (.ok (b2, _))) =>
      match (u2.modPacket 0 63 8 fun y => { y with entt := some b2 }).feRead (s.fe 0 63) (pf b 16 8) (112 * pf b 26 2) with
      | (u3, some (.ok (_, _))) =>
        match u3.feRead (s.fe 0 63) d.tsrt (64 * d.ntsr) with
        | (_, some (.ok _)) =>
          d.ok && decide (pf b 24 2 < d.nent) && d.ntsr == 0 && (u3.queue 0 63).qcfg.getLsbD 20 && p.desc.isNone && p.entt.isNone &&
            pf b 28 1 == 7 && decide (1 ≤ pf b 26 2) &&
            match (cutRecords 32 d.nent b2).mapM (parseEntry d) with
            | some es => match es[pf b 24 2]? with | some r => r.flags % 2 == 1 | none => false
            | none => false
        | _ => false
      | _ => false
    | _ => false
  | _ => false

def plainLaunch : Nat := pkt 8 1 0 [(8, 0x1000), (16, 0x1080), (26, 1), (28, 7)]

theorem witness_LaunchReads : readsLaunch
    (withQueue (loaded [0x1000000100]) { queue0 with qcfg := 0x100001, qtl := 5, packets := [carried plainLaunch []] }) (carried plainLaunch []) = true ∧
    carries (withQueue (loaded [0x1000000100]) { queue0 with qcfg := 0x100001, qtl := 5, packets := [carried plainLaunch []] }) 0 63 8
      (carried plainLaunch []) ∧
    (withQueue one queue0).outsideDone = true := by
  unfold carries
  decide +kernel

theorem witness_PacketEvents :
    (∀ b ∈ [copyPkt, signalPkt, farSignal, zeroPkt, waitPkt 5, waitPkt 6, feedPkt, launchPkt 0],
      carries (workOn inCmem' b []) 0 63 8 (carried b []) ∧ (workOn inCmem' b []).feDie 0 = 0 ∧ ((workOn inCmem' b []).queue 0 63).asid = 1) ∧
    (let s := workOn inCmem' copyPkt []
     let u := (s.translate 0 1 0x1000 .load).1
     okAt s 0x1000 .load 0x10000001000 ∧ okAt u 0x1100 .store 0x10000001100 ∧ pf copyPkt 24 8 = 16 ∧ pf copyPkt 16 8 = 0x1000 ∧
       pf copyPkt 8 8 = 0x1100 ∧ inCmem 0x10000001100 16 ∧ u.poisoned 0x10000001000 16 = false ∧
       (u.translate 0 1 0x1100 .store).1.recordsMet 0x10000001100 16 = []) ∧
    (let s := workOn inCmem' signalPkt []
     okAt s 0x1000 .store 0x10000001000 ∧ inCmem 0x10000001000 8 ∧ (s.translate 0 1 0x1000 .store).1.recordsMet 0x10000001000 8 = [] ∧
       pf signalPkt 8 8 % 8 = 0 ∧ pf signalPkt 8 8 + 8 ≤ 2 ^ 57) ∧
    2 ^ 57 < pf farSignal 8 8 + 8 ∧
    (pf zeroPkt 16 8 = 16 ∧ pf zeroPkt 8 8 % 2 ^ 15 + 16 ≤ 2 ^ 15 ∧ okAt (workOn inCmem' zeroPkt []) 0x1000 .store 0x10000001000) ∧
    (pf (waitPkt 5) 16 8 ≤ ((workOn one (waitPkt 5) []).queue 0 (pf (waitPkt 5) 8 1)).qtl ∧
      ((workOn one (waitPkt 6) []).queue 0 (pf (waitPkt 6) 8 1)).qtl < pf (waitPkt 6) 16 8) ∧
    ((∀ e ∈ [(63, 5)], e.2 ≤ ((workOn one (pkt 8 8 0 []) [(63, 5)]).queue 0 e.1).qtl) ∧
      ¬ ∀ e ∈ [(63, 6)], e.2 ≤ ((workOn one (pkt 8 8 0 []) [(63, 6)]).queue 0 e.1).qtl) ∧
    (pf (pkt 8 7 0 [(8, 0x1000), (16, 32), (24, 1)]) 24 1 = 1 ∧ pf (pkt 8 7 0 [(8, 0x1000), (16, 32)]) 24 1 = 0 ∧
      0 < pf (pkt 8 7 0 [(8, 0x1000), (16, 32)]) 16 8 ∧ (∀ k ∈ one.shoots, k.sid ≠ 4)) ∧
    (∀ s ∈ [emptyFeed, fullFeed, closedFeed],
      let w := workOn s feedPkt []
      let u := (w.translate 0 1 0x1000 .atomic).1
      okAt w 0x1000 .atomic 0x10000001000 ∧ (u.feed 0x10000001000).valid = true ∧ pf feedPkt 8 8 % 64 = 0 ∧ pf feedPkt 8 8 + 64 ≤ 2 ^ 57 ∧
        pf feedPkt 24 1 ≤ 1 ∧ 0 < pf feedPkt 24 1 ∧ (u.queue 0 63) = w.queue 0 63 ∧ u.feDie 0 = w.feDie 0 ∧ okAt u 0x1100 .load 0x10000001100 ∧
        (u.translate 0 1 0x1100 .load).1.poisoned 0x10000001100 64 = false ∧
        (u.translate 0 1 0x1100 .load).1.recordsMet 0x10000001000 64 = [] ∧
        (u.translate 0 1 0x1100 .load).1.recordsMet (feedRecord 0x10000001000 (u.feed 0x10000001000).capl (u.feed 0x10000001000).tail) 64 = []) ∧
    ((closedFeed.feed 0x10000001000).closed = true ∧ (emptyFeed.feed 0x10000001000).closed = false ∧
      ((fullFeed.feed 0x10000001000).tail + 2 ^ 64 - (fullFeed.feed 0x10000001000).head) % 2 ^ 64 = 2 ^ (fullFeed.feed 0x10000001000).capl ∧
      ((emptyFeed.feed 0x10000001000).tail + 2 ^ 64 - (emptyFeed.feed 0x10000001000).head) % 2 ^ 64 ≠ 2 ^ (emptyFeed.feed 0x10000001000).capl ∧
      (workOn inCmem' feedPkt []).readByte 0 = 0 ∧ (inCmem'.feed 0x10000001000).valid = false) ∧
    (let s := workOn (loaded []) (launchPkt 0) []
     (s.feRead (s.fe 0 63) (pf (launchPkt 0) 8 8) 64).2 = some (.ok (bytesOf 64 descriptor, List.replicate 4 false))) ∧
    (let s := workOn (loaded [0x1000000100]) (launchPkt 0) []
     ∃ u l, s.readLaunch 0 63 (carried (launchPkt 0) []) = .ok u l) ∧
    (let s : State := { withQueue (loaded [0x1000000100]) { queue0 with packets := [earlier7, early8] } with launches := [(6, hinted)] }
     (s.queue 0 63).packets.find? (fun z => z.num == 8) = some early8 ∧ early8.started = false ∧ pf early8.bits.toNat 4 1 = 1 ∧
       early8.bits.getLsbD 40 = true ∧ (s.part 0).halted = false ∧ (s.queue 0 63).packets.filter (fun z => decide (z.num < 8)) = [earlier7] ∧
       earlier7.num = early8.pred ∧
       (∃ l ∈ s.launches, l.2.part = 0 ∧ l.2.queue = 63 ∧ l.2.num = early8.pred ∧ l.2.lhinted = true ∧ l.2.done = false) ∧
       (s.feRead (s.fe 0 63) (pf early8.bits.toNat 8 8) 64).2 = some (.ok (bytesOf 64 descriptor, [true, false, false, false])) ∧
       (s.feRead (s.fe 0 63) (pf early8.bits.toNat 8 8) 64).1.queue 0 63 = s.queue 0 63 ∧
       (parseDesc (natOf (bytesOf 64 descriptor)) true).ok = true ∧ 1 ≤ natOf (bytesOf 64 descriptor) / 2 ^ 304 % 256) ∧
    (let s : State := { one with groups := [], launches := [(7, unplaced)] }
     Store.find s.launches 7 = some unplaced ∧ 0 ∈ unplaced.unplaced ∧ (∀ e ∈ s.dies, (⟨7, 0⟩ : Root) ∉ e.2.roots) ∧ unplaced.homes.getD 0 none = none ∧
       (s.part unplaced.part).dies = [0] ∧ (s.die 0).roots = [] ∧ (s.die 0).corePtr < 32 ∧ unplaced.ent < 2 ^ 16 ∧ unplaced.pri < 4 ∧
       (s.core (32 * 0 + (s.die 0).corePtr)).brr = unplaced.brr ∧ (s.core (32 * 0 + (s.die 0).corePtr)).deque.length < 2048) := by
  unfold carries okAt inCmem
  and_intros
  all_goals first | exact readOk_ok _ (by decide +kernel) | decide +kernel

theorem mapped_low (s : State) (va : Nat) (acc : Acc)
    (h : (s.die 0).cached 1 va = some ⟨1, 1, 0, 0, 0x5000, BitVec.ofNat 128 cmem⟩ ∧
      (Pte.ofNat (BitVec.ofNat 128 cmem).toNat).checkLeaf s.pkg (s.partOf 1) 0 acc = none ∧
      (⟨0x10000000000 + va, ⟨1, 0, true, .ca⟩⟩ : Trans) = (Pte.ofNat (BitVec.ofNat 128 cmem).toNat).trans 0 va ∧
      mtOf (localOf (0x10000000000 + va)) = some 1) : Mapped s 0 1 va acc ⟨0x10000000000 + va, ⟨1, 0, true, .ca⟩⟩ :=
  ⟨_, h.1, h.2.1, fun _ => by decide +kernel, h.2.2.1, h.2.2.2, rfl⟩

/-- What the front end reads at `va` of a page whose leaf is cached. -/
theorem feReads_low (s : State) (va n : Nat) (bs : List Byte) (tags : List Bool) (hd : s.feDie 0 = 0) (ha : (s.queue 0 63).asid = 1)
    (h : (s.die 0).cached 1 va = some ⟨1, 1, 0, 0, 0x5000, BitVec.ofNat 128 cmem⟩ ∧
      (Pte.ofNat (BitVec.ofNat 128 cmem).toNat).checkLeaf s.pkg (s.partOf 1) 0 .load = none ∧
      (⟨0x10000000000 + va, ⟨1, 0, true, .ca⟩⟩ : Trans) = (Pte.ofNat (BitVec.ofNat 128 cmem).toNat).trans 0 va ∧
      mtOf (localOf (0x10000000000 + va)) = some 1)
    (g : va % 2 ^ 15 + n ≤ 2 ^ 15 ∧ va + n ≤ 2 ^ 57 ∧
      (∀ k, k < n → mtOf (localOf (0x10000000000 + va + k)) = some 1 ∧ homeDie (0x10000000000 + va + k) = homeDie (0x10000000000 + va)) ∧
      s.poisoned (0x10000000000 + va) n = false ∧ bs = s.read (0x10000000000 + va) n ∧
      tags = (List.range (n / 16)).map fun i => va % 16 == 0 && PageInfo.canTag ⟨1, 0, true, .ca⟩ && s.tagAt (0x10000000000 + va + 16 * i)) :
    FeReads s 0 63 va n bs tags :=
  .inr ⟨⟨0x10000000000 + va, ⟨1, 0, true, .ca⟩⟩, by rw [hd, ha]; exact mapped_low s va .load h, g⟩

/-- A queue that may launch, with the launch of one root. -/
def launching : State :=
  withQueue (loaded [0x1000000100]) { queue0 with qcfg := 0x100001, qtl := 5, packets := [carried plainLaunch []] }

theorem witness_ClearPackets :
    (∀ b ∈ [copyPkt, signalPkt, zeroPkt], Mapped (workOn inCmem' b []) 0 1 0x1000 .load ⟨0x10000001000, ⟨1, 0, true, .ca⟩⟩ ∧
      Mapped (workOn inCmem' b []) 0 1 0x1000 .store ⟨0x10000001000, ⟨1, 0, true, .ca⟩⟩ ∧
      Mapped (workOn inCmem' b []) 0 1 0x1100 .store ⟨0x10000001100, ⟨1, 0, true, .ca⟩⟩ ∧
      (workOn inCmem' b []).poisoned 0x10000001000 16 = false ∧ (workOn inCmem' b []).recordsMet 0x10000001000 16 = [] ∧
      (workOn inCmem' b []).recordsMet 0x10000001000 8 = [] ∧ (workOn inCmem' b []).recordsMet 0x10000001100 16 = []) ∧
    (∀ s ∈ [emptyFeed, closedFeed], let w := workOn s feedPkt []
      Mapped w 0 1 0x1000 .atomic ⟨0x10000001000, ⟨1, 0, true, .ca⟩⟩ ∧ (w.feed 0x10000001000).valid = true ∧
      FeReads w 0 63 0x1100 64 (List.replicate 64 0) (List.replicate 4 false) ∧ w.recordsMet 0x10000001000 64 = [] ∧
      w.recordsMet (feedRecord 0x10000001000 (w.feed 0x10000001000).capl (w.feed 0x10000001000).tail) 64 = []) ∧
    (FeReads launching 0 63 (pf plainLaunch 8 8) 64 (bytesOf 64 descriptor) [true, false, false, false] ∧
      (let d := parseDesc (natOf (bytesOf 64 descriptor)) true
       d.ok = true ∧ pf plainLaunch 24 2 < d.nent ∧ FeReads launching 0 63 d.entt (32 * d.nent) (bytesOf 32 entryBits) [false, false] ∧
         ((cutRecords 32 d.nent (bytesOf 32 entryBits)).mapM (parseEntry d)).map (fun es => (es[pf plainLaunch 24 2]?.map (·.flags % 2))) = some (some 1) ∧
         FeReads launching 0 63 (pf plainLaunch 16 8) (112 * pf plainLaunch 26 2) (launching.read 0x10000001080 112) (List.replicate 7 false) ∧
         FeReads launching 0 63 d.tsrt (64 * d.ntsr) [] []) ∧ (launching.queue 0 63).qcfg.getLsbD 20 = true ∧
      carries launching 0 63 8 (carried plainLaunch []) ∧ pf plainLaunch 28 1 = 7 ∧ 1 ≤ pf plainLaunch 26 2) ∧
    FeReads { withQueue (loaded [0x1000000100]) { queue0 with packets := [earlier7, early8] } with launches := [(6, hinted)] } 0 63
      (pf early8.bits.toNat 8 8) 64 (bytesOf 64 descriptor) [true, false, false, false] ∧
    (withQueue one { queue0 with records := [(5, false)] }).homeReady 0 0x201020 32 = (withQueue one { queue0 with records := [(5, false)] }, true) := by
  refine ⟨fun b hb => ⟨mapped_low _ 0x1000 _ ?_, mapped_low _ 0x1000 _ ?_, mapped_low _ 0x1100 _ ?_, ?_⟩,
    fun s hs => ⟨mapped_low _ 0x1000 _ ?_, ?_, feReads_low _ _ _ _ _ ?_ ?_ ?_ ?_, ?_⟩,
    ⟨feReads_low _ _ _ _ _ ?_ ?_ ?_ ?_, ⟨?_, ?_, feReads_low _ _ _ _ _ ?_ ?_ ?_ ?_, ?_, feReads_low _ _ _ _ _ ?_ ?_ ?_ ?_, .inl ?_⟩, ?_, ?_, ?_⟩,
    feReads_low _ _ _ _ _ ?_ ?_ ?_ ?_, ?_⟩ <;> first | decide +revert +kernel | (unfold carries; decide +kernel)

/-! ### Witnesses: faults, saves, halts, debug -/

/-- A fault of path A on page 0x5000, and die 0's ring of 16 records at 0x300000 with `n` as the next number. -/
def faultF : FaultRec := { asid := 1, wid := some (.res ⟨0, 0, false⟩), cause := 0x20, kind := 0, acc := 0, orig := 0, ctx := 0, va := 0x5000 }
def ring (n : Nat) (w : Wait) : State :=
  { (withPath fun p => { p with wait := w }) with dies := [(0, { pgbase := 0x300000, fseq := n, faults := [(n, faultF)] })] }
/-- The same with the group saved. -/
def ringSaved : State :=
  { (with_ fun g => { g with place := .saved 0 3, pa := { path with wait := .fault 0 1 } }) with
    dies := [(0, { pgbase := 0x300000, faults := [(1, faultF)] })] }

/-- No partition is halted. -/
theorem parts_run (s : State) (h : s.parts = one.parts) (k : Nat) : (s.part k).halted = false := by
  unfold State.part Store.get
  rw [h]
  unfold one
  simp only [Store.find]
  split <;> rfl

/-- The page tables of VA 0, a group that waits for record 1 of die 0, and the pager's answer: a leaf for the page, whose frame has
still to be zeroed. -/
def placing : State := { tables with groups := (ring 1 (.fault 0 1)).groups, dies := [(0, { pgbase := 0x300000, fseq := 1, faults := [(1, faultF)] })] }
def placed : Placement := { writes := [(0x10000, BitVec.ofNat 128 (hbm + 2 ^ 13))], frame := 0x100000, displaced := false, replica := false }

/-- A page with replicas. -/
def replicated : State := { ring 1 (.fault 0 1) with replicas := [(1, 0)] }

theorem witness_FaultRecords :
    (∀ e ∈ [(1, Wait.faultHeld faultF), (17, .faultHeld faultF), (1, .fault 0 1), (1, .none)],
      let d := (ring e.1 e.2).die 0
      d.pgbase ≠ 0 ∧ d.pgbase.toNat % 16 + 4 = 4 ∧ d.pgbase.toNat / 2 ^ 12 % 2 ^ 40 * 2 ^ 12 = 0x300000 ∧ d.dirs = [] ∧
        ((d.fseq + 2 ^ 64 - d.pgack.toNat - 1) % 2 ^ 64 = 2 ^ 4 ↔ e.1 = 17) ∧ (ring e.1 e.2).recordsMet (0x300000 + e.1 % 16 * 32) 32 = []) ∧
    ((ring 1 (.faultHeld faultF)).waitersOn (.faultHeld faultF) = [(1, false)] ∧ faultF.orig = 0 ∧ { faultF with orig := 2 }.orig ≠ 0) ∧
    (let s : State := { ring 1 (.faultHeld faultF) with dies := [] }
     (s.die 0).pgbase = 0 ∧ s.waitersOn (.faultHeld faultF) = [(1, false)] ∧ hasHandler s 1 0x8000) ∧
    (∀ s ∈ [ring 1 (.fault 0 1), ringSaved, placing], s.waitersOn (.fault 0 (s.die 0).fseq) = [(1, false)] ∧
      s.waitersOn (.pager 0 (s.die 0).fseq) = [] ∧ (Store.find s.groups 1).isSome = true ∧
      (s.die 0).faults.find? (fun e => e.1 == (s.die 0).fseq) = some ((s.die 0).fseq, faultF) ∧ s.replicas = []) ∧
    hasHandler (ring 1 (.fault 0 1)) 1 0x8000 ∧ (({ faultF with acc := 1 } : FaultRec).asid, faultF.va / 2 ^ 15 * 2 ^ 15) ∈ replicated.replicas ∧
    (placing.recordsMet 0x10000 16 = [] ∧ (placing.asctx 1).map (·.rhtn) = some 0 ∧
      (let p := Pte.ofNat (placed.writes.getD 0 (0, 0)).2.toNat
       p.v = true ∧ p.leaf = true ∧ p.zp = true ∧ placed.frame = p.pa) ∧ placed.replica = false ∧
      (placing.placeWrites placed).walk 1 faultF.va = .ok (0, 0x10000, hbm + 2 ^ 13)) := by
  unfold hasHandler
  and_intros
  all_goals first
    | decide +kernel
    | exact ⟨kernel, rec0, by and_intros <;> decide +kernel⟩

/-- A group that is asked to stop, and one whose path stands at a hint that names v0 to v3, v8, s0 and s1. -/
def hint0 : Hint := ⟨0, 3, 8, 8, 1, 2, false⟩
def stopping (dl rs : Bool) : State :=
  { (with_ fun g => { g with preempt := true, deadline := dl, restart := rs, pa := { path with atHint := true, hint := some hint0 } }) with
    cores := [(0, {})] }

/-- Its path is the first in the chain of the object at 0x10000001000. -/
def chained : State :=
  { (with_ fun g => { g with preempt := true, deadline := true, pa := { path with wait := .gong 0x10000001000, whead := 0x10000001000 } }) with
    cores := [(0, {})] }

/-- The group waits for the pager; another, saved, has been readied. -/
def full (w : Wait) : State :=
  { one with
    groups := [(1, { group with pa := { path with wait := w } }), (2, { group with place := .saved 0 3, saved := { ready := some 1 } })]
    cores := [(0, {})] }

theorem witness_Saves :
    (Stands one 1 0 0 ∧ (one.grp 1).preempt = false ∧ ((one.die (0 / 32)).prectl.toNat % 2 ^ 32 ≠ 0) ∧
      ({ prectl := 0x100000000 } : Die).prectl.toNat % 2 ^ 32 = 0) ∧
    (∀ dl rs, let s := stopping dl rs
      Stands s 1 0 0 ∧ (s.grp 1).preempt = true ∧ (s.grp 1).ending = none ∧ (s.core 0).halted = false ∧ (∀ k, (s.part k).halted = false) ∧
        (s.grp 1).restart = rs ∧ (s.grp 1).deadline = dl ∧ (∀ o ∈ s.ops, o.2.gid ≠ 1) ∧ (∀ k ∈ s.cores, ∀ x ∈ k.2.cmds, x.gid ≠ 1) ∧ Savable s 1 0 ∧
        (s.grp 1).scrBase + (s.grp 1).scrSize ≤ roleCap (s.core 0).brr 1 ∧ (s.grp 1).pb.live = false ∧ (s.grp 1).pa.live = true ∧
        (s.grp 1).pa.atHint = true ∧ (s.grp 1).pa.hint = some hint0 ∧ (s.die (0 / 32)).prectl.getLsbD 32 = false) ∧
    (let s := chained
     Stands s 1 0 0 ∧ Savable s 1 0 ∧ (s.grp 1).pa.wait = .gong 0x10000001000 ∧ s.readNat (s.grp 1).pa.whead 2 = (s.grp 1).wid ∧
       s.recordsMet (s.grp 1).pa.whead 2 = []) ∧
    (hintV hint0 3 ∧ hintV hint0 8 ∧ ¬ hintV hint0 4 ∧ hintS hint0 1 ∧ ¬ hintS hint0 2) ∧
    (∀ w ∈ [Wait.pager 0 1, .fault 0 1], let s := full w
      Stands s 1 0 0 ∧ s.residents 0 = [(1, s.grp 1)] ∧ (s.core 0).halted = false ∧ s.readied (0 / 32) ≠ [] ∧ Savable s 1 0 ∧
        (s.grp 1).ending = none ∧ (s.grp 1).pa.live = true ∧ (s.grp 1).pa.atHint = false ∧ (s.grp 1).pa.wait = w ∧ (s.grp 1).pb.live = false) := by
  have room (s : State) (h : ∀ e ∈ s.groups, e.2.place ≠ .saved 0 0) : ∃ r, r < 16384 ∧ ∀ e ∈ s.groups, e.2.place ≠ .saved (0 / 32) r :=
    ⟨0, by decide, h⟩
  unfold Stands Savable hintV hintS
  and_intros
  all_goals try decide +kernel
  · intro dl rs
    cases dl <;> cases rs <;> and_intros <;> first | exact room _ (by decide +kernel) | exact parts_run _ rfl | decide +kernel
  · exact room _ (by decide +kernel)
  · intro w h
    simp only [List.mem_cons, List.not_mem_nil, or_false] at h
    rcases h with rfl | rfl <;> and_intros <;> first | exact room _ (by decide +kernel) | decide +kernel

/-- A debugged group at its halt, with an undone write of s1, of v2 or of memory to take back. -/
def debugged (u : Undo) : State := with_ fun g => { g with debug := true, undo := [u], pa := { path with wait := .debug } }

theorem witness_Debugging :
    ∀ u ∈ [(⟨false, 1, 1, 1, 0x8018, bytesOf 8 7⟩ : Undo), ⟨false, 258, 1, 1, 0x8018, bytesOf 128 7⟩, ⟨true, 0x4000, 4, 1, 0x8018, bytesOf 4 7⟩],
      let s := debugged u
      Stands s 1 0 0 ∧ (s.grp 1).debug = true ∧ ((s.grp 1).path false).live = true ∧ ((s.grp 1).path false).wait = .debug ∧
        (s.grp 1).undo = u :: [] ∧ s.recordsMet 0x4000 4 = [] ∧ 0x4000 + u.old.length ≤ 2 ^ 52 := by
  unfold Stands
  decide +kernel

/-- Only a saved, readied group; a saved group of a halted partition. -/
def toRestore : State :=
  { one with groups := [(1, { group with place := .saved 0 3, scrSize := 256, tobCnt := 0, saved := { scr := [(0, 5)], ready := some 1 } })] }
def swapped : State :=
  { one with
    parts := [(0, { dies := [0], halted := true, swapped := true, area := [(5, { ptr := 3, halted := true })] })]
    groups := [(1, { group with place := .saved 0 3, saved := { halted := true } })] }

/-- No path of the group waits. -/
theorem restored_waits (b : Bool) : ((toRestore.grp 1).path b).wait = .none := by cases b <;> rfl

theorem witness_RestoresAndHalts :
    (let s := toRestore
     Store.findKey? s.groups (fun g => g.place == .saved 0 3) = some 1 ∧ s.readied 0 = [1] ∧ (s.grp 1).saved.ready ≠ none ∧
       (s.grp 1).saved.halted = false ∧ s.launchOf (s.grp 1) = some kernel ∧ (s.core 5).brr = kernel.brr ∧ (s.core 5).halted = false ∧
       (s.core 5).failed = false ∧ s.residents 5 = [] ∧ (s.core 5).bufs = [] ∧ s.cores = [] ∧ (s.grp 1).v ≤ 8192 ∧ (s.grp 1).early = false ∧
       (s.core 5).deque.length < 2048 ∧ upTo (s.grp 1).scrSize 128 ≤ roleCap (s.core 5).brr 1 ∧
       2048 * (s.grp 1).tobCnt ≤ roleCap (s.core 5).brr 2 ∧ (s.grp 1).tobCnt = 0) ∧
    (unchained (toRestore.grp 1) ∧ ∀ b a x m y, ((toRestore.grp 1).path b).wait ≠ .twait a x m y) ∧
    (let s : State := { holder with groups := [(1, group)] }
     (s.part 0).halted = false ∧ s.plat.toSpare = [] ∧ 0 / 32 ∈ (s.part 0).dies ∧ (s.core 0).allow ≠ []) ∧
    (let s := swapped
     (s.part 0).swapped = true ∧ (s.part 0).lost = false ∧ (s.part 0).dies.Nodup ∧
       Store.find s.groups 1 = some (s.grp 1) ∧ (s.grp 1).place = .saved 0 3 ∧ (s.grp 1).saved.halted = true ∧
       (Store.find s.launches (s.grp 1).launch).map (·.part) = some 0 ∧ 5 / 32 ∈ (s.part 0).dies) ∧
    (∀ e ∈ swapped.groups, ∀ k m, e.2.place = .res k m → ¬ k / 32 ∈ (swapped.part 0).dies) ∧
    (let s : State := { one with agenda := [.groupSave ⟨0, 0⟩] }
     (s.part 0).lost = false ∧ 0 / 32 ∈ (s.part 0).dies ∧ Instr.groupSave ⟨0, 0⟩ ∈ s.agenda ∧ (s.die 0).wdctl.getLsbD 32 = true) ∧
    (let s := with_ fun g => { g with regroup := some ⟨0x4000, false, 1, 2, 7⟩ }
     s.recorded 0x4000 = some 1 ∧ (Store.find s.groups 1).isSome = true ∧ (s.grp 1).regroup = some ⟨0x4000, false, 1, 2, 7⟩ ∧
       s.recordsMet 0x4000 2 = [] ∧ (s.die (homeDie 0x4000)).monitors = []) := by
  refine ⟨by and_intros <;> decide +kernel, ⟨fun b x => ?_, fun b a x m y => ?_⟩, by and_intros <;> decide +kernel, by and_intros <;> decide +kernel, ?_,
    by and_intros <;> decide +kernel⟩
  · rw [restored_waits]
    exact ⟨fun h => Wait.noConfusion h, fun h => Wait.noConfusion h⟩
  · rw [restored_waits]
    exact fun h => Wait.noConfusion h
  · intro e h k m p
    simp only [swapped, List.mem_cons, List.not_mem_nil, or_false] at h
    subst h
    exact Place.noConfusion p

/-! ### Witnesses: exchanges -/

/-- A group of dies 1 and 2, arbiter die 1, standby die 2. -/
def xdesc : XDesc := { n := 2, cs := 1, segc := 1, carry := false, arb := 4096, stby := 8192, xid := 9, postt := 5, ringt := 5, eps := [4096, 8192] }

/-- Die 1's endpoint context in round 1, and a state in which it has it. -/
def xctx0 : XCtx := { xid := 9, endpoint := true, self := 0, round := 1, active := true, desc := some xdesc, asid := 1, recv := capT, sendCap := capT, sendAsid := 1 }
def xch (x : List XCtx) (r : List XArb) : State :=
  { withSpace one with dies := [(1, { xctxs := x, xarbs := r, tcache := [⟨1, 1, 0, 0, 0x5000, BitVec.ofNat 128 cmem⟩] })] }

/-- The record of round 1. -/
def xarb0 : XArb := { xid := 9, round := 1, standby := false, desc := xdesc }

/-- A grant of 100 bytes of change 1: to this endpoint, and from it. -/
def grantIn : XGrant := ⟨1, 1, 0, 100, 0, 0⟩
def grantOut : XGrant := ⟨1, 0, 1, 100, 0, 0⟩

/-- The endpoint that receives, with the change rung; the one that sends. -/
def xrecv : XCtx := { xctx0 with grants := [grantIn], rung := some 1, recvSlot := some ⟨grantIn, 0, 1, 60, false⟩ }
def xsend0 : XCtx := { xctx0 with grants := [grantOut], acts := some [50, 100] }
def xsend1 (w : Nat) : XCtx := { xsend0 with rung := some 1, send := some ⟨grantOut, 100, w, 0, false⟩ }

/-- Eight contexts of other groups. -/
def others : List XCtx := (List.range 8).map fun i => { xid := BitVec.ofNat 64 (i + 20), endpoint := true }

/-- A path of a group of die 1 that waits for the exchange. -/
def xwaits : State :=
  { xch [{ xctx0 with xsend := some (32, 2, 1) }] [] with groups := [(1, { group with place := .res 32 0, pa := { path with wait := .exchange 9 7 false } })] }

/-- A DPOST that the endpoints of `l` have still to answer, and die 1 with it. -/
def post (l : List Nat) : XPost := ⟨9, 1, (32, 2, 1), 1, [], l⟩
def posting (l : List Nat) : State := { one with dies := [(1, { xposts := [post l] })] }

def xrung : State := xch [xsend0] []

theorem witness_ExchangeEvents :
    (5 % 512 ≠ one.pkg ∧ isDie one 4096 1 ∧ 4096 = 1 * 4096 + one.pkg ∧ isDie one 28672 7 ∧ 7 < 8 ∧ one.pkg < 512 ∧
      (one.linkFor 0 0).isSome = true ∧ unlinked.linkFor 0 0 = none) ∧
    (xdesc.xid = 9 ∧ 4096 = xdesc.arb ∧ xdesc.eps.findIdx? (· == 8192) = some 1 ∧ xdesc.eps.findIdx? (· == 4096) = some 0) ∧
    (HoldsNone (xch [] []) 1 9 1 ∧ ((xch [] []).die 1).xctxs.length < 8 ∧ HoldsNone (xch others []) 1 9 1 ∧ (xch others []).xctx 1 9 = none ∧
      8 ≤ ((xch others []).die 1).xctxs.length ∧ Holds (xch [] [xarb0]) 1 9 1 xarb0 ∧ xarb0.standby = false ∧ xarb0.started = false ∧
      sameFields { xdesc with postt := 6 } xdesc ∧ ¬ sameFields { xdesc with n := 3 } xdesc ∧ xarb0.ringed = none ∧
      (Store.put [(0, [0, 5])] 1 [5, 0]).length = xdesc.n ∧ xarb0.desc.postt ≠ 0 ∧ ((xch [] []).die 1).xarbs = []) ∧
    (({ xarb0 with rows := [(0, [0, 5]), (1, [5, 0])] }.begin).change.current ≠ [] ∧
      ({ xarb0 with rows := [(0, [0, 0]), (1, [0, 0])] }.begin).change.current = []) ∧
    (∀ l ∈ [[4096, 8192], [4096]], ((posting l).die 1).xposts = [post l] ∧ (post l).xid = 9 ∧ (post l).round = 1 ∧ (post l).dacks = l) ∧
    (Joins (xch [xctx0] []) 1 9 1 xctx0 xdesc ∧ CapPasses xctx0.recv [1] xctx0.recv.cursor 4096 ∧
      Joins (xch [{ xctx0 with recv := capU }] []) 1 9 1 { xctx0 with recv := capU } xdesc ∧ xctx0.stbyOnly = false ∧ xctx0.last = none ∧
      xctx0.lastq = false ∧ xctx0.xsend = none ∧ grantIn ∉ xctx0.grants ∧ xctx0.rung = none ∧ xctx0.recvSlot = none ∧
      ((xch [xctx0] []).die 1).xarbs = [] ∧ xctx0.grants = []) ∧
    (let s := xwaits
     (Store.find s.groups 1).isSome = true ∧ dieOf (s.grp 1).core = 1 ∧ (s.grp 1).resident = true ∧ ((s.grp 1).path false).live = true ∧
       ((s.grp 1).path false).wait = .exchange 9 7 false ∧ Store.rising s.groups = true ∧
       s.xctx 1 9 = some { xctx0 with xsend := some (32, 2, 1) }) ∧
    (∀ w ∈ [1, 2], ∀ c ∈ [[], [grantIn]], ∀ sb,
      let r := { xarb0 with started := true, standby := sb, acting := sb, j := 1, current := c, gacks := w }
      Holds (xch [] [r]) 1 9 1 r ∧ r.started = true ∧ (r.standby = false ∨ r.acting = true) ∧ r.j = 1 ∧ r.ringed = none) ∧
    (∀ w ∈ [0, 2], let r := { xarb0 with started := true, j := 2, gacks := w, ringed := some 1, chdone := [0] }
      Holds (xch [] [r]) 1 9 1 r ∧ r.chdone.contains 1 = false ∧ (insertNat r.chdone 1).length = r.desc.n) ∧
    (let x := { xctx0 with grants := [grantIn] }
     Joins (xch [x] []) 1 9 1 x xdesc ∧ grantIn.change = 1 ∧ grantIn.dst = x.self ∧ grantIn.src ≠ x.self ∧ x.recvSlot = none ∧ grantIn ∈ x.grants) ∧
    (let r := (xrung.setX 1 { xsend0 with rung := some 1, suspected := false }).engRead ⟨1, 1, .ca, 3, 0⟩
       [(xsend0.sendCap.cursor + (([50, 100] : List Nat).take 1).sum + 0, 100)]
     Joins xrung 1 9 1 xsend0 xdesc ∧ grantOut.src = xsend0.self ∧ grantOut.dst ≠ xsend0.self ∧ xsend0.carry = [] ∧ xsend0.send = none ∧
       xsend0.sendAsid = 1 ∧ grantOut.bytes ≤ 4096 * 2 ^ xdesc.segc ∧ grantOut.poff + grantOut.bytes ≤ ([50, 100] : List Nat).getD 1 0 ∧
       r.2 = some (.ok (List.replicate 100 0)) ∧ r.1.xctx 1 9 = (xrung.setX 1 { xsend0 with rung := some 1, suspected := false }).xctx 1 9) ∧
    (let s := xch [xrecv] []
     Joins s 1 9 1 xrecv xdesc ∧ xrecv.grants = [grantIn] ∧ xrecv.rung = some 1 ∧ xrecv.last = none ∧ xrecv.recvBad = none ∧
       { xrecv with recvBad := some 1 }.recvBad = some 1 ∧ 8192 % 512 = s.pkg ∧ (xrecv.recv.cursor + 0 + 60) % 2 ^ 15 + 40 ≤ 2 ^ 15 ∧
       (s.translate 1 1 (xrecv.recv.cursor + 0 + 60) .store).2 = .ok ⟨0x1000000103C, ⟨1, 0, true, .ca⟩⟩ ∧
       (s.translate 1 1 (xrecv.recv.cursor + 0 + 60) .store).1.recordsMet 0x1000000103C 40 = [] ∧
       (∀ i, i < 40 → mtOf (localOf (0x1000000103C + i)) = some 1 ∧ homeDie (0x1000000103C + i) = homeDie 0x1000000103C) ∧
       60 + 39 < grantIn.bytes ∧ grantIn.bytes ≤ 60 + 40 ∧ (s.die 1).pends = []) ∧
    (∀ w ∈ [1, 2], Joins (xch [xsend1 w] []) 1 9 1 (xsend1 w) xdesc ∧
      grantOut.poff + grantOut.bytes ≤ (xsend1 w).carry.getD 1 0 + ([50, 100] : List Nat).getD 1 0 ∧ grantOut.bytes ≠ 0 ∧ (xsend1 w).faults.length < 64) ∧
    (let x := { xctx0 with last := some 1, rung := some 1 }
     Joins (xch [x] []) 1 9 1 x xdesc ∧ x.suspected = false) ∧
    (let r := { xarb0 with standby := true, started := true, ringed := some 1 }
     Holds (xch [] [r]) 1 9 1 r ∧ r.acting = false ∧ r.ringed ≠ none) ∧
    (let r := { xarb0 with standby := true, acting := true }
     Holds (xch [] [r]) 1 9 1 r ∧ (Store.put r.lastas 1 (some 1)).length < r.desc.n) ∧
    (let x := { xctx0 with suspected := true }
     Joins (xch [x] []) 1 9 1 x xdesc ∧ x.lastq = false) := by
  unfold isDie HoldsNone Holds Joins CapPasses sameFields
  and_intros <;> decide +kernel

/-- The receiver's page of common memory is cached. -/
theorem witness_ClearSegment : Mapped (xch [xrecv] []) 1 1 (xrecv.recv.cursor + 0 + 60) .store ⟨0x1000000103C, ⟨1, 0, true, .ca⟩⟩ ∧
    (xch [xrecv] []).recordsMet 0x1000000103C 40 = [] :=
  ⟨⟨⟨1, 1, 0, 0, 0x5000, BitVec.ofNat 128 cmem⟩, by decide +kernel, by decide +kernel, fun _ => by decide +kernel, by decide +kernel,
    by decide +kernel, rfl⟩, by decide +kernel⟩

/-- No XWAIT of the state unbinds the group. -/
theorem witness_noneUnbinds : noneUnbinds xwaits 9 := by
  intro g h b r
  simp only [xwaits, List.mem_cons, List.not_mem_nil, or_false] at h
  subst h
  cases b <;> intro e <;> simp only [Group.path, Bool.false_eq_true, ite_false, ite_true] at e <;> cases e

/-! ### Witnesses: the platform -/

/-- An image with one read-only segment of five bytes for offset 16, at 384 of the file, whose entry names the digest `dg`; its
signature follows. -/
def front (dg : Nat) : List Byte :=
  bytesOf 256 (0x01000049524F4556 + 2 ^ 64 + 2 ^ 96 + 2 ^ 112) ++
    bytesOf 64 (1 + 4 * 2 ^ 8 + 5 * 2 ^ 32 + 16 * 2 ^ 64 + 384 * 2 ^ 128 + 389 * 2 ^ 192) ++ bytesOf 64 dg ++ [1, 2, 3, 4, 5]
def image0 (dg : Nat) : Image := { file := front dg ++ List.replicate 7856 0, caps := [] }
def seg0 (dg : Nat) : Segment := (imgSegs (image0 dg)).headD ⟨[], [], [], []⟩

/-- Firmware trusts the key of zeros. -/
def trusting : State := { one with plat := { trust := [List.replicate 32 0] } }

theorem image0_ok (dg : Nat) (h : dg ∈ [0, 1]) : trusting.imageOk (image0 dg) = true := by
  simp only [List.mem_cons, List.not_mem_nil, or_false] at h
  rcases h with rfl | rfl <;> decide +kernel

theorem image0_segs (dg : Nat) (h : dg ∈ [0, 1]) : imgSegs (image0 dg) = [seg0 dg] ∧ (seg0 dg).bytes = [1, 2, 3, 4, 5] := by
  simp only [List.mem_cons, List.not_mem_nil, or_false] at h
  have one_ : (imgSegs (image0 dg)).length = 1 := by rcases h with rfl | rfl <;> decide +kernel
  obtain ⟨g, e⟩ := List.length_eq_one_iff.mp one_
  refine ⟨by unfold seg0; rw [e]; rfl, ?_⟩
  rcases h with rfl | rfl <;> decide +kernel

def slot0 (w : Nat) : TrainSlot := { valid := true, writes := w, eyes := [(3, 100), (4, 100)] }
def booting (p : Platform) : State := { one with plat := p }
def unit0 (die : Nat) : ErrUnit := ⟨die, 0, 5⟩
def counting (n : Nat) : State := { one with plat := { errors := [(unit0 0, n)] } }
def logging (p : Part) : State := { one with parts := [(0, p)] }

/-- Whether a signature verifies is a free value (assumption on SLH-DSA), so that no image is known to fall under one clause or the
other; all that the state and the operands decide is shown, and an image whose segment does not hash to its entry. -/
theorem witness_PlatformEvents :
    (7 < 8 ∧ 63 < 64 ∧ one.outsideDone = true ∧ (0x200000 : W64).getLsbD 21 = true ∧ ((one.queue 7 63).qcfg.getLsbD 21 = false) ∧ (0 : W64).getLsbD 21 = false ∧
      (0x1FFFFFFFFFF < 0x20000000000 ∧ 0x20040080800 ≤ 0x20040080800) ∧
      ((0xFFFFFFFFFFFFFFFF &&& 0x000FFFFFFFFF8001 : W64) ≠ (Store.get 0 (one.die 7).res 7).extractLsb' 0 64 &&& 0x000FFFFFFFFF8001)) ∧
    (∀ e ∈ [(0x20007000300, Act.load), (0x20007000300, .store (bytesOf 8 5)), (0x20007000008, .load)],
      let r := { part9 0 4 8 e.2 with pa := e.1 }
      Store.find counted.ops r.op = some inFlight ∧ (localOf r.pa = 0x20000000000 + 7 * 0x1000000 + 0x300 ∨
        localOf r.pa = 0x20000000000 + 7 * 0x1000000 + 8) ∧ r.len = 8 ∧ (bytesOf 8 5).length = 8) ∧
    ({ image0 0 with file := [] }.file.length < 256 ∧ natOf ((front 1).take 8) = 0x01000049524F4556) ∧
    (∃ dg ∈ [0, 1], trusting.imageOk (image0 dg) = true ∧ imgSegs (image0 dg) = [seg0 dg] ∧
      Config.shake256 (seg0 dg).bytes ≠ BitVec.ofNat 512 (natOf ((seg0 dg).entry.drop 64))) ∧
    (Store.find trusting.asids 1 = none ∧ natOf ((seg0 0).entry.take 128) / 2 ^ 64 % 2 ^ 64 = 16 ∧ 0x10000 % 2 ^ 15 = 0 ∧
      0x100000 + 64 ≤ 0x200000 ∧ (seg0 0).bytes = [1, 2, 3, 4, 5] ∧ 16 + 5 ≤ 2 ^ 15 ∧ 
      ∀ d, (trusting.die d).pinned = [] ∧ ∀ e ∈ (trusting.die d).dirs, e.lease = none) ∧
    ((booting {}).plat.powered = false ∧ (booting { recovery := true }).plat.recovery = true ∧ (booting {}).plat.recovery = false) ∧
    (slot1InUse { slot0 := slot0 4, slot1 := slot0 5 } ∧ slot1InUse { slot1 := slot0 5 } ∧ 100 * 69 < 70 * 100 ∧ ¬ 100 * 70 < 70 * 100) ∧
    (∀ l ∈ [[], [3]], (booting { powered := true, stage := 2, failedLanes := l }).plat.powered = true) ∧
    ((booting { powered := true, stage := 3 }).plat.stage = 3 ∧ (one.die 7).failed = false) ∧
    (let r := part9 0 3 8 .load
     let s : State := { counted with agenda := [.remoteAccess r] }
     Instr.remoteAccess r ∈ s.agenda ∧ Store.find s.ops r.op = some inFlight ∧ inFlight.out = 1 ∧ inFlight.parked = false ∧ inFlight.bad = none ∧
       inFlight.after = [] ∧ inFlight.once = false ∧ r.lane < 32) ∧
    (∀ n ∈ [2, 3], ((counting n).plat.errors.find? fun e => e.1 == unit0 0) = some (unit0 0, n) ∧ (counting n).partOfDie 0 = some 0 ∧
      (n + 1 = limit 0 ↔ n = 3)) ∧
    (∀ e ∈ one.plat.errors, e.1 ≠ unit0 5) ∧ one.partOfDie 5 = none ∧
    (let p : Part := { dies := [0], evbase := 0x300000 }
     (logging p).partOfDie 0 = some 0 ∧ p.evbase ≠ 0 ∧ ¬ (p.eseq + 2 ^ 64 - p.evack.toNat - 1) % 2 ^ 64 = 2 ^ (p.evbase.toNat % 16 + 4) ∧
       (logging p).recordsMet (p.evbase.toNat / 2 ^ 12 % 2 ^ 40 * 2 ^ 12 + p.eseq % 2 ^ (p.evbase.toNat % 16 + 4) * 32) 32 = []) ∧
    (let p : Part := { dies := [0], evbase := 0x300000, eseq := 17 }
     (p.eseq + 2 ^ 64 - p.evack.toNat - 1) % 2 ^ 64 = 2 ^ (p.evbase.toNat % 16 + 4)) ∧
    (∀ p d, ((logging p).die d).dirs = []) ∧ 5 < 2 ^ 52 ∧ 2 ^ 52 ≤ 2 ^ 52 + 3 * 2 ^ 20 + 7 := by
  unfold slot1InUse
  refine ⟨by decide +kernel, by decide +kernel, by decide +kernel, ?_, ⟨rfl, by decide +kernel, rfl, by decide, by decide +kernel, by decide, fun d => ?_⟩,
    ?_⟩
  · by_cases h : Config.shake256 (seg0 0).bytes = BitVec.ofNat 512 (natOf ((seg0 0).entry.drop 64))
    · refine ⟨1, by simp, image0_ok 1 (by simp), (image0_segs 1 (by simp)).1, fun g => ?_⟩
      rw [(image0_segs 0 (by simp)).2] at h
      rw [(image0_segs 1 (by simp)).2] at g
      have e : BitVec.ofNat 512 (natOf ((seg0 0).entry.drop 64)) = BitVec.ofNat 512 (natOf ((seg0 1).entry.drop 64)) := h.symm.trans g
      exact absurd e (by decide +kernel)
    · exact ⟨0, by simp, image0_ok 0 (by simp), (image0_segs 0 (by simp)).1, h⟩
  · exact ⟨rfl, fun e h => (List.not_mem_nil h).elim⟩
  · and_intros
    all_goals try decide +kernel
    exact fun p d => rfl

/-- Die 2's lease in epoch 3. -/
def leased (l : Lease) : State := { one with dies := [(2, { lease := l })] }
def wearing (w : Wear) : State := { one with plat := { wear := [(23, w)] } }

theorem witness_LeaseAndSidebandEvents :
    (∀ a, (leaseOf (leased { epoch := 3, acting := a }) 2).acting = a) ∧ ((leased {}).die 2).failed = false ∧
    ((leaseOf (leased { epoch := 3 }) 2).epoch ≤ 3 ∧ (leaseOf (leased { epoch := 3 }) 2).epoch < 4 ∧ 2 < (leaseOf (leased { epoch := 3 }) 2).epoch) ∧
    (let l := leaseOf (leased { epoch := 3, leader := some 0, heard := [0, 2, 5] }) 2
     l.acting = false ∧ ∀ x ∈ l.heard, l.leader = some x ∨ 2 ≤ x) ∧
    (let l := leaseOf (leased { epoch := 3, leader := some 0, heard := [0, 1] }) 2
     ∃ x ∈ l.heard, l.leader ≠ some x ∧ x < 2) ∧
    (let l := leaseOf (leased { epoch := 3, claimed := some 2 }) 2
     (∀ c, l.claimed = some c → 2 ≤ c) ∧ (∃ c, l.claimed = some c ∧ c < 3) ∧ l.claimed = some 2 ∧ l.acting = false ∧
       (∀ e, e < 8 → ((leased { epoch := 3, claimed := some 2 }).die e).failed = false →
         (leaseOf (leased { epoch := 3, claimed := some 2 }) e).zeroed = true → e = 2 ∨ e ∈ l.accepts)) ∧
    (let s := leased { epoch := 3, claimed := some 2, zeroed := true }
     ¬ ∀ e, e < 8 → (s.die e).failed = false → (leaseOf s e).zeroed = true → e = 5 ∨ e ∈ (leaseOf s 2).accepts) ∧
    (let l := leaseOf (leased { epoch := 1, zeroed := true }) 2
     l.zeroed = true ∧ l.leader = none ∧ l.heard = [] ∧ l.epoch ≤ 1) ∧
    (∀ w ∈ [({ rising := true, peak := 40, low := 10 } : Wear), { rising := false, peak := 40, low := 10 }], (wearing w).plat.wearOf 23 = w) ∧
    ((40 : Int) < 41 ∧ (35 : Int) + 5 ≤ 40 ∧ (10 : Int) + 5 ≤ 15 ∧ (9 : Int) < 10 ∧ (30 : Int) ≤ 40 - 10 ∧ ¬ (50 : Int) ≤ 40 - 10) ∧
    23 < 24 ∧ 24 ≤ 24 ∧ (0x05 : Byte) ∉ [0x01, 0x02, 0x03, 0x04, 0x10] ∧ (0x10 : Byte) ∈ [0x01, 0x02, 0x03, 0x04, 0x10] := by
  refine ⟨fun a => rfl, by decide, by decide, by decide, by decide, ⟨?_, ⟨2, rfl, by decide⟩, rfl, rfl, by decide +kernel⟩, by decide +kernel, by decide,
    by decide +kernel, by decide, by decide, by decide, by decide, by decide⟩
  rintro c h
  exact (Option.some.inj h).symm ▸ Nat.le_refl 2

/-- A state whose memory is in canonical form, and a step from it that answers a next state. -/
theorem witness_StepKeepsMemory : (fetching one 0).memOk ∧ ∃ t, step (fetching one 0) = .next t := by
  refine ⟨by unfold State.memOk; decide, ?_⟩
  have h : (match step (fetching one 0) with | .next _ => true | _ => false) = true := by decide +kernel
  revert h
  cases step (fetching one 0) with
  | next t => exact fun _ => ⟨t, rfl⟩
  | fault f => exact fun h => absurd h (by simp)
  | refused r => exact fun h => absurd h (by simp)

end Sys2Proof.Tests
end

section
/-! PROOF. BRD (07 R175, R176, R178; 10 R252): the lanes it takes, the path it starts, the entry it pushes. -/

namespace Sys2Proof.Machine

open Sys2Proof.Claim

/-! ### The lanes and the target -/

/-- A signed offset added to an address is the sum of the integers, modulo 2^57 (10 R248). -/
theorem branchTo_eq_ofInt (pc : VA) (off : W32) : branchTo pc off = BitVec.ofInt 57 (pc.toNat + off.toInt) := by
  rw [BitVec.ofInt_add, BitVec.ofInt_natCast, BitVec.ofNat_toNat, BitVec.setWidth_eq]
  rfl

theorem State.predBits_getLsbD (s : State) (q : Pred) {l : Nat} (hl : l < 32) :
    (s.predBits q).getLsbD l = ((s.rk q.k).getLsbD l != q.kn) := by
  unfold State.predBits
  cases q.kn with
  | false => simp
  | true =>
    have ones : (if true = true then 0xFFFFFFFF else 0 : Mask) = BitVec.allOnes 32 := rfl
    rw [ones, BitVec.getLsbD_xor, BitVec.getLsbD_allOnes, decide_eq_true hl]

theorem eq_and_of_getLsbD {m x tm : Mask} (h : ∀ l, l < 32 → tm.getLsbD l = (m.getLsbD l && x.getLsbD l)) : tm = m &&& x :=
  BitVec.eq_of_getLsbD_eq fun l hl => by rw [h l hl, BitVec.getLsbD_and]

theorem eq_and_not_of_getLsbD {m tm nm : Mask} (h : ∀ l, l < 32 → nm.getLsbD l = (m.getLsbD l && !tm.getLsbD l)) :
    nm = m &&& ~~~tm :=
  eq_and_of_getLsbD fun l hl => by rw [h l hl, BitVec.getLsbD_not, decide_eq_true hl, Bool.true_and]

/-- No lane of a mask is left exactly when a part of it is all of it. -/
theorem and_not_part_eq_zero_iff (m x : Mask) : m &&& ~~~(m &&& x) = 0 ↔ m &&& x = m := by
  constructor
  · intro h
    refine BitVec.eq_of_getLsbD_eq fun l hl => ?_
    have hl0 : (m &&& ~~~(m &&& x)).getLsbD l = false := by rw [h, BitVec.ofNat_eq_ofNat, BitVec.getLsbD_zero]
    simp only [BitVec.getLsbD_and, BitVec.getLsbD_not, hl, decide_true, Bool.true_and] at hl0 ⊢
    revert hl0
    cases m.getLsbD l <;> simp
  · intro h
    rw [h, BitVec.and_not_self]

/-! ### Changes of the issuing path -/

variable {s : State}

@[simp] theorem Group.setPath_setPath (g : Group) (b : Bool) (x y : Path) : (g.setPath b x).setPath b y = g.setPath b y := by
  cases b <;> rfl

theorem State.modP_frame (h : s.issuing) (f : Path → Path) : s.Frame (s.modP f) {} :=
  State.modG_frame h _ {} (Group.kept_setPath _ _ _ _)

theorem State.modP_p (h : s.issuing) (f : Path → Path) : (s.modP f).p = f s.p := by
  rw [State.modP, State.p_eq, State.modG_g h, State.modG_cur, Group.path_setPath, State.p_eq]

theorem State.modG_p (h : s.issuing) (f : Group → Group) : (s.modG f).p = (f s.g).path s.cur.b := by
  rw [State.p_eq, State.modG_g h, State.modG_cur]

theorem State.modG_q (h : s.issuing) (f : Group → Group) : (s.modG f).q = (f s.g).path (!s.cur.b) := by
  rw [State.q_eq, State.modG_g h, State.modG_cur]

/-- What a group holds beside its two paths. -/
def Group.pathless (g : Group) : Group := { g with pa := {}, pb := {} }

@[simp] theorem Group.pathless_setPath (g : Group) (b : Bool) (x : Path) : (g.setPath b x).pathless = g.pathless := by
  cases b <;> rfl

/-- A state with other operations in flight and another next number of the model's own. -/
def State.withOps (s : State) (ops : Store OpRec) (n : Nat) : State := { s with ops := ops, fresh := n }

@[simp] theorem State.withOps_cur (ops : Store OpRec) (n : Nat) : (s.withOps ops n).cur = s.cur := rfl
@[simp] theorem State.withOps_g (ops : Store OpRec) (n : Nat) : (s.withOps ops n).g = s.g := rfl
theorem State.withOps_issuing (h : s.issuing) (ops : Store OpRec) (n : Nat) : (s.withOps ops n).issuing := h

/-- A change of the issuing group's paths, with other operations in flight and another next number. -/
theorem State.withOps_modG_pathsOnly (h : s.issuing) (ops : Store OpRec) (n : Nat) (f : Group → Group)
    (hf : (f s.g).pathless = s.g.pathless) : PathsOnly s ((s.withOps ops n).modG f) := by
  have hu := State.withOps_issuing h ops n
  refine ⟨?_, ?_, fun gid hne => State.modG_sameOthers f gid hne⟩
  · rw [State.modG_g hu]
    exact congrArg (fun g : Group => { g with pa := s.g.pa, pb := s.g.pb }) hf
  · rw [State.modG_eq hu]
    rfl

theorem State.modG_withOps (h : s.issuing) (f : Group → Group) (k : Store OpRec → Store OpRec) :
    ({ s.modG f with ops := k (s.modG f).ops } : State) = (s.withOps (k s.ops) s.fresh).modG f := by
  rw [State.modG_eq h, State.modG_eq (State.withOps_issuing h _ _)]
  rfl

/-! ### The partner path (07 R175, R176) -/

/-- An operation of the issuing path, charged to both paths; any other operation as it is. -/
def State.chargeBoth (s : State) (o : Nat × OpRec) : Nat × OpRec :=
  if o.2.gid = s.cur.gid ∧ (if s.cur.b then o.2.chB else o.2.chA) then (o.1, { o.2 with chA := true, chB := true }) else o

theorem State.chargeBoth_fst (s : State) (o : Nat × OpRec) : (s.chargeBoth o).1 = o.1 := by
  unfold State.chargeBoth
  rw [apply_ite Prod.fst, ite_self]

theorem State.chargeBoth_of_charged (s : State) (o : Nat × OpRec) (hg : o.2.gid = s.cur.gid)
    (hc : (if s.cur.b then o.2.chB else o.2.chA) = true) : s.chargeBoth o = (o.1, { o.2 with chA := true, chB := true }) :=
  if_pos ⟨hg, hc⟩

/-- The path that a BRD starts in the free slot. -/
def State.partnerPath (s : State) (tm : Mask) (t rc : VA) : Path :=
  { live := true, mask := tm, pc := t, rpc := rc, partner := true, loops := breakLoops s.p.pc t s.p.loops }

/-- The issuing path after a BRD has started its partner. -/
def State.splitPath (s : State) (tm : Mask) (rc : VA) : Path :=
  { s.p with mask := s.p.mask &&& ~~~tm, rpc := rc, partner := true }.past 16

/-- A BRD that starts a path changes the two paths of its group and the charges of operations. -/
theorem State.forkPath_eq (h : s.issuing) (tm : Mask) (t rc : VA) :
    s.forkPath tm t rc = (s.withOps (s.ops.map s.chargeBoth) s.fresh).modG fun g =>
      (g.setPath (!s.cur.b) (s.partnerPath tm t rc)).setPath s.cur.b (s.splitPath tm rc) := by
  have hu := State.withOps_issuing h (s.ops.map s.chargeBoth) s.fresh
  have byDef : s.forkPath tm t rc = (State.modP
      { s.modG fun g => g.setPath (!s.cur.b) (s.partnerPath tm t rc) with
        ops := (s.modG fun g => g.setPath (!s.cur.b) (s.partnerPath tm t rc)).ops.map s.chargeBoth }
      fun p => { p with mask := p.mask &&& ~~~tm, rpc := rc, partner := true }).retire 16 := rfl
  rw [byDef, State.modG_withOps h, State.retire, State.modP, State.modP, State.modG_modG hu, State.modG_modG hu]
  refine State.modG_congr hu ?_
  simp [State.splitPath, State.p_eq]

theorem State.forkPath_p (h : s.issuing) (tm : Mask) (t rc : VA) : (s.forkPath tm t rc).p = s.splitPath tm rc := by
  rw [State.forkPath_eq h, State.modG_p (State.withOps_issuing h _ _)]
  exact Group.path_setPath _ _ _

theorem State.forkPath_q (h : s.issuing) (tm : Mask) (t rc : VA) : (s.forkPath tm t rc).q = s.partnerPath tm t rc := by
  rw [State.forkPath_eq h, State.modG_q (State.withOps_issuing h _ _)]
  exact (Group.path_setPath_not _ _ _).trans (Group.path_setPath _ _ _)

theorem State.forkPath_pathsOnly (h : s.issuing) (tm : Mask) (t rc : VA) : PathsOnly s (s.forkPath tm t rc) := by
  rw [State.forkPath_eq h]
  exact State.withOps_modG_pathsOnly h _ _ _ (by simp)

theorem State.forkPath_ops (h : s.issuing) (tm : Mask) (t rc : VA) : (s.forkPath tm t rc).ops = s.ops.map s.chargeBoth := by
  rw [State.forkPath_eq h, State.modG_eq (State.withOps_issuing h _ _)]
  rfl

theorem State.forkPath_keys (h : s.issuing) (tm : Mask) (t rc : VA) :
    (s.forkPath tm t rc).ops.map Prod.fst = s.ops.map Prod.fst := by
  rw [State.forkPath_ops h, List.map_map]
  exact List.map_congr_left fun o _ => s.chargeBoth_fst o

/-- Every operation of the issuing path is charged to both paths, under its number and its flag. -/
theorem State.forkPath_charges (h : s.issuing) (tm : Mask) (t rc : VA) {o : Nat × OpRec} (ho : o ∈ s.ops)
    (hg : o.2.gid = s.cur.gid) (hc : (if s.cur.b then o.2.chB else o.2.chA) = true) :
    ∃ x ∈ (s.forkPath tm t rc).ops, x.1 = o.1 ∧ x.2.chA = true ∧ x.2.chB = true ∧ x.2.flag = o.2.flag := by
  refine ⟨(o.1, { o.2 with chA := true, chB := true }), ?_, rfl, rfl, rfl, rfl⟩
  rw [State.forkPath_ops h, ← s.chargeBoth_of_charged o hg hc]
  exact List.mem_map_of_mem ho

/-! ### The deferred side (07 R175, R178) -/

/-- A group with an on-chip stack entry free: where all 32 are in use, the oldest has moved to the spill area. -/
def Group.makeRoom (g : Group) : Group :=
  if g.onChip.length < 32 then g
  else match oldestSeq g.onChip with
    | some n => { g with pa := { g.pa with stack := spillSeq n g.pa.stack }, pb := { g.pb with stack := spillSeq n g.pb.stack } }
    | none => g

theorem Group.push_eq (g : Group) (b : Bool) (seq : Nat) (m : Mask) (pc rpc : VA) :
    g.push b seq m pc rpc =
      g.makeRoom.setPath b { g.makeRoom.path b with stack := ⟨true, m, pc, rpc, seq, true⟩ :: (g.makeRoom.path b).stack } := rfl

/-- A spill changes where entries are kept, and nothing else of them. -/
theorem spillSeq_placeless (n : Nat) (l : List StackEntry) : (spillSeq n l).map placeless = l.map placeless := by
  unfold spillSeq
  rw [List.map_map]
  refine List.map_congr_left fun e _ => ?_
  rw [Function.comp_apply]
  split <;> rfl

/-- Making room moves entries of the two stacks and does nothing else. -/
theorem Group.makeRoom_cases (g : Group) : g.makeRoom = g ∨ ∃ n, g.makeRoom =
    { g with pa := { g.pa with stack := spillSeq n g.pa.stack }, pb := { g.pb with stack := spillSeq n g.pb.stack } } := by
  unfold Group.makeRoom
  split
  · exact .inl rfl
  · split
    · exact .inr ⟨_, rfl⟩
    · exact .inl rfl

@[simp] theorem Group.makeRoom_pathless (g : Group) : g.makeRoom.pathless = g.pathless := by
  obtain e | ⟨n, e⟩ := g.makeRoom_cases <;> rw [e]
  rfl

theorem Group.makeRoom_path (g : Group) (b : Bool) :
    ∃ st, g.makeRoom.path b = { g.path b with stack := st } ∧ st.map placeless = (g.path b).stack.map placeless := by
  obtain e | ⟨n, e⟩ := g.makeRoom_cases
  · exact ⟨(g.path b).stack, by rw [e], rfl⟩
  · refine ⟨spillSeq n (g.path b).stack, ?_, spillSeq_placeless n _⟩
    rw [e]
    cases b <;> rfl

/-- The issuing path after a BRD has pushed its deferred side, but for its stack. -/
def State.keptSide (s : State) (tm : Mask) : Path := { s.p with mask := s.p.mask &&& ~~~tm }.past 16

theorem State.deferSide_eq (h : s.issuing) (tm : Mask) (t rc : VA) :
    s.deferSide tm t rc = (s.withOps s.ops (s.fresh + 1)).modG fun g =>
      g.makeRoom.setPath s.cur.b { s.keptSide tm with
        stack := ⟨true, tm, t, rc, s.fresh, true⟩ :: (g.makeRoom.path s.cur.b).stack } := by
  have hu := State.withOps_issuing h s.ops (s.fresh + 1)
  obtain ⟨st, hp, -⟩ := s.g.makeRoom_path s.cur.b
  have byDef : s.deferSide tm t rc = (((s.withOps s.ops (s.fresh + 1)).modG fun g => g.push s.cur.b s.fresh tm t rc).modP fun p =>
    { p with mask := p.mask &&& ~~~tm }).retire 16 := rfl
  rw [byDef, State.retire, State.modP, State.modP, State.modG_modG hu, State.modG_modG hu]
  refine State.modG_congr hu ?_
  simp only [State.modG_cur, State.withOps_cur, State.withOps_g, Group.push_eq, Group.path_setPath, Group.setPath_setPath, hp]
  rfl

theorem State.deferSide_p (h : s.issuing) (tm : Mask) (t rc : VA) : ∃ st, st.map placeless = s.p.stack.map placeless ∧
    (s.deferSide tm t rc).p = { s.keptSide tm with stack := ⟨true, tm, t, rc, s.fresh, true⟩ :: st } := by
  obtain ⟨st, hp, hst⟩ := s.g.makeRoom_path s.cur.b
  refine ⟨st, hst, ?_⟩
  rw [State.deferSide_eq h, State.modG_p (State.withOps_issuing h _ _), State.withOps_cur, Group.path_setPath, State.withOps_g, hp]

theorem State.deferSide_q (h : s.issuing) (tm : Mask) (t rc : VA) : ∃ st, st.map placeless = s.q.stack.map placeless ∧
    (s.deferSide tm t rc).q = { s.q with stack := st } := by
  obtain ⟨st, hp, hst⟩ := s.g.makeRoom_path !s.cur.b
  refine ⟨st, hst, ?_⟩
  rw [State.deferSide_eq h, State.modG_q (State.withOps_issuing h _ _), State.withOps_cur, Group.path_setPath_not, State.withOps_g, hp]
  rfl

theorem State.deferSide_pathsOnly (h : s.issuing) (tm : Mask) (t rc : VA) : PathsOnly s (s.deferSide tm t rc) := by
  rw [State.deferSide_eq h]
  exact State.withOps_modG_pathsOnly h _ _ _ (by simp)

/-! ### The instruction -/

theorem State.spillFault_of_room (h : s.g.onChip.length < 32 ∨ Config.spillFails s.fresh = none) : s.spillFault = none := by
  unfold State.spillFault
  split
  · rfl
  · exact h.resolve_left ‹_›

theorem State.spillFault_of_full (h : 32 ≤ s.g.onChip.length) : s.spillFault = Config.spillFails s.fresh :=
  if_neg (Nat.not_lt.mpr h)

/-- What a BRD does, by the lanes that it takes and those that it leaves (10 R252). -/
theorem exec_brd (s : State) (q : Pred) (t8 rc8 : W32) {tm nm : Mask} {tt rc : VA}
    (htm : ∀ l, l < 32 → tm.getLsbD l = (s.p.mask.getLsbD l && ((s.rk q.k).getLsbD l != q.kn)))
    (hnm : ∀ l, l < 32 → nm.getLsbD l = (s.p.mask.getLsbD l && !tm.getLsbD l))
    (htt : branchTo s.p.pc t8 = tt) (hrc : branchTo s.p.pc rc8 = rc) :
    exec (.brd q t8 rc8) s = .next (
      if nm = 0 then s.modP fun p => p.jump tt
      else if tm = 0 then s.retire 16
      else if s.q.live = false then s.forkPath tm tt rc
      else if 2080 ≤ s.g.pa.stack.length + s.g.pb.stack.length then s.trapAll 0x38 0
      else s.spillFault.elim (s.deferSide tm tt rc) (s.bump.trapAll 0x38)) := by
  have tm_eq : tm = s.p.mask &&& s.predBits q := eq_and_of_getLsbD fun l hl => by rw [htm l hl, s.predBits_getLsbD q hl]
  have nm_zero : (nm = 0) = (tm = s.p.mask) := by
    rw [eq_and_not_of_getLsbD hnm, tm_eq]
    exact propext (and_not_part_eq_zero_iff _ _)
  have unfolded : exec (.brd q t8 rc8) s = execBrd q t8 rc8 s := rfl
  rw [unfolded, execBrd]
  simp only [← tm_eq, htt, hrc, nm_zero, Bool.not_eq_true', Group.stackTotal, ge_iff_le]
  cases s.spillFault <;> rfl

/-- Settles O11: each case of `exec_brd`, with what `jump`, `retire`, `forkPath` and `deferSide` do. -/
theorem divergentBranch : Obligations.DivergentBranch := by
  unfold Obligations.DivergentBranch
  intro s h q t8 rc8 tm nm htm hnm i tt rc
  have brd := exec_brd (tt := tt) (rc := rc) s q t8 rc8 htm hnm (branchTo_eq_ofInt _ _) (branchTo_eq_ofInt _ _)
  have nm_eq : s.p.mask &&& ~~~tm = nm := (eq_and_not_of_getLsbD hnm).symm
  refine ⟨fun n0 => ?_, fun t0 n0 => ?_, fun t0 n0 free => ?_, fun t0 n0 both notFull noFail => ?_, fun t0 n0 both full => ?_,
    fun t0 n0 both notFull noRoom => ?_⟩
  · rw [if_pos n0] at brd
    exact ⟨_, brd, State.modP_p h _, State.modP_frame h _⟩
  · rw [if_neg n0, if_pos t0] at brd
    exact ⟨_, brd, (State.retire_frame h 16).symm⟩
  · rw [if_neg n0, if_neg t0, if_pos free] at brd
    refine ⟨_, brd, ?_, State.forkPath_q h _ _ _, State.forkPath_pathsOnly h _ _ _, State.forkPath_keys h _ _ _,
      fun o => State.forkPath_charges h _ _ _⟩
    rw [State.forkPath_p h, State.splitPath, nm_eq]
  · rw [if_neg n0, if_neg t0, if_neg (by simp [both]), if_neg (Nat.not_le.mpr notFull), State.spillFault_of_room noFail,
      Option.elim_none] at brd
    obtain ⟨stp, hstp, hp⟩ := State.deferSide_p h tm tt rc
    obtain ⟨stq, hstq, hq⟩ := State.deferSide_q h tm tt rc
    refine ⟨_, brd, ?_⟩
    beta_reduce
    rw [hp, hq]
    exact ⟨nm_eq, rfl, rfl, rfl, congrArg _ hstp, hstq, State.deferSide_pathsOnly h tm tt rc⟩
  · rw [if_neg n0, if_neg t0, if_neg (by simp [both]), if_pos full] at brd
    exact brd
  · rw [if_neg n0, if_neg t0, if_neg (by simp [both]), if_neg (Nat.not_le.mpr notFull), State.spillFault_of_full noRoom] at brd
    refine ⟨_, brd, fun a fails => ?_⟩
    rw [fails, Option.elim_some]

end Sys2Proof.Machine
end

section
/-! PROOF. SDIV and SREM (10 R261): the quotient truncated toward zero and its remainder, as the type reads its operands. -/

namespace Sys2Proof.Machine

open Sys2Proof.Claim

/-! ### Operands and results as integers (10 R259, R260) -/

theorem signedOf_eq_toInt (w x : Nat) : signedOf w x = (BitVec.ofNat w x).toInt := by
  unfold signedOf
  rw [BitVec.toInt_eq_toNat_cond, BitVec.toNat_ofNat]
  rcases w with _ | w
  · simp [Nat.mod_one]
  · have half : 2 * 2 ^ w = 2 ^ (w + 1) := by rw [Nat.pow_succ]; omega
    rw [Nat.add_sub_cancel]
    exact if_congr (by omega) rfl rfl

/-- The type reads a register's low w bits as the claims do. -/
theorem valueOf_mod_eq_sNum (ty : STy) (v : W64) : valueOf ty (v.toNat % 2 ^ styWidth ty) = sNum ty v := by
  have low (w : Nat) : BitVec.ofNat w (v.toNat % 2 ^ w) = v.truncate w := BitVec.eq_of_toNat_eq (by simp)
  cases ty with
  | i32 => exact (signedOf_eq_toInt 32 _).trans (congrArg BitVec.toInt (low 32))
  | n32 => exact congrArg Nat.cast (BitVec.toNat_setWidth 32 v).symm
  | i64 => exact (signedOf_eq_toInt 64 _).trans (congrArg BitVec.toInt ((low 64).trans (BitVec.setWidth_eq v)))
  | n64 => exact congrArg Nat.cast (Nat.mod_eq_of_lt v.isLt)

theorem State.ssrc_eq_mod (s : State) (ty : STy) (y : SSrc) : s.ssrc ty y = (sOp s ty y).toNat % 2 ^ styWidth ty := by
  cases y with
  | reg r => rfl
  | imm v => cases ty <;> rfl

theorem State.valueOf_sval (s : State) (ty : STy) (a : SReg) : valueOf ty (s.sval ty a) = sNum ty (s.g.sreg a) :=
  valueOf_mod_eq_sNum ty _

theorem State.valueOf_ssrc (s : State) (ty : STy) (y : SSrc) : valueOf ty (s.ssrc ty y) = sNum ty (sOp s ty y) := by
  rw [State.ssrc_eq_mod, valueOf_mod_eq_sNum]

theorem ofNat_wrapTo (w : Nat) (z : Int) : BitVec.ofNat w (wrapTo w z) = BitVec.ofInt w z := by
  refine BitVec.eq_of_toNat_eq ?_
  rw [BitVec.toNat_ofNat, Nat.mod_eq_of_lt (wrapTo_lt w z), BitVec.toNat_ofInt]
  rfl

/-- A wrapped integer, extended into a register as its type says. -/
theorem extendS_wrapTo (ty : STy) (z : Int) : extendS ty (wrapTo (styWidth ty) z) = sRes ty z := by
  cases ty with
  | i32 => exact congrArg (BitVec.signExtend 64) (ofNat_wrapTo 32 z)
  | n32 =>
    have low : BitVec.ofNat 64 (wrapTo 32 z % 2 ^ 32) = (BitVec.ofNat 32 (wrapTo 32 z)).zeroExtend 64 :=
      BitVec.eq_of_toNat_eq (by simp)
    exact low.trans (congrArg (BitVec.zeroExtend 64) (ofNat_wrapTo 32 z))
  | i64 => exact ofNat_wrapTo 64 z
  | n64 => exact ofNat_wrapTo 64 z

/-- A w-bit number is the wrapped form of what its type reads. -/
theorem wrapTo_valueOf (ty : STy) {x : Nat} (h : x < 2 ^ styWidth ty) : wrapTo (styWidth ty) (valueOf ty x) = x := by
  rw [wrapTo_congr _ (valueOf_emod ty x), wrapTo_natCast _ _ h]

theorem valueOf_eq_zero_iff (ty : STy) {y : Nat} (h : y < 2 ^ styWidth ty) : valueOf ty y = 0 ↔ y = 0 := by
  constructor
  · intro h0
    rw [← wrapTo_valueOf ty h, h0]
    exact wrapTo_natCast _ 0 (by positivity)
  · rintro rfl
    cases ty <;> rfl

/-! ### The quotient and the remainder -/

theorem wrapTo_neg_one (ty : STy) : wrapTo (styWidth ty) (-1) = 2 ^ styWidth ty - 1 := by cases ty <;> rfl

theorem sDiv_eq (ty : STy) (x : Nat) {y : Nat} (hy : y < 2 ^ styWidth ty) :
    sDiv ty x y = wrapTo (styWidth ty) (if valueOf ty y = 0 then -1 else (valueOf ty x).tdiv (valueOf ty y)) := by
  unfold sDiv
  by_cases h : y = 0
  · rw [if_pos h, if_pos ((valueOf_eq_zero_iff ty hy).mpr h), wrapTo_neg_one]
  · rw [if_neg h, if_neg (mt (valueOf_eq_zero_iff ty hy).mp h)]

/-- Division by zero is no case of its own: the truncated remainder by zero is the dividend. -/
theorem sRem_eq (ty : STy) {x y : Nat} (hx : x < 2 ^ styWidth ty) (hy : y < 2 ^ styWidth ty) :
    sRem ty x y = wrapTo (styWidth ty) ((valueOf ty x).tmod (valueOf ty y)) := by
  unfold sRem
  by_cases h : y = 0
  · rw [if_pos h, (valueOf_eq_zero_iff ty hy).mpr h, Int.tmod_zero, wrapTo_valueOf ty hx]
  · rw [if_neg h]

/-- A two-operand instruction whose result is an integer's low w bits writes them and does nothing else. -/
theorem setsS_of_scalar2 {s : State} (h : s.issuing) {i : Instr} {f : STy → Nat → Nat → Nat} {ty : STy} {d a : SReg}
    {y : SSrc} {z : Int} (hi : exec i s = .next (s.scalar2 f ty d a y))
    (hf : f ty (s.sval ty a) (s.ssrc ty y) = wrapTo (styWidth ty) z) : SetsS s i 8 d (sRes ty z) := by
  refine ⟨_, hi, ?_⟩
  rw [State.scalar2, hf, ← extendS_wrapTo]
  exact State.putS_effect h ty d _ 8

theorem setsS_sdiv {s : State} (h : s.issuing) (ty : STy) (d a : SReg) (y : SSrc) :
    SetsS s (.sdiv ty d a y) 8 d
      (sRes ty (if sNum ty (sOp s ty y) = 0 then -1 else (sNum ty (s.g.sreg a)).tdiv (sNum ty (sOp s ty y)))) := by
  have exec_sdiv : exec (.sdiv ty d a y) s = .next (s.scalar2 sDiv ty d a y) := rfl
  refine setsS_of_scalar2 h exec_sdiv ?_
  rw [sDiv_eq ty _ (s.ssrc_lt ty y), s.valueOf_sval, s.valueOf_ssrc]

theorem setsS_srem {s : State} (h : s.issuing) (ty : STy) (d a : SReg) (y : SSrc) :
    SetsS s (.srem ty d a y) 8 d (sRes ty ((sNum ty (s.g.sreg a)).tmod (sNum ty (sOp s ty y)))) := by
  have exec_srem : exec (.srem ty d a y) s = .next (s.scalar2 sRem ty d a y) := rfl
  refine setsS_of_scalar2 h exec_srem ?_
  rw [sRem_eq ty (s.sval_lt ty a) (s.ssrc_lt ty y), s.valueOf_sval, s.valueOf_ssrc]

/-- A remainder other than 0 has the sign of the dividend. -/
theorem tmod_neg_iff {x z : Int} (h : x.tmod z ≠ 0) : x.tmod z < 0 ↔ x < 0 := by
  constructor
  · intro neg
    by_contra nonneg
    exact absurd (Int.tmod_nonneg z (Int.not_lt.mp nonneg)) (Int.not_le.mpr neg)
  · intro neg
    have opposite := Int.tmod_nonneg z (Int.neg_nonneg.mpr (Int.le_of_lt neg))
    rw [Int.neg_tmod] at opposite
    omega

/-- The most negative number and its negation have the same low w bits. -/
theorem sRes_two_pow (ty : STy) : sRes ty (2 ^ (sWidth ty - 1)) = sRes ty (-(2 ^ (sWidth ty - 1))) := by
  cases ty <;> decide

theorem sRes_zero (ty : STy) : sRes ty 0 = 0 := by cases ty <;> decide

/-- Settles O2, by what SDIV and SREM write (`setsS_sdiv`, `setsS_srem`) and the laws of truncated division. -/
theorem scalarDivision : Obligations.ScalarDivision := by
  unfold Obligations.ScalarDivision
  intro s h ty d a y x z
  have div : SetsS s (.sdiv ty d a y) 8 d (sRes ty (if z = 0 then -1 else x.tdiv z)) := setsS_sdiv h ty d a y
  have rem : SetsS s (.srem ty d a y) 8 d (sRes ty (x.tmod z)) := setsS_srem h ty d a y
  refine ⟨fun z0 => ?_, fun z0 => ?_, fun z1 hx => ?_⟩
  · rw [if_pos z0] at div
    rw [z0, Int.tmod_zero] at rem
    exact ⟨div, rem⟩
  · rw [if_neg z0] at div
    refine ⟨x.tdiv z, x.tmod z, (Int.tdiv_mul_add_tmod x z).symm, ?_, tmod_neg_iff, div, rem⟩
    rw [Int.natAbs_tmod]
    exact Nat.mod_lt _ (Int.natAbs_pos.mpr z0)
  · have quotient : (if z = 0 then -1 else x.tdiv z) = 2 ^ (sWidth ty - 1) := by
      rw [z1, if_neg (by decide), Int.tdiv_neg, Int.tdiv_one, hx, Int.neg_neg]
    have remainder : x.tmod z = 0 := by rw [z1, Int.tmod_neg, Int.tmod_one]
    rw [quotient, sRes_two_pow, ← hx] at div
    rw [remainder, sRes_zero] at rem
    exact ⟨div, rem⟩

end Sys2Proof.Machine
end

section
/-! PROOF. Capability moves, permissions and reads (01 R10-R14; 10 R266-R270). -/

namespace Sys2Proof

open Sys2Proof.Machine Sys2Proof.Claim

/-! ### The fields of a capability (01 Table 1.1) -/

/-- A field of a word's bits is a slice of it. -/
theorem bitsAt_toNat {w : Nat} (x : BitVec w) (lo n : Nat) : bitsAt x.toNat lo n = (x.extractLsb' lo n).toNat := by
  rw [BitVec.extractLsb'_toNat, Nat.shiftRight_eq_div_pow]
  rfl

theorem Cap.cursor_lt (c : Cap) : c.cursor < 2 ^ 57 := Nat.mod_lt _ (by decide)
theorem Cap.e_lt (c : Cap) : c.e < 2 ^ 6 := Nat.mod_lt _ (by decide)
theorem Cap.bm_lt (c : Cap) : c.bm < 2 ^ 29 := Nat.mod_lt _ (by decide)
theorem Cap.tm_lt (c : Cap) : c.tm < 2 ^ 29 := Nat.mod_lt _ (by decide)
theorem Cap.perms_lt (c : Cap) : c.perms < 2 ^ 7 := Nat.mod_lt _ (by decide)

section Make

variable (t b e perms cursor : Nat) (tag : Bool)

theorem Cap.make_toNat : (Cap.make t b e perms cursor tag).bits.toNat =
    cursor % 2 ^ 57 + perms % 128 * 2 ^ 57 + e % 64 * 2 ^ 64 + b % 2 ^ 29 * 2 ^ 70 + t % 2 ^ 29 * 2 ^ 99 := by
  rw [Cap.make, BitVec.toNat_ofNat]
  exact Nat.mod_eq_of_lt (by omega)

@[simp] theorem Cap.make_tag : (Cap.make t b e perms cursor tag).tag = (tag && decide (e ≤ 33)) := rfl
@[simp] theorem Cap.make_cursor : (Cap.make t b e perms cursor tag).cursor = cursor % 2 ^ 57 := by
  rw [Cap.cursor, bitsAt, Cap.make_toNat]; omega
@[simp] theorem Cap.make_perms : (Cap.make t b e perms cursor tag).perms = perms % 2 ^ 7 := by
  rw [Cap.perms, bitsAt, Cap.make_toNat]; omega
@[simp] theorem Cap.make_e : (Cap.make t b e perms cursor tag).e = e % 2 ^ 6 := by
  rw [Cap.e, bitsAt, Cap.make_toNat]; omega
@[simp] theorem Cap.make_bm : (Cap.make t b e perms cursor tag).bm = b % 2 ^ 29 := by
  rw [Cap.bm, bitsAt, Cap.make_toNat]; omega
@[simp] theorem Cap.make_tm : (Cap.make t b e perms cursor tag).tm = t % 2 ^ 29 := by
  rw [Cap.tm, bitsAt, Cap.make_toNat]; omega

end Make

/-- A capability's fields are all of its bits. -/
theorem Cap.make_fields (c : Cap) (tag : Bool) :
    Cap.make c.tm c.bm c.e c.perms c.cursor tag = ⟨c.bits, tag && decide (c.e ≤ 33)⟩ := by
  have bits : (Cap.make c.tm c.bm c.e c.perms c.cursor tag).bits = c.bits := by
    refine BitVec.eq_of_toNat_eq ?_
    have bound := c.bits.isLt
    rw [Cap.make_toNat]
    simp only [Cap.tm, Cap.bm, Cap.e, Cap.perms, Cap.cursor, bitsAt]
    omega
  rw [← bits]
  rfl

/-! ### The window (01 R11, R12) -/

/-- In units of 2^E the window starts at the one number that is congruent to its field and less than 2^29 below the cursor. -/
theorem Cap.wlo_spec (c : Cap) : ∃ k : Int, c.bounds.wlo = k * 2 ^ c.e ∧
    k % 2 ^ 29 = ((c.bm + 2 ^ 29 - 2 ^ 26) % 2 ^ 29 : Nat) ∧
    k ≤ (c.cursor : Int) / 2 ^ c.e ∧ (c.cursor : Int) / 2 ^ c.e < k + 2 ^ 29 := by
  have units : (c.cursor : Int) / 2 ^ c.e = (c.cursor / 2 ^ c.e : Nat) := by push_cast; rfl
  rw [units]
  generalize hq : c.cursor / 2 ^ c.e = q
  refine ⟨(q : Int) - ((q % 2 ^ 29 + 2 ^ 29 - (c.bm + 2 ^ 29 - 2 ^ 26) % 2 ^ 29) % 2 ^ 29 : Nat), ?_, by omega, by omega, by omega⟩
  rw [Int.sub_mul, Cap.bounds, hq]
  push_cast
  rfl

/-- The cursors in the window, in units of 2^E. -/
theorem Cap.mem_window_iff (c : Cap) {k a : Int} (hk : c.bounds.wlo = k * 2 ^ c.e) :
    c.bounds.wlo ≤ a ∧ a < c.bounds.whi ↔ k ≤ a / 2 ^ c.e ∧ a / 2 ^ c.e < k + 2 ^ 29 := by
  have unit_pos : (0 : Int) < 2 ^ c.e := by positivity
  have whi : c.bounds.whi = (k + 2 ^ 29) * 2 ^ c.e := by
    have span : c.bounds.whi = c.bounds.wlo + ((2 ^ (c.e + 29) : Nat) : Int) := rfl
    rw [span, hk, Int.add_mul, Nat.pow_add]
    push_cast
    ring
  rw [whi, hk, Int.le_ediv_iff_mul_le unit_pos, Int.ediv_lt_iff_lt_mul unit_pos]

theorem Cap.cursor_mem_window (c : Cap) : c.bounds.wlo ≤ c.cursor ∧ (c.cursor : Int) < c.bounds.whi := by
  obtain ⟨k, hk, -, low, high⟩ := c.wlo_spec
  exact (c.mem_window_iff hk).mpr ⟨low, high⟩

/-- The start of the window and the bounds fields decide the bounds. -/
theorem Cap.bounds_eq_of_wlo {c n : Cap} (he : n.e = c.e) (hb : n.bm = c.bm) (ht : n.tm = c.tm)
    (hw : n.bounds.wlo = c.bounds.wlo) : n.bounds = c.bounds := by
  have decoded (x : Cap) : x.bounds =
      { base := x.bounds.wlo + (((x.bm + 2 ^ 29 - (x.bm + 2 ^ 29 - 2 ^ 26) % 2 ^ 29) % 2 ^ 29 * 2 ^ x.e : Nat) : Int)
        top := x.bounds.wlo + (((x.tm + 2 ^ 29 - (x.bm + 2 ^ 29 - 2 ^ 26) % 2 ^ 29) % 2 ^ 29 * 2 ^ x.e : Nat) : Int)
        wlo := x.bounds.wlo
        whi := x.bounds.wlo + ((2 ^ (x.e + 29) : Nat) : Int) } := rfl
  rw [decoded n, decoded c, hw, he, hb, ht]

/-- Bounds fields decode to the same bounds at every cursor in the window. -/
theorem Cap.bounds_eq_of_mem_window {c n : Cap} (he : n.e = c.e) (hb : n.bm = c.bm) (ht : n.tm = c.tm)
    (hw : c.bounds.wlo ≤ n.cursor ∧ (n.cursor : Int) < c.bounds.whi) : n.bounds = c.bounds := by
  refine Cap.bounds_eq_of_wlo he hb ht ?_
  obtain ⟨k, hk, kmod, -, -⟩ := c.wlo_spec
  obtain ⟨j, hj, jmod, jlow, jhigh⟩ := n.wlo_spec
  obtain ⟨klow, khigh⟩ := (c.mem_window_iff hk).mp hw
  rw [he] at hj jlow jhigh
  rw [hb] at jmod
  rw [hj, hk]
  congr 1
  omega

/-! ### A moved cursor (10 R266) -/

theorem Cap.moved_move (c : Cap) (a : Int) : Moved c (c.move a) a := by
  refine ⟨?_, ?_, ?_, ?_, ?_, ?_⟩
  · rw [Cap.move, Cap.make_cursor]; omega
  · rw [Cap.move, Cap.make_e, Nat.mod_eq_of_lt (Cap.e_lt c)]
  · rw [Cap.move, Cap.make_bm, Nat.mod_eq_of_lt (Cap.bm_lt c)]
  · rw [Cap.move, Cap.make_tm, Nat.mod_eq_of_lt (Cap.tm_lt c)]
  · rw [Cap.move, Cap.make_perms, Nat.mod_eq_of_lt (Cap.perms_lt c)]
  · rw [Cap.move, Cap.make_tag]
    simp only [Bool.and_eq_true, decide_eq_true_eq]
    tauto

/-- A cursor that keeps the tag without wrapping keeps the bounds. -/
theorem Cap.bounds_move (c : Cap) (a : Int) (tagged : (c.move a).tag = true) (h0 : 0 ≤ a) (h1 : a < 2 ^ 57) :
    (c.move a).bounds = c.bounds := by
  obtain ⟨cursor, he, hb, ht, -, tag⟩ := c.moved_move a
  obtain ⟨-, -, window⟩ := tag.mp tagged
  rw [Int.emod_eq_of_lt h0 h1] at cursor
  exact Cap.bounds_eq_of_mem_window he hb ht (by rwa [cursor])

theorem Cap.move_cursor (c : Cap) (he : c.e ≤ 33) : c.move c.cursor = c := by
  obtain ⟨low, high⟩ := c.cursor_mem_window
  have cursor : ((c.cursor : Int) % 2 ^ 57).toNat = c.cursor := by have := Cap.cursor_lt c; omega
  rw [Cap.move, cursor, Cap.make_fields]
  simp [low, high, he]

/-! ### Fewer permissions (10 R267) -/

/-- A slice that holds no permission bit is copied. -/
theorem Cap.restrict_extract (c : Cap) (m : BitVec 7) {lo n : Nat} (h : lo + n ≤ 57 ∨ 64 ≤ lo ∧ lo + n ≤ 128) :
    (Cap.restrict c m).bits.extractLsb' lo n = c.bits.extractLsb' lo n := by
  refine BitVec.eq_of_getLsbD_eq fun i hi => ?_
  have kept : ((BitVec.allOnes 64 ++ m) ++ BitVec.allOnes 57).getLsbD (lo + i) = true := by
    rw [BitVec.getLsbD_append]
    split
    · rw [BitVec.getLsbD_allOnes, decide_eq_true (by omega)]
    · rw [BitVec.getLsbD_append, if_neg (by omega), BitVec.getLsbD_allOnes, decide_eq_true (by omega)]
  rw [BitVec.getLsbD_extractLsb', BitVec.getLsbD_extractLsb', Cap.restrict, BitVec.getLsbD_and, kept, Bool.and_true]

theorem Cap.restrict_bitsAt (c : Cap) (m : BitVec 7) {lo n : Nat} (h : lo + n ≤ 57 ∨ 64 ≤ lo ∧ lo + n ≤ 128) :
    bitsAt (Cap.restrict c m).bits.toNat lo n = bitsAt c.bits.toNat lo n := by
  rw [bitsAt_toNat, bitsAt_toNat, Cap.restrict_extract c m h]

@[simp] theorem Cap.restrict_tag (c : Cap) (m : BitVec 7) : (Cap.restrict c m).tag = c.tag := rfl
@[simp] theorem Cap.restrict_cursor (c : Cap) (m : BitVec 7) : (Cap.restrict c m).cursor = c.cursor :=
  Cap.restrict_bitsAt c m (by decide)
@[simp] theorem Cap.restrict_e (c : Cap) (m : BitVec 7) : (Cap.restrict c m).e = c.e := Cap.restrict_bitsAt c m (by decide)
@[simp] theorem Cap.restrict_bm (c : Cap) (m : BitVec 7) : (Cap.restrict c m).bm = c.bm := Cap.restrict_bitsAt c m (by decide)
@[simp] theorem Cap.restrict_tm (c : Cap) (m : BitVec 7) : (Cap.restrict c m).tm = c.tm := Cap.restrict_bitsAt c m (by decide)

theorem Cap.restrict_bounds (c : Cap) (m : BitVec 7) : (Cap.restrict c m).bounds = c.bounds := by
  refine Cap.bounds_eq_of_mem_window (Cap.restrict_e c m) (Cap.restrict_bm c m) (Cap.restrict_tm c m) ?_
  rw [Cap.restrict_cursor]
  exact c.cursor_mem_window

theorem Cap.restrict_perms (c : Cap) (m : BitVec 7) : (Cap.restrict c m).perms = c.perms &&& m.toNat := by
  have slice : ((BitVec.allOnes 64 ++ m) ++ BitVec.allOnes 57).extractLsb' 57 7 = m := by
    rw [extract_high _ _ _ _ (Nat.le_refl 57), extract_low _ _ _ _ (by decide), extract_all]
  rw [Cap.perms, Cap.perms, bitsAt_toNat, bitsAt_toNat, Cap.restrict, BitVec.extractLsb'_and, slice, BitVec.toNat_and]

/-- Bits 63 to 7 of CPERM's register are ignored. -/
theorem Cap.perms_and_low (c : Cap) (v : W64) : c.perms &&& (v.extractLsb' 0 7).toNat = c.perms &&& v.toNat := by
  have low : (v.extractLsb' 0 7).toNat = v.toNat % 2 ^ 7 := by simp
  have within : c.perms &&& v.toNat < 2 ^ 7 := Nat.lt_of_le_of_lt Nat.and_le_left (Cap.perms_lt c)
  rw [low, ← Nat.mod_eq_of_lt within, Nat.and_mod_two_pow, Nat.mod_eq_of_lt (Cap.perms_lt c)]

end Sys2Proof

namespace Sys2Proof.Machine

open Sys2Proof.Claim

/-! ### Instructions that write one register and move on -/

variable {s : State}

theorem setsC_of_wc (h : s.issuing) {i : Instr} {n : Nat} {d : CReg} {v : Cap} (hi : exec i s = .next ((s.wc d v).retire n)) :
    SetsC s i n d v := ⟨_, hi, State.wc_retire h d v n⟩

theorem setsS_of_ws (h : s.issuing) {i : Instr} {n : Nat} {d : SReg} {v : W64} (hi : exec i s = .next ((s.ws d v).retire n)) :
    SetsS s i n d v := ⟨_, hi, State.ws_retire h d v n⟩

/-- An instruction that moves a capability's cursor to `x` leaves it as R266 says. -/
theorem ends_moved_of_setsC {i : Instr} {n : Nat} {d : CReg} {c : Cap} {x : Int} (hi : SetsC s i n d (c.move x)) :
    Ends i s fun t => Moved c (t.g.creg d) x ∧
      ((t.g.creg d).tag = true → 0 ≤ x → x < 2 ^ 57 → (t.g.creg d).bounds = c.bounds) ∧
      s.Frame t { c := [d] } ∧ t.p = s.p.past n := by
  obtain ⟨t, ht, written, frame, past⟩ := hi
  refine ⟨t, ht, ?_⟩
  beta_reduce
  rw [written]
  exact ⟨c.moved_move x, c.bounds_move x, frame, past⟩

/-! ### CTEST (10 R269) -/

theorem perms_and_eq_iff (c : Cap) (m : BitVec 7) :
    BitVec.ofNat 7 c.perms &&& m = m ↔ ∀ i, i < 7 → m.getLsbD i = true → c.bits.getLsbD (57 + i) = true := by
  have bit {i : Nat} (hi : i < 7) : (BitVec.ofNat 7 c.perms).getLsbD i = c.bits.getLsbD (57 + i) := by
    rw [Cap.perms, bitsAt_toNat, BitVec.ofNat_toNat, BitVec.setWidth_eq, BitVec.getLsbD_extractLsb', decide_eq_true hi, Bool.true_and]
  rw [BitVec.eq_of_getLsbD_eq_iff]
  refine forall_congr' fun i => forall_congr' fun hi => ?_
  rw [BitVec.getLsbD_and, bit hi, Bool.and_eq_right_iff_imp]

theorem capTest_iff (c : Cap) (len : Nat) (m : BitVec 7) : capTest c len m = true ↔
    (c.tag = true ∧ c.bounds.base ≤ c.cursor ∧ ((c.cursor + len : Nat) : Int) ≤ c.bounds.top ∧ c.cursor + len ≤ 2 ^ 57 ∧
      ∀ i, i < 7 → m.getLsbD i = true → c.bits.getLsbD (57 + i) = true) := by
  rw [← perms_and_eq_iff]
  simp only [capTest, Cap.covers, Bool.and_eq_true, decide_eq_true_eq, beq_iff_eq, and_assoc]

theorem setsS_ctest (h : s.issuing) (d : SReg) (a : CReg) (b : SReg) (m : BitVec 7) :
    SetsS s (.ctest d a b m) 8 d (if capTest (s.g.creg a) (s.g.sreg b).toNat m then 1 else 0) := setsS_of_ws h rfl

/-! ### CGET (10 R268) -/

theorem setsS_cget (h : s.issuing) (f : CField) (d : SReg) (a : CReg) :
    SetsS s (.cget f d a) 8 d (capField f (s.g.creg a)) := setsS_of_ws h rfl

/-- The length of the bounds, 0 where the top lies below the base. -/
theorem ofNat_toNat_eq_ofInt_max (z : Int) : BitVec.ofNat 64 z.toNat = BitVec.ofInt 64 (max 0 z) := by
  rw [← BitVec.ofInt_natCast, Int.toNat_eq_max, max_comm]

/-- Settles O3: CINC and CINCI by `Cap.moved_move` and `Cap.bounds_move`, CPERM field by field, CTEST by `capTest_iff`. -/
theorem capabilityMovesAndReads : Obligations.CapabilityMovesAndReads := by
  unfold Obligations.CapabilityMovesAndReads
  constructor
  · intro s h d a b imm c a8 a16
    refine ⟨ends_moved_of_setsC (setsC_of_wc h rfl), ends_moved_of_setsC (setsC_of_wc h rfl), fun he => ?_⟩
    have stays : SetsC s (.cinci d a 0) 16 d (c.move (c.cursor + (0 : W32).toInt)) := setsC_of_wc h rfl
    have addend : (0 : W32).toInt = 0 := rfl
    rwa [addend, Int.add_zero, Cap.move_cursor c he] at stays
  · intro s h d x a b r m c big
    have get (f : CField) : SetsS s (.cget f d a) 8 d (capField f c) := setsS_cget h f d a
    have test := setsS_ctest h d a r m
    refine ⟨?_, get .cursor, ?_, ?_, ?_, get .perm, get .tag, get .e, get .lo, get .hi, fun pass => ?_, fun fail => ?_, setsS_of_ws h rfl⟩
    · obtain ⟨t, ht, written, frame, past⟩ :
        SetsC s (.cperm x a r) 8 x (Cap.restrict c ((s.g.sreg r).extractLsb' 0 7)) := setsC_of_wc h rfl
      refine ⟨t, ht, ?_⟩
      dsimp only
      rw [written]
      refine ⟨Cap.restrict_tag _ _, Cap.restrict_cursor _ _, Cap.restrict_e _ _, Cap.restrict_bm _ _, Cap.restrict_tm _ _,
        Cap.restrict_bounds _ _, ?_, frame, past⟩
      rw [Cap.restrict_perms, Cap.perms_and_low]
    · simpa [capField] using get .base
    · simpa [capField] using get .top
    · simpa [capField, ofNat_toNat_eq_ofInt_max] using get .len
    · rwa [if_pos ((capTest_iff _ _ _).mpr pass)] at test
    · rwa [if_neg (mt (capTest_iff _ _ _).mp fail)] at test

end Sys2Proof.Machine
end

section
/-! PROOF. NOP, YIELD, BR, BRC, CALL, RET and JMPI (10 R248-R251, R254, R255): where each takes its path. -/

namespace Sys2Proof.Machine

open Sys2Proof.Claim

variable {s : State}

theorem passes_of_retire (h : s.issuing) {i : Instr} {n : Nat} (hi : exec i s = .next (s.retire n)) : Passes s i n :=
  ⟨_, hi, (State.retire_frame h n).symm⟩

theorem State.modP_congr (h : s.issuing) {f k : Path → Path} (hf : f s.p = k s.p) : s.modP f = s.modP k :=
  State.modG_congr h (congrArg (s.g.setPath s.cur.b) hf)

/-- A change of the issuing path to `p.jump` is a taken transfer out of the loops that it leaves. -/
theorem State.goes_jump (h : s.issuing) (t : VA) :
    Goes s (s.modP fun p => p.jump t) t (breakLoops s.p.pc t s.p.loops) {} :=
  ⟨State.modP_p h _, State.modP_frame h _⟩

/-- A change of the issuing path to `p.goto` is a taken transfer that keeps the loops (10 R258). -/
theorem State.goes_goto (h : s.issuing) (t : VA) : Goes s (s.modP fun p => p.goto t) t s.p.loops {} :=
  ⟨State.modP_p h _, State.modP_frame h _⟩

/-! ### When BRC transfers (10 R251) -/

theorem and_ne_zero_iff_exists_lane (m x : Mask) :
    m &&& x ≠ 0 ↔ ∃ l, l < 32 ∧ m.getLsbD l = true ∧ x.getLsbD l = true := by
  constructor
  · intro h
    by_contra none
    refine h (BitVec.eq_of_getLsbD_eq fun l hl => ?_)
    rw [BitVec.getLsbD_and, BitVec.ofNat_eq_ofNat, BitVec.getLsbD_zero]
    by_contra on
    rw [Bool.not_eq_false, Bool.and_eq_true] at on
    exact none ⟨l, hl, on⟩
  · rintro ⟨l, -, hm, hx⟩ h0
    have zero : (m &&& x).getLsbD l = false := by rw [h0, BitVec.ofNat_eq_ofNat, BitVec.getLsbD_zero]
    rw [BitVec.getLsbD_and, hm, hx] at zero
    exact absurd zero (by decide)

theorem and_eq_left_iff_forall_lane (m x : Mask) :
    m &&& x = m ↔ ∀ l, l < 32 → m.getLsbD l = true → x.getLsbD l = true := by
  constructor
  · intro h l _ hm
    rw [← h, BitVec.getLsbD_and, Bool.and_eq_true] at hm
    exact hm.2
  · intro h
    refine BitVec.eq_of_getLsbD_eq fun l hl => ?_
    rw [BitVec.getLsbD_and, Bool.and_eq_left_iff_imp]
    exact h l hl

theorem State.brTaken_iff (s : State) (c : BrCond) : s.brTaken c = true ↔ Claim.taken s c := by
  cases c with
  | any q =>
    rw [State.brTaken, bne_iff_ne, and_ne_zero_iff_exists_lane]
    refine exists_congr fun l => and_congr_right fun hl => and_congr_right fun _ => ?_
    rw [s.predBits_getLsbD q hl, bne_iff_ne]
  | all q =>
    rw [State.brTaken, beq_iff_eq, and_eq_left_iff_forall_lane]
    refine forall_congr' fun l => forall_congr' fun hl => forall_congr' fun _ => ?_
    rw [s.predBits_getLsbD q hl, bne_iff_ne]
  | nz a => exact bne_iff_ne
  | z a => exact beq_iff_eq

theorem exec_brc (s : State) (c : BrCond) (off : W32) : exec (.brc c off) s =
    .next (if s.brTaken c then s.modP fun p => p.jump (branchTo p.pc off) else s.retire 16) := rfl

/-! ### CALL (10 R254) -/

/-- The state that CALL leaves: the link register written, and the path at the target. -/
theorem State.ws_goto (h : s.issuing) (d : SReg) (v : W64) (t : VA) :
    ((s.ws d v).modP fun p => p.goto t).g.sreg d = v ∧ Goes s ((s.ws d v).modP fun p => p.goto t) t s.p.loops { s := [d] } := by
  have one_change : (s.ws d v).modP (fun p => p.goto t) = s.modG fun g =>
      (g.apply s.p.pc (.s d v)).setPath s.cur.b ((g.path s.cur.b).goto t) := by
    rw [State.ws, State.modP, State.wr_cur, State.wr, State.modG_modG h]
    exact State.modG_congr h (by simp)
  rw [one_change]
  refine ⟨?_, ?_, State.modG_frame h _ _ ?_⟩
  · rw [State.modG_g h]
    simp [Group.apply]
  · rw [State.modG_p h, Group.path_setPath]
    rfl
  · exact (Group.kept_apply _ _ _ _ _ (List.mem_singleton.mpr rfl)).trans (Group.kept_setPath _ _ _ _) (by simp)

theorem exec_call (h : s.issuing) (d : SReg) (off : W32) : exec (.call d off) s =
    .next ((s.ws d ((s.p.pc + 16).zeroExtend 64)).modP fun p => p.goto (branchTo s.p.pc off)) := by
  refine congrArg Host.Outcome.next (State.modP_congr (State.wr_issuing h _) ?_)
  rw [State.wr_p h]

/-- The link value of CALL is the next address, within the address space. -/
theorem toNat_link (pc : VA) : ((pc + 16).zeroExtend 64).toNat = (pc.toNat + 16) % 2 ^ 57 := by
  rw [BitVec.zeroExtend, BitVec.toNat_setWidth, BitVec.toNat_add]
  exact Nat.mod_eq_of_lt (Nat.lt_trans (Nat.mod_lt _ (by decide)) (by decide))

/-! ### RET and JMPI (10 R254) -/

theorem extract_above_eq_zero_iff (v : W64) : v.extractLsb' 57 7 = 0 ↔ v.toNat < 2 ^ 57 := by
  rw [← BitVec.toNat_inj, BitVec.extractLsb'_toNat, Nat.shiftRight_eq_div_pow]
  have bound := v.isLt
  simp only [BitVec.ofNat_eq_ofNat, BitVec.toNat_ofNat]
  omega

theorem exec_ret (s : State) (a : SReg) : exec (.ret a) s = .next (s.goReg a) := rfl

theorem exec_jmpi (s : State) (a : SReg) : exec (.jmpi a) s = .next (s.goReg a) := rfl

/-- A register with nonzero bits 63 to 57 is no address: the transfer traps with it. -/
theorem State.goReg_beyond (s : State) (a : SReg) (hv : 2 ^ 57 ≤ (s.g.sreg a).toNat) :
    s.goReg a = s.trapAll 0x02 (s.g.sreg a) := by
  have high : (s.rs a).extractLsb' 57 7 ≠ 0 := mt (extract_above_eq_zero_iff _).mp (Nat.not_lt.mpr hv)
  unfold State.goReg
  exact if_pos high

/-- Outside a handler, and in one away from sr.epc, the transfer goes to the register's address. -/
theorem State.goReg_within (s : State) (a : SReg) (hv : (s.g.sreg a).toNat < 2 ^ 57)
    (hepc : s.p.frame.isSome = true → s.g.sreg a ≠ s.g.epc) :
    s.goReg a = s.modP fun p => p.goto ((s.g.sreg a).truncate 57) := by
  have low : (s.rs a).extractLsb' 57 7 = 0 := (extract_above_eq_zero_iff _).mpr hv
  unfold State.goReg
  dsimp only
  rw [if_neg (not_not_intro low)]
  split
  next f hf => exact if_neg (hepc (by rw [hf]; rfl))
  next => rfl

/-- Settles O9: each instruction retires, jumps or goes, by the lemmas above. -/
theorem transfersAndNop : Obligations.TransfersAndNop := by
  unfold Obligations.TransfersAndNop
  constructor
  · intro s h c off a
    have target : branchTo s.p.pc off = a := branchTo_eq_ofInt _ _
    have jumps : s.modP (fun p => p.jump (branchTo p.pc off)) = s.modP fun p => p.jump a :=
      State.modP_congr h (congrArg s.p.jump target)
    refine ⟨passes_of_retire h rfl, passes_of_retire h rfl, ⟨_, congrArg Host.Outcome.next jumps, State.goes_jump h a⟩, fun yes => ?_, fun no => ?_⟩
    · refine ⟨_, ?_, State.goes_jump h a⟩
      rw [exec_brc, if_pos ((s.brTaken_iff c).mpr yes), jumps]
    · refine passes_of_retire h ?_
      rw [exec_brc, if_neg (mt (s.brTaken_iff c).mp no)]
  · intro s h d a off v
    refine ⟨?_, rfl, fun within hepc => ?_, fun beyond => ?_⟩
    · obtain ⟨link, goes⟩ := State.ws_goto h d ((s.p.pc + 16).zeroExtend 64) (branchTo s.p.pc off)
      refine ⟨_, exec_call h d off, ?_, branchTo_eq_ofInt s.p.pc off ▸ goes⟩
      rw [link, toNat_link]
    · have goes : Goes s (s.goReg a) (v.truncate 57) s.p.loops {} := by
        rw [s.goReg_within a within hepc]
        exact State.goes_goto h _
      exact ⟨⟨_, exec_ret s a, goes⟩, ⟨_, exec_jmpi s a, goes⟩⟩
    · have traps := s.goReg_beyond a beyond
      exact ⟨(exec_ret s a).trans (congrArg _ traps), (exec_jmpi s a).trans (congrArg _ traps)⟩

end Sys2Proof.Machine
end

section
/-! PROOF. Lanes and masks (07 R173, 11 R272, R273): the lanes of a mask in ascending order, the mask of a test, and what a
vector result leaves in the lanes of its register or pair. -/

namespace Sys2Proof.Machine

open Sys2Proof.Claim

/-! ### The mask of a test -/

theorem or_lane_getLsbD (m : Mask) (on : Bool) (n : Nat) {l : Nat} (hl : l < 32) :
    (if on then m ||| (1#32 <<< n) else m).getLsbD l = (m.getLsbD l || (on && decide (n = l))) := by
  cases on with
  | false => simp
  | true =>
    rw [if_pos rfl, BitVec.getLsbD_or, ← BitVec.twoPow_eq, BitVec.getLsbD_twoPow, Bool.true_and]
    by_cases e : n = l
    · simp [e, hl]
    · simp [e]

theorem foldl_lanes_getLsbD (f : Nat → Bool) (n : Nat) {l : Nat} (hl : l < 32) :
    ((List.range n).foldl (fun m j => if f j then m ||| (1#32 <<< j) else m) (0 : Mask)).getLsbD l = (decide (l < n) && f l) := by
  induction n with
  | zero => simp
  | succ n ih =>
    rw [List.range_succ, List.foldl_append, List.foldl_cons, List.foldl_nil, or_lane_getLsbD _ _ _ hl, ih]
    by_cases e : n = l
    · simp [e]
    · have same : decide (l < n + 1) = decide (l < n) := decide_eq_decide.mpr (by omega)
      rw [same, decide_eq_false e, Bool.and_false, Bool.or_false]

/-- The mask of a test holds a lane exactly when the test does. -/
@[simp] theorem maskOf_getLsbD (f : Nat → Bool) {l : Nat} (hl : l < 32) : (maskOf f).getLsbD l = f l := by
  rw [maskOf, foldl_lanes_getLsbD f 32 hl, decide_eq_true hl, Bool.true_and]

/-! ### The lanes of a mask, in ascending order -/

@[simp] theorem mem_lanesOf {m : Mask} {l : Nat} : l ∈ lanesOf m ↔ l < 32 ∧ m.getLsbD l = true := by
  rw [lanesOf, List.mem_filter, List.mem_range]

theorem eq_zero_iff_forall_lane (m : Mask) : m = 0 ↔ ∀ l, l < 32 → m.getLsbD l = false := by
  constructor
  · rintro rfl l -
    exact BitVec.getLsbD_zero
  · intro h
    exact BitVec.eq_of_getLsbD_eq fun l hl => (h l hl).trans BitVec.getLsbD_zero.symm

theorem lanesOf_eq_nil_iff {m : Mask} : lanesOf m = [] ↔ m = 0 := by
  rw [eq_zero_iff_forall_lane, List.eq_nil_iff_forall_not_mem]
  simp

/-- The lanes below `l` come before it. -/
theorem lanesOf_split {m : Mask} {l : Nat} (hl : l < 32) (on : m.getLsbD l = true) :
    ∃ above, lanesOf m = (List.range l).filter m.getLsbD ++ l :: above := by
  obtain ⟨k, hk⟩ : ∃ k, 32 = l + (k + 1) := ⟨31 - l, by omega⟩
  refine ⟨(((List.range k).map Nat.succ).map (l + ·)).filter m.getLsbD, ?_⟩
  have range_split : List.range 32 = List.range l ++ (List.range (k + 1)).map (l + ·) := by rw [← List.range_add, ← hk]
  rw [lanesOf, range_split, List.filter_append, List.range_succ_eq_map, List.map_cons, Nat.add_zero, List.filter_cons_of_pos on]

/-- A lane's place among the lanes of a mask is the number of them below it (11 R301). -/
theorem idxOf_lanesOf {m : Mask} {l : Nat} (h : l ∈ lanesOf m) : (lanesOf m).idxOf l = rank m l := by
  obtain ⟨hl, on⟩ := mem_lanesOf.mp h
  obtain ⟨above, split⟩ := lanesOf_split hl on
  have not_below : l ∉ (List.range l).filter m.getLsbD := by simp
  rw [split, List.idxOf_append_of_notMem not_below, List.idxOf_cons_self, Nat.add_zero]
  rfl

theorem lanesOf_getD_rank {m : Mask} {l : Nat} (h : l ∈ lanesOf m) : (lanesOf m).getD (rank m l) 0 = l := by
  rw [← idxOf_lanesOf h, List.getD_eq_getElem?_getD, List.getElem?_idxOf h, Option.getD_some]

theorem rank_lt_length {m : Mask} {l : Nat} (h : l ∈ lanesOf m) : rank m l < (lanesOf m).length := by
  rw [← idxOf_lanesOf h]
  exact List.idxOf_lt_length_of_mem h

/-- The first `n` lanes of a mask. -/
theorem mem_take_lanesOf_iff {m : Mask} {l n : Nat} : l ∈ (lanesOf m).take n ↔ l ∈ lanesOf m ∧ rank m l < n := by
  constructor
  · intro h
    have member := List.mem_of_mem_take h
    exact ⟨member, idxOf_lanesOf member ▸ (List.mem_take_iff_idxOf_lt member).mp h⟩
  · rintro ⟨member, low⟩
    exact (List.mem_take_iff_idxOf_lt member).mpr (idxOf_lanesOf member ▸ low)

theorem idxOf_take_lanesOf {m : Mask} {l n : Nat} (h : l ∈ (lanesOf m).take n) : ((lanesOf m).take n).idxOf l = rank m l := by
  rw [(List.take_prefix n _).idxOf_eq_of_mem h, idxOf_lanesOf (List.mem_of_mem_take h)]

/-- The first lane of a mask, by the lanes below it. -/
theorem lanesOf_eq_cons {m : Mask} {l : Nat} (hl : l < 32) (on : m.getLsbD l = true) (first : ∀ j, j < l → m.getLsbD j = false) :
    ∃ above, lanesOf m = l :: above := by
  obtain ⟨above, split⟩ := lanesOf_split hl on
  have none_below : (List.range l).filter m.getLsbD = [] := by
    rw [List.filter_eq_nil_iff]
    intro j hj
    rw [first j (List.mem_range.mp hj)]
    exact Bool.false_ne_true
  exact ⟨above, by rw [split, none_below, List.nil_append]⟩

/-! ### Vector results -/

variable {s : State}

theorem VReg.succ_ne (d : VReg) : d + 1 ≠ d := by
  intro h
  bv_omega

/-- A lane of a register or pair after a vector result: the new value in the lanes of the mask, the old one elsewhere. -/
theorem Group.applyAll_vecWrites_laneOf (g : Group) (ia : VA) (pair : Bool) (d : VReg) (m : Mask) (f : Nat → Nat) {l : Nat} (hl : l < 32) :
    (g.applyAll ia (vecWrites pair d m f)).laneOf pair d l =
      if m.getLsbD l then f l % 2 ^ (if pair then 64 else 32) else g.laneOf pair d l := by
  unfold vecWrites
  split
  next m0 => simp [m0, Group.applyAll]
  next =>
    have apart := VReg.succ_ne d
    cases pair with
    | false =>
      simp only [Group.applyAll, List.foldl_cons, List.foldl_nil, Group.apply, Group.laneOf, Group.setV_vreg, Group.log_vreg', if_true,
        Bool.false_eq_true, if_false, Lanes.at_merge _ _ _ hl, Lanes.at_mkLanes _ hl, Nat.add_zero]
      split
      · exact BitVec.toNat_ofNat _ _
      · rfl
    | true =>
      simp only [Group.applyAll, List.foldl_cons, List.foldl_nil, Group.apply, Group.laneOf, Group.setV_vreg, Group.log_vreg', if_true,
        if_neg apart, if_neg apart.symm, Lanes.at_merge _ _ _ hl, Lanes.at_mkLanes _ hl]
      split
      · rw [BitVec.toNat_ofNat, BitVec.toNat_ofNat]
        omega
      · rfl

theorem vecWrites_inside (pair : Bool) (d : VReg) (m : Mask) (f : Nat → Nat) {w : Writes} (hw : w.v = vDest pair d) :
    ∀ x ∈ vecWrites pair d m f, x.inside w := by
  unfold vecWrites
  cases pair <;> split <;> simp [RegWrite.inside, hw, vDest]

@[simp] theorem Group.laneOf_setPath (g : Group) (b : Bool) (p : Path) (pair : Bool) (r : VReg) (l : Nat) :
    (g.setPath b p).laneOf pair r l = g.laneOf pair r l := by
  simp [Group.laneOf]

/-- The end of an instruction whose whole effect is a vector result. -/
theorem State.putV_retire (h : s.issuing) (pair : Bool) (d : VReg) (m : Mask) (f : Nat → Nat) (n : Nat) :
    (∀ l, l < 32 → ((s.putV pair d m f).retire n).g.laneOf pair d l =
      if m.getLsbD l then f l % 2 ^ (if pair then 64 else 32) else s.g.laneOf pair d l) ∧
      s.Frame ((s.putV pair d m f).retire n) { v := vDest pair d } ∧ ((s.putV pair d m f).retire n).p = s.p.past n := by
  obtain ⟨frame, past, group⟩ := State.wrs_retire_frame h _ n _ (vecWrites_inside pair d m f (w := { v := vDest pair d }) rfl)
  refine ⟨fun l hl => ?_, frame, past⟩
  rw [State.putV, group, Group.laneOf_setPath]
  exact Group.applyAll_vecWrites_laneOf _ _ pair d m f hl

theorem Group.laneOf_lt (g : Group) (pair : Bool) (r : VReg) (l : Nat) : g.laneOf pair r l < 2 ^ (if pair then 64 else 32) := by
  unfold Group.laneOf
  have low := ((g.vreg r).at l).isLt
  have high := ((g.vreg (r + 1)).at l).isLt
  cases pair
  · simpa using low
  · simp only [if_true]
    omega

end Sys2Proof.Machine
end

section
/-! PROOF. VVOTE, VCOMPACT, VMATCH and ELECT (11 R300-R302): what each writes, and that they write nothing where no lane is
selected (09 R219). -/

namespace Sys2Proof.Machine

open Sys2Proof.Claim

variable {s : State}

theorem setsK_of_wk (h : s.issuing) {i : Instr} {n : Nat} {d : KReg} {v : Mask} (hd : d ≠ 0)
    (hi : exec i s = .next ((s.wk d v).retire n)) : SetsK s i n d v := by
  obtain ⟨written, frame, past⟩ := State.wk_retire h d v n
  exact ⟨_, hi, written hd, frame, past⟩

/-! ### The first and the last lane that a test chooses -/

/-- The first lane that a test chooses, and 32 where it chooses none. -/
def firstLane (f : Nat → Bool) : Nat := ((List.range 32).filter f).headD 32

/-- The last lane that a test chooses, and 32 where it chooses none. -/
def lastLane (f : Nat → Bool) : Nat := ((List.range 32).filter f).getLastD 32

theorem firstLane_spec (f : Nat → Bool) :
    firstLane f ≤ 32 ∧ (firstLane f < 32 → f (firstLane f) = true) ∧ ∀ l, l < firstLane f → f l = false := by
  rw [firstLane, List.headD_eq_head?_getD, List.head?_filter]
  cases found : (List.range 32).find? f with
  | none =>
    rw [List.find?_range_eq_none] at found
    simpa using found
  | some v =>
    obtain ⟨hit, within, before⟩ := List.find?_range_eq_some.mp found
    rw [List.mem_range] at within
    exact ⟨within.le, fun _ => hit, fun l hl => by simpa using before l hl⟩

theorem lastLane_spec (f : Nat → Bool) :
    lastLane f ≤ 32 ∧ (lastLane f < 32 → f (lastLane f) = true ∧ ∀ l, lastLane f < l → l < 32 → f l = false) ∧
      (lastLane f = 32 → ∀ l, l < 32 → f l = false) := by
  have ascending : ((List.range 32).filter f).Pairwise (· < ·) := List.pairwise_lt_range.filter _
  have chosen {l : Nat} : l ∈ (List.range 32).filter f ↔ l < 32 ∧ f l = true := by rw [List.mem_filter, List.mem_range]
  unfold lastLane
  generalize (List.range 32).filter f = hits at ascending chosen ⊢
  rcases List.eq_nil_or_concat' hits with rfl | ⟨before, v, rfl⟩
  · refine ⟨le_rfl, fun lt => absurd lt (lt_irrefl 32), fun _ l hl => ?_⟩
    simpa [hl] using chosen (l := l)
  · obtain ⟨within, hit⟩ := chosen.mp (List.mem_append_right before (List.mem_singleton.mpr rfl))
    rw [List.getLastD_concat]
    refine ⟨within.le, fun _ => ⟨hit, fun l above hl => ?_⟩, fun e => absurd e within.ne⟩
    by_contra on
    rcases List.mem_append.mp (chosen.mpr ⟨hl, Bool.not_eq_false _ ▸ on⟩) with early | last
    · exact absurd ((List.pairwise_append.mp ascending).2.2 l early v (List.mem_singleton.mpr rfl)) above.asymm
    · exact absurd (List.mem_singleton.mp last) above.ne'

/-! ### VVOTE (11 R300) -/

section Vote

variable (p : Pred) (ty : ETy) (a : VReg)

/-- The lanes that vote: selected, with a value other than 0. -/
def State.votes (s : State) (p : Pred) (ty : ETy) (a : VReg) (l : Nat) : Bool := (s.sel p).getLsbD l && s.g.laneOf ty.pair a l != 0

theorem filter_lanesOf_sel (s : State) (p : Pred) (ty : ETy) (a : VReg) :
    ((lanesOf (s.sel p)).filter fun l => s.g.laneOf ty.pair a l != 0) = (List.range 32).filter (s.votes p ty a) := by
  rw [lanesOf, List.filter_filter]
  exact List.filter_congr fun l _ => Bool.and_comm _ _

/-- What VVOTE does where a lane is selected, before it moves on. -/
def State.vote (s : State) (p : Pred) (ty : ETy) (a : VReg) : Vote → State
  | .mk d => s.wk d (maskOf (s.votes p ty a))
  | .cnt d => s.ws d (BitVec.ofNat 64 ((List.range 32).filter (s.votes p ty a)).length)
  | .lo d => s.ws d (BitVec.ofNat 64 (firstLane (s.votes p ty a)))
  | .hi d => s.ws d (BitVec.ofNat 64 (lastLane (s.votes p ty a)))
  | .eq d => s.ws d (if (lanesOf (s.sel p)).all fun l =>
      s.g.laneOf ty.pair a l == s.g.laneOf ty.pair a ((lanesOf (s.sel p)).headD 0) then 1 else 0)

variable {p ty a}

theorem exec_vvote_of_no_lane (empty : s.sel p = 0) (f : Vote) : exec (.vvote p f ty a) s = .next (s.retire 8) :=
  congrArg (fun t : State => Host.Outcome.next (t.retire 8)) (if_pos empty)

theorem exec_vvote (chosen : s.sel p ≠ 0) (f : Vote) : exec (.vvote p f ty a) s = .next ((s.vote p ty a f).retire 8) := by
  refine (congrArg (fun t : State => Host.Outcome.next (t.retire 8)) (if_neg chosen)).trans ?_
  cases f with
  | mk d => exact congrArg (fun t : State => Host.Outcome.next (t.retire 8)) (if_neg chosen)
  | cnt d => rw [filter_lanesOf_sel]; rfl
  | lo d => rw [filter_lanesOf_sel]; rfl
  | hi d => rw [filter_lanesOf_sel]; rfl
  | eq d => rfl

/-- Every selected lane has the first one's value exactly when any two have the same. -/
theorem all_eq_first_iff (chosen : s.sel p ≠ 0) (x : Nat → Nat) :
    ((lanesOf (s.sel p)).all fun l => x l == x ((lanesOf (s.sel p)).headD 0)) = true ↔
      ∀ l j, l < 32 → j < 32 → (s.sel p).getLsbD l = true → (s.sel p).getLsbD j = true → x l = x j := by
  obtain ⟨first, above, lanes⟩ := List.exists_cons_of_ne_nil (mt lanesOf_eq_nil_iff.mp chosen)
  have first_mem : first ∈ lanesOf (s.sel p) := by simp [lanes]
  obtain ⟨hfirst, onfirst⟩ := mem_lanesOf.mp first_mem
  have head : (lanesOf (s.sel p)).headD 0 = first := by rw [lanes]; rfl
  simp only [head, List.all_eq_true, mem_lanesOf, beq_iff_eq]
  constructor
  · intro all l j hl hj onl onj
    exact (all l ⟨hl, onl⟩).trans (all j ⟨hj, onj⟩).symm
  · rintro same l ⟨hl, onl⟩
    exact same l first hl hfirst onl onfirst

theorem ends_vvote_mk (h : s.issuing) (chosen : s.sel p ≠ 0) {k : KReg} (hk : k ≠ 0) : Ends (.vvote p (.mk k) ty a) s fun t =>
    (∀ l, l < 32 → (t.g.kreg k).getLsbD l = s.votes p ty a l) ∧ s.Frame t { k := [k] } ∧ t.p = s.p.past 8 := by
  obtain ⟨t, next, written, frame, past⟩ := setsK_of_wk h hk (exec_vvote (ty := ty) (a := a) chosen (.mk k))
  exact ⟨t, next, fun l hl => by rw [written, maskOf_getLsbD _ hl], frame, past⟩

/-- A lane number in a scalar register. -/
theorem toNat_lane {v : Nat} (h : v ≤ 32) : (BitVec.ofNat 64 v).toNat = v := by
  rw [BitVec.toNat_ofNat]
  omega

theorem ends_vvote_lo (h : s.issuing) (chosen : s.sel p ≠ 0) (r : SReg) : Ends (.vvote p (.lo r) ty a) s fun t =>
    (t.g.sreg r).toNat ≤ 32 ∧ ((t.g.sreg r).toNat < 32 → s.votes p ty a (t.g.sreg r).toNat = true) ∧
      (∀ l, l < (t.g.sreg r).toNat → s.votes p ty a l = false) ∧ s.Frame t { s := [r] } ∧ t.p = s.p.past 8 := by
  obtain ⟨t, next, written, frame, past⟩ := setsS_of_ws h (exec_vvote (ty := ty) (a := a) chosen (.lo r))
  obtain ⟨within, hit, before⟩ := firstLane_spec (s.votes p ty a)
  refine ⟨t, next, ?_⟩
  beta_reduce
  rw [written, toNat_lane within]
  exact ⟨within, hit, before, frame, past⟩

theorem ends_vvote_hi (h : s.issuing) (chosen : s.sel p ≠ 0) (r : SReg) : Ends (.vvote p (.hi r) ty a) s fun t =>
    (t.g.sreg r).toNat ≤ 32 ∧ ((t.g.sreg r).toNat < 32 → s.votes p ty a (t.g.sreg r).toNat = true ∧
        ∀ l, (t.g.sreg r).toNat < l → l < 32 → s.votes p ty a l = false) ∧
      ((t.g.sreg r).toNat = 32 → ∀ l, l < 32 → s.votes p ty a l = false) ∧ s.Frame t { s := [r] } ∧ t.p = s.p.past 8 := by
  obtain ⟨t, next, written, frame, past⟩ := setsS_of_ws h (exec_vvote (ty := ty) (a := a) chosen (.hi r))
  obtain ⟨within, hit, empty⟩ := lastLane_spec (s.votes p ty a)
  refine ⟨t, next, ?_⟩
  beta_reduce
  rw [written, toNat_lane within]
  exact ⟨within, hit, empty, frame, past⟩

theorem setsS_vvote_eq (h : s.issuing) (chosen : s.sel p ≠ 0) (r : SReg) : SetsS s (.vvote p (.eq r) ty a) 8 r
    (if (lanesOf (s.sel p)).all fun l => s.g.laneOf ty.pair a l == s.g.laneOf ty.pair a ((lanesOf (s.sel p)).headD 0) then 1 else 0) :=
  setsS_of_ws h (exec_vvote chosen (.eq r))

end Vote

/-! ### ELECT (11 R302) -/

/-- What ELECT writes for the first selected lane. -/
def State.elect (s : State) (l : Nat) : Elect → State
  | .k d => s.wk d (laneBit l)
  | .s d => s.ws d (BitVec.ofNat 64 l)

theorem exec_elect_of_no_lane {p : Pred} (empty : s.sel p = 0) (f : Elect) : exec (.elect p f) s = .next (s.retire 8) := by
  have unfolded : exec (.elect p f) s = execElect p f s := rfl
  rw [unfolded, execElect, lanesOf_eq_nil_iff.mpr empty]

theorem exec_elect {p : Pred} {l : Nat} {above : List Nat} (lanes : lanesOf (s.sel p) = l :: above) (f : Elect) :
    exec (.elect p f) s = .next ((s.elect l f).retire 8) := by
  have unfolded : exec (.elect p f) s = execElect p f s := rfl
  rw [unfolded, execElect, lanes]
  cases f <;> rfl

/-! ### VCOMPACT (11 R301) -/

/-- VCOMPACT writes an active lane when fewer active lanes than there are selected ones lie below it, and writes there the
selected lane with as many below it. -/
theorem ends_vcompact (h : s.issuing) (p : Pred) (ty : ETy) (d a : VReg) : Ends (.vcompact p ty d a) s fun t =>
    (∀ l j, l < 32 → j < 32 → s.act.getLsbD l = true → (s.sel p).getLsbD j = true → rank s.act l = rank (s.sel p) j →
      t.g.laneOf ty.pair d l = s.g.laneOf ty.pair a j) ∧
    (∀ l, l < 32 → (s.act.getLsbD l = false ∨ rank (s.sel p) 32 ≤ rank s.act l) →
      t.g.laneOf ty.pair d l = s.g.laneOf ty.pair d l) ∧
    s.Frame t { v := vDest ty.pair d } ∧ t.p = s.p.past 8 := by
  obtain ⟨lanes, frame, past⟩ := State.putV_retire h ty.pair d
    (maskOf ((lanesOf s.act).take (lanesOf (s.sel p)).length).contains)
    (fun l => s.g.laneOf ty.pair a ((lanesOf (s.sel p)).getD (((lanesOf s.act).take (lanesOf (s.sel p)).length).idxOf l) 0)) 8
  refine ⟨_, rfl, fun l j hl hj onl onj same => ?_, fun l hl out => ?_, frame, past⟩
  · have selected : j ∈ lanesOf (s.sel p) := mem_lanesOf.mpr ⟨hj, onj⟩
    have taken : l ∈ (lanesOf s.act).take (lanesOf (s.sel p)).length :=
      mem_take_lanesOf_iff.mpr ⟨mem_lanesOf.mpr ⟨hl, onl⟩, same ▸ rank_lt_length selected⟩
    refine (lanes l hl).trans ?_
    rw [maskOf_getLsbD _ hl, if_pos (List.contains_iff_mem.mpr taken), idxOf_take_lanesOf taken, same, lanesOf_getD_rank selected,
      Nat.mod_eq_of_lt (s.g.laneOf_lt _ _ _)]
  · have not_taken : l ∉ (lanesOf s.act).take (lanesOf (s.sel p)).length := by
      rw [mem_take_lanesOf_iff, mem_lanesOf]
      rintro ⟨⟨-, on⟩, low⟩
      rcases out with off | high
      · exact Bool.false_ne_true (off.symm.trans on)
      · exact absurd low (Nat.not_lt.mpr high)
    refine (lanes l hl).trans ?_
    rw [maskOf_getLsbD _ hl, if_neg (mt List.contains_iff_mem.mp not_taken)]

/-! ### VMATCH (11 R302) -/

theorem Group.toNat_at_vreg (g : Group) (r : VReg) (l : Nat) : ((g.vreg r).at l).toNat = g.laneOf false r l := rfl

theorem ends_vmatch (h : s.issuing) (p : Pred) (ty : ETy) (d a : VReg) : Ends (.vmatch p ty d a) s fun t =>
    (∀ l, l < 32 → (s.sel p).getLsbD l = true → ∀ j, j < 32 → (((t.g.vreg d).at l).getLsbD j = true ↔
      (s.sel p).getLsbD j = true ∧ s.g.laneOf ty.pair a j = s.g.laneOf ty.pair a l)) ∧
    (∀ l, l < 32 → (s.sel p).getLsbD l = false → (t.g.vreg d).at l = (s.g.vreg d).at l) ∧
    s.Frame t { v := [d] } ∧ t.p = s.p.past 8 := by
  obtain ⟨lanes, frame, past⟩ := State.putV_retire h false d (s.sel p)
    (fun l => (maskOf fun j => (s.sel p).getLsbD j && s.g.laneOf ty.pair a j == s.g.laneOf ty.pair a l).toNat) 8
  refine ⟨_, rfl, fun l hl on j hj => ?_, fun l hl off => ?_, frame, past⟩
  · have written := lanes l hl
    rw [if_pos on, if_neg Bool.false_ne_true, Nat.mod_eq_of_lt (BitVec.isLt _), ← Group.toNat_at_vreg, BitVec.toNat_inj] at written
    refine (iff_of_eq (congrArg (fun x : W32 => x.getLsbD j = true) written)).trans ?_
    rw [maskOf_getLsbD _ hj, Bool.and_eq_true, beq_iff_eq]
  · have kept := lanes l hl
    rw [if_neg (by rw [off]; exact Bool.false_ne_true), ← Group.toNat_at_vreg, ← Group.toNat_at_vreg, BitVec.toNat_inj] at kept
    exact kept

/-- Settles O21: nothing is written where no lane is selected, and otherwise what the lemmas above say. -/
theorem votesAndCompaction : Obligations.VotesAndCompaction := by
  unfold Obligations.VotesAndCompaction
  intro s h p ty d a k r hk x sel hit
  refine ⟨fun empty => ?_, fun chosen => ⟨?_, ?_, ?_, ?_, fun same => ?_, fun differ => ?_, fun l hl on first => ?_⟩,
    ends_vcompact h p ty d a, ends_vmatch h p ty d a⟩
  · have vote (f : Vote) : Passes s (.vvote p f ty a) 8 := passes_of_retire h (exec_vvote_of_no_lane empty f)
    have elect (f : Elect) : Passes s (.elect p f) 8 := passes_of_retire h (exec_elect_of_no_lane empty f)
    exact ⟨vote _, vote _, vote _, vote _, vote _, elect _, elect _⟩
  · exact ends_vvote_mk h chosen hk
  · exact setsS_of_ws h (exec_vvote chosen (.cnt r))
  · exact ends_vvote_lo h chosen r
  · exact ends_vvote_hi h chosen r
  · have vote := setsS_vvote_eq (ty := ty) (a := a) h chosen r
    rwa [if_pos ((all_eq_first_iff chosen x).mpr same)] at vote
  · have vote := setsS_vvote_eq (ty := ty) (a := a) h chosen r
    rwa [if_neg (mt (all_eq_first_iff chosen x).mp differ)] at vote
  · obtain ⟨above, lanes⟩ := lanesOf_eq_cons hl on first
    exact ⟨setsK_of_wk h hk (exec_elect lanes (.k k)), setsS_of_ws h (exec_elect lanes (.s r))⟩

end Sys2Proof.Machine
end

section
/-! PROOF. The interlocked float instructions (08 R202, R206-R208; 11 R272): the elements of a lane, the flags that gather over
the elements of the selected lanes, and the trap of an enabled one. -/

namespace Sys2Proof.Machine

open Sys2Proof.Claim

/-! ### Elements of a lane (08 R197) -/

theorem bitsAt_lt (v lo len : Nat) : bitsAt v lo len < 2 ^ len := Nat.mod_lt _ (Nat.two_pow_pos len)

theorem bitsAt_testBit (v lo len j : Nat) : (bitsAt v lo len).testBit j = (decide (j < len) && v.testBit (lo + j)) := by
  rw [bitsAt, Nat.testBit_mod_two_pow, Nat.testBit_div_two_pow, Nat.add_comm]

/-- Fields of equal width, side by side, are what was put into them. -/
theorem foldl_fields_spec (w : Nat) (f : Nat → Nat) (n : Nat) :
    (List.range n).foldl (fun a i => a + f i % 2 ^ w * 2 ^ (w * i)) 0 < 2 ^ (w * n) ∧
      ∀ i, i < n → bitsAt ((List.range n).foldl (fun a i => a + f i % 2 ^ w * 2 ^ (w * i)) 0) (w * i) w = f i % 2 ^ w := by
  induction n with
  | zero => exact ⟨Nat.two_pow_pos _, fun i hi => absurd hi (Nat.not_lt_zero i)⟩
  | succ n ih =>
    obtain ⟨bound, fields⟩ := ih
    rw [List.range_succ, List.foldl_append, List.foldl_cons, List.foldl_nil]
    generalize (List.range n).foldl (fun a i => a + f i % 2 ^ w * 2 ^ (w * i)) 0 = x at bound fields ⊢
    have top : f n % 2 ^ w < 2 ^ w := Nat.mod_lt _ (Nat.two_pow_pos w)
    constructor
    · have room : (f n % 2 ^ w + 1) * 2 ^ (w * n) ≤ 2 ^ w * 2 ^ (w * n) := Nat.mul_le_mul_right _ top
      rw [Nat.add_mul, Nat.one_mul] at room
      rw [Nat.mul_succ, Nat.pow_add, Nat.mul_comm (2 ^ (w * n))]
      omega
    · intro i hi
      rcases Nat.lt_succ_iff_lt_or_eq.mp hi with low | rfl
      · obtain ⟨k, rfl⟩ : ∃ k, n = i + (k + 1) := ⟨n - i - 1, by omega⟩
        have shifted : f (i + (k + 1)) % 2 ^ w * 2 ^ (w * (i + (k + 1))) =
            2 ^ (w * i) * (f (i + (k + 1)) % 2 ^ w * 2 ^ (w * k) * 2 ^ w) := by ring
        rw [bitsAt, shifted, Nat.add_mul_div_left _ _ (Nat.two_pow_pos _), Nat.add_mul_mod_self_right]
        exact fields i low
      · rw [bitsAt, Nat.add_mul_div_right _ _ (Nat.two_pow_pos _), Nat.div_eq_of_lt bound, Nat.zero_add, Nat.mod_mod]

theorem elemBits_mul_elemCount_le (ty : ETy) : ty.elemBits * elemCount ty ≤ if ty.pair then 64 else 32 := by
  cases ty <;> decide

theorem packElems_lt (ty : ETy) (f : Nat → Nat) : packElems ty f < 2 ^ (if ty.pair then 64 else 32) :=
  (foldl_fields_spec ty.elemBits f (elemCount ty)).1.trans_le (Nat.pow_le_pow_right (by decide) (elemBits_mul_elemCount_le ty))

theorem elemAt_packElems (ty : ETy) (f : Nat → Nat) {i : Nat} (hi : i < elemCount ty) :
    elemAt ty (packElems ty f) i = f i % 2 ^ ty.elemBits := (foldl_fields_spec ty.elemBits f (elemCount ty)).2 i hi

theorem elemAt_lt (ty : ETy) (x i : Nat) : elemAt ty x i < 2 ^ ty.elemBits := bitsAt_lt _ _ _

/-! ### Flags (08 R202, R206) -/

theorem testBit_foldl_or {α : Type} (f : α → Nat) (l : List α) (x b : Nat) :
    (l.foldl (fun a i => a ||| f i) x).testBit b = (x.testBit b || l.any fun i => (f i).testBit b) := by
  induction l generalizing x with
  | nil => simp
  | cons i l ih => rw [List.foldl_cons, ih, Nat.testBit_or, List.any_cons, Bool.or_assoc]

theorem laneFlags_testBit (m : Mask) (f : Nat → Nat × Nat) (b : Nat) :
    (laneFlags m f).testBit b = true ↔ ∃ l, l < 32 ∧ m.getLsbD l = true ∧ (f l).2.testBit b = true := by
  rw [laneFlags, testBit_foldl_or, Nat.zero_testBit, Bool.false_or, List.any_eq_true]
  simp only [mem_lanesOf, and_assoc]

theorem packFlags_fst (ty : ETy) (f : Nat → Nat × Nat) : (packFlags ty f).1 = packElems ty fun i => (f i).1 := rfl

theorem packFlags_testBit (ty : ETy) (f : Nat → Nat × Nat) (b : Nat) :
    (packFlags ty f).2.testBit b = true ↔ ∃ i, i < elemCount ty ∧ (f i).2.testBit b = true := by
  rw [packFlags, testBit_foldl_or, Nat.zero_testBit, Bool.false_or, List.any_eq_true]
  simp only [List.mem_range]

/-- A flag of a lane-wise instruction is raised when it is raised in some element of some selected lane. -/
theorem laneFlags_packFlags_testBit (s : State) (p : Pred) (ty : ETy) (r : Res) (b : Nat) :
    (laneFlags (s.sel p) fun l => packFlags ty (r l)).testBit b = true ↔ raised s p ty r b := by
  rw [laneFlags_testBit]
  refine exists_congr fun l => ?_
  rw [packFlags_testBit]
  constructor
  · rintro ⟨hl, on, i, hi, up⟩
    exact ⟨i, hl, hi, on, up⟩
  · rintro ⟨i, hl, hi, on, up⟩
    exact ⟨hl, on, i, hi, up⟩

theorem Group.raise_fpcsr_getLsbD (g : Group) (fl : Nat) {b : Nat} (hb : b < 64) :
    (g.raise fl).fpcsr.getLsbD b = true ↔ g.fpcsr.getLsbD b = true ∨ (b < 6 ∧ fl.testBit b = true) := by
  have raised : (g.raise fl).fpcsr = g.fpcsr ||| BitVec.ofNat 64 (fl % 2 ^ 6) := rfl
  rw [raised, BitVec.getLsbD_or, BitVec.getLsbD_ofNat, Nat.testBit_mod_two_pow, decide_eq_true hb]
  simp

theorem Group.raise_no_flag (g : Group) : (g.raise 0).fpcsr = g.fpcsr := BitVec.or_zero

theorem Group.trapping_iff (g : Group) (fl : Nat) :
    g.trapping fl = true ↔ ∃ b, b < 5 ∧ fl.testBit b = true ∧ g.fpcsr.getLsbD (8 + b) = true := by
  have meet (b : Nat) : (Nat.land (fl % 2 ^ 5) (bitsAt g.fpcsr.toNat 8 5)).testBit b =
      (decide (b < 5) && fl.testBit b && (decide (b < 5) && g.fpcsr.getLsbD (8 + b))) := by
    refine (Nat.testBit_and _ _ b).trans ?_
    rw [Nat.testBit_mod_two_pow, bitsAt_testBit, BitVec.testBit_toNat]
  have unfolded : g.trapping fl = (Nat.land (fl % 2 ^ 5) (bitsAt g.fpcsr.toNat 8 5) != 0) := rfl
  rw [unfolded, bne_iff_ne]
  constructor
  · intro h
    obtain ⟨b, hb⟩ := Nat.exists_testBit_of_ne_zero h
    rw [meet] at hb
    simp only [Bool.and_eq_true, decide_eq_true_eq] at hb
    exact ⟨b, hb.1.1, hb.1.2, hb.2.2⟩
  · rintro ⟨b, hb, up, on⟩ h0
    have bit := meet b
    rw [h0, Nat.zero_testBit, up, on, decide_eq_true hb] at bit
    exact absurd bit (by decide)

/-! ### Results, then flags, then an enabled trap (08 R208) -/

variable {s : State}

@[simp] theorem Group.apply_fpcsr (g : Group) (ia : VA) (x : RegWrite) : (g.apply ia x).fpcsr = g.fpcsr := by
  cases x <;> simp [Group.apply]

@[simp] theorem Group.applyAll_fpcsr (g : Group) (ia : VA) (l : List RegWrite) : (g.applyAll ia l).fpcsr = g.fpcsr := by
  induction l generalizing g with
  | nil => rfl
  | cons w l ih => exact (ih _).trans (g.apply_fpcsr ia w)

theorem State.wrs_g (h : s.issuing) (l : List RegWrite) : (s.wrs l).g = s.g.applyAll s.p.pc l := by
  induction l generalizing s with
  | nil => rfl
  | cons w l ih =>
    have step : (s.wrs (w :: l)).g = ((s.wr w).wrs l).g := rfl
    rw [step, ih (State.wr_issuing h w), State.wr_p h, State.wr, State.modG_g h]
    rfl

/-- Register writes and a change of the issuing group after them are one change of it. -/
theorem State.wrs_modG (h : s.issuing) (l : List RegWrite) (k : Group → Group) :
    (s.wrs l).modG k = s.modG fun g => k (g.applyAll s.p.pc l) := by
  induction l generalizing s with
  | nil => rfl
  | cons w l ih =>
    have step : (s.wrs (w :: l)).modG k = ((s.wr w).wrs l).modG k := rfl
    rw [step, ih (State.wr_issuing h w), State.wr_p h, State.wr, State.modG_modG h]
    rfl

/-- The state in which a float instruction has written its results, set its flags and moved on, before a trap. -/
def State.flagged (s : State) (l : List RegWrite) (fl : Nat) : State := ((s.wrs l).modG fun g => g.raise fl).retire 8

theorem State.flagged_eq (h : s.issuing) (l : List RegWrite) (fl : Nat) :
    s.flagged l fl = s.modG fun g => ((g.applyAll s.p.pc l).raise fl).setPath s.cur.b ((g.path s.cur.b).past 8) := by
  rw [State.flagged, State.wrs_modG h, State.retire, State.modP, State.modG_cur, State.modG_modG h]
  simp only [Group.raise_path, Group.applyAll_path]

theorem State.flagged_g (h : s.issuing) (l : List RegWrite) (fl : Nat) :
    (s.flagged l fl).g = ((s.g.applyAll s.p.pc l).raise fl).setPath s.cur.b (s.p.past 8) := by
  rw [State.flagged_eq h, State.modG_g h]
  rfl

theorem State.flagged_p (h : s.issuing) (l : List RegWrite) (fl : Nat) : (s.flagged l fl).p = s.p.past 8 := by
  rw [State.flagged_eq h, State.modG_p h, Group.path_setPath]
  rfl

theorem RegWrite.inside_flags {w : Writes} {x : RegWrite} (h : x.inside w) : x.inside { w with fl := true } := by
  cases x <;> exact h

theorem State.flagged_frame (h : s.issuing) {l : List RegWrite} {w : Writes} (inside : ∀ x ∈ l, x.inside w) (fl : Nat) :
    s.Frame (s.flagged l fl) { w with fl := true } := by
  rw [State.flagged_eq h]
  refine State.modG_frame h _ _ ?_
  have written := Group.kept_applyAll s.g s.cur.b { w with fl := true } s.p.pc l fun x hx => RegWrite.inside_flags (inside x hx)
  have flags := written.trans (Group.kept_raise _ s.cur.b { w with fl := true } fl rfl) (by simp)
  exact flags.trans (Group.kept_setPath _ _ _ _) (by simp)

theorem State.flagged_gathers (h : s.issuing) (l : List RegWrite) {fl : Nat} {up : Nat → Prop}
    (flags : ∀ b, b < 6 → (fl.testBit b = true ↔ up b)) : FlagsGather s (s.flagged l fl) up := by
  intro b hb
  rw [State.flagged_g h, Group.setPath_fpcsr, Group.raise_fpcsr_getLsbD _ _ hb, Group.applyAll_fpcsr]
  exact or_congr_right (and_congr_right fun low => flags b low)

theorem State.wrs_retireFlags (h : s.issuing) (l : List RegWrite) (fl : Nat) : (s.wrs l).retireFlags fl 8 =
    if s.g.trapping fl then (s.flagged l fl).trap 0x30 (BitVec.ofNat 64 (fl % 32)) 0 else s.flagged l fl := by
  have same_enables : (s.wrs l).g.trapping fl = s.g.trapping fl := by
    rw [State.wrs_g h, Group.trapping, Group.applyAll_fpcsr, Group.trapping]
  rw [← same_enables]
  rfl

/-- An instruction that writes registers and raises flags, as 08 R206-R208 say. -/
theorem floats_of_wrs (h : s.issuing) {i : Instr} {l : List RegWrite} {fl : Nat} {up : Nat → Prop} {w : Writes} {H : State → Prop}
    (hi : exec i s = .next ((s.wrs l).retireFlags fl 8)) (inside : ∀ x ∈ l, x.inside w)
    (flags : ∀ b, b < 6 → (fl.testBit b = true ↔ up b)) (holds : H (s.flagged l fl)) : Floats s i up w H := by
  have enabled : s.g.trapping fl = true ↔ ∃ b, b < 5 ∧ up b ∧ s.g.fpcsr.getLsbD (8 + b) = true := by
    rw [Group.trapping_iff]
    exact exists_congr fun b => and_congr_right fun hb => and_congr_left' (flags b (by omega))
  have final : H (s.flagged l fl) ∧ FlagsGather s (s.flagged l fl) up ∧ s.Frame (s.flagged l fl) { w with fl := true } ∧
      (s.flagged l fl).p = s.p.past 8 :=
    ⟨holds, State.flagged_gathers h l flags, State.flagged_frame h inside fl, State.flagged_p h l fl⟩
  rw [State.wrs_retireFlags h] at hi
  refine ⟨fun off => ⟨_, hi, ?_⟩, fun on => ⟨s.flagged l fl, BitVec.ofNat 64 (fl % 32), final, ?_, fun b hb => ?_⟩⟩
  · rw [if_neg]
    · exact final
    · rw [enabled]
      rintro ⟨b, hb, up_b, on⟩
      exact Bool.false_ne_true ((off b hb up_b).symm.trans on)
  · rw [hi, if_pos (enabled.mpr on)]
  · have five : fl % 32 = fl % 2 ^ 5 := rfl
    rw [BitVec.getLsbD_ofNat, five, Nat.testBit_mod_two_pow, decide_eq_true hb, Bool.true_and, Bool.and_eq_true, decide_eq_true_eq]
    exact and_congr_right fun low => flags b (by omega)

/-! ### Lane-wise float instructions (11 R272) -/

@[simp] theorem Group.laneOf_raise (g : Group) (fl : Nat) (pair : Bool) (r : VReg) (l : Nat) :
    (g.raise fl).laneOf pair r l = g.laneOf pair r l := by
  simp [Group.laneOf]

theorem State.flagged_laneOf (h : s.issuing) (pair : Bool) (d : VReg) (m : Mask) (f : Nat → Nat) (fl : Nat) {l : Nat} (hl : l < 32) :
    (s.flagged (vecWrites pair d m f) fl).g.laneOf pair d l =
      if m.getLsbD l then f l % 2 ^ (if pair then 64 else 32) else s.g.laneOf pair d l := by
  rw [State.flagged_g h, Group.laneOf_setPath, Group.laneOf_raise]
  exact Group.applyAll_vecWrites_laneOf _ _ pair d m f hl

/-- An instruction that computes a code and flags for every element is lane-wise, when its codes fit the elements. -/
theorem floatLanes_of_floatwise (h : s.issuing) {i : Instr} {p : Pred} {ty : ETy} {d : VReg} {r : Res}
    (hi : exec i s = .next (s.floatwise p ty.pair d fun l => packFlags ty (r l))) (fits : ∀ l k, (r l k).1 < 2 ^ ty.elemBits) :
    FloatLanes s i p ty d r := by
  refine floats_of_wrs h hi (vecWrites_inside _ _ _ _ rfl) (fun b _ => laneFlags_packFlags_testBit s p ty r b) fun l hl => ?_
  have lane := State.flagged_laneOf h ty.pair d (s.sel p) (fun l => (packFlags ty (r l)).1)
    (laneFlags (s.sel p) fun l => packFlags ty (r l)) hl
  refine ⟨fun on k hk => ?_, fun off => ?_⟩
  · rw [if_pos on, packFlags_fst, Nat.mod_eq_of_lt (packElems_lt ty _)] at lane
    refine (congrArg (elemAt ty · k) lane).trans ?_
    exact (elemAt_packElems ty _ hk).trans (Nat.mod_eq_of_lt (fits l k))
  · rwa [if_neg (by rw [off]; exact Bool.false_ne_true)] at lane

end Sys2Proof.Machine
end

section
/-! PROOF. Float codes and their values (08 R196): what a code of an IEEE format decodes to, and which numbers its magnitude
codes are. -/

namespace Sys2Proof.Machine

open Sys2Proof.Claim

/-! ### Magnitude codes -/

/-- The significand of a magnitude code, as a whole number. -/
def magSig (f : Fmt) (mag : Nat) : Nat :=
  if mag < 2 ^ (fmtPrec f - 1) then mag else 2 ^ (fmtPrec f - 1) + mag % 2 ^ (fmtPrec f - 1)

/-- How far the exponent of a magnitude code lies above the least one: codes without an exponent field share the least. -/
def magStep (f : Fmt) (mag : Nat) : Nat := mag / 2 ^ (fmtPrec f - 1) - 1

/-- The exponent of a magnitude code's last place. -/
def magExp (f : Fmt) (mag : Nat) : Int := fmtEmin f + magStep f mag - (fmtPrec f - 1 : Nat)

theorem magValue_eq {f : Fmt} (hp : 1 ≤ fmtPrec f) (s : Bool) (mag : Nat) :
    magValue f s mag = .fin s (magSig f mag) (magExp f mag) false := by
  unfold magValue magSig magExp magStep fmtEmin
  dsimp only
  by_cases low : mag < 2 ^ (fmtPrec f - 1)
  · rw [Nat.div_eq_of_lt low, Nat.mod_eq_of_lt low, if_pos rfl, if_pos low]
    congr 1
    omega
  · have field : 0 < mag / 2 ^ (fmtPrec f - 1) := Nat.div_pos (Nat.not_lt.mp low) (Nat.two_pow_pos _)
    rw [if_neg field.ne', if_neg low]
    congr 1
    omega

/-- Exponent and significand add up to the magnitude code. -/
theorem magSig_add_step (f : Fmt) (mag : Nat) : magSig f mag + magStep f mag * 2 ^ (fmtPrec f - 1) = mag := by
  unfold magSig magStep
  have parts := Nat.div_add_mod' mag (2 ^ (fmtPrec f - 1))
  split
  next low => rw [Nat.div_eq_of_lt low, Nat.zero_sub, Nat.zero_mul, Nat.add_zero]
  next high =>
    obtain ⟨k, hk⟩ := Nat.exists_eq_add_of_le' (Nat.div_pos (Nat.not_lt.mp high) (Nat.two_pow_pos (fmtPrec f - 1)))
    rw [hk, Nat.add_mul, Nat.one_mul] at parts
    rw [hk, Nat.add_sub_cancel]
    omega

theorem magSig_lt_iff (f : Fmt) (mag : Nat) : magSig f mag < 2 ^ (fmtPrec f - 1) ↔ mag < 2 ^ (fmtPrec f - 1) := by
  unfold magSig
  split
  next low => exact Iff.rfl
  next high => exact iff_of_false (by omega) high

theorem magSig_lt (f : Fmt) (mag : Nat) : magSig f mag < 2 ^ (fmtPrec f - 1 + 1) := by
  have rest : mag % 2 ^ (fmtPrec f - 1) < 2 ^ (fmtPrec f - 1) := Nat.mod_lt _ (Nat.two_pow_pos _)
  unfold magSig
  rw [Nat.pow_succ]
  split <;> omega

theorem magStep_of_low {f : Fmt} {mag : Nat} (low : mag < 2 ^ (fmtPrec f - 1)) : magStep f mag = 0 := by
  rw [magStep, Nat.div_eq_of_lt low]

theorem magSig_eq_zero_iff (f : Fmt) (mag : Nat) : magSig f mag = 0 ↔ mag = 0 := by
  unfold magSig
  have pos := Nat.two_pow_pos (fmtPrec f - 1)
  split <;> omega

/-- A number with a whole significand of `n` places and last place `e` lies below two to the power of `n + e`. -/
theorem mul_zpow_lt {m n : Nat} (e : Int) (h : m < 2 ^ n) : (m : ℚ) * 2 ^ e < 2 ^ ((n : Int) + e) := by
  rw [zpow_add₀ two_ne_zero, zpow_natCast]
  exact mul_lt_mul_of_pos_right (by exact_mod_cast h) (by positivity)

theorem zpow_le_mul {m n : Nat} (e : Int) (h : 2 ^ n ≤ m) : (2 : ℚ) ^ ((n : Int) + e) ≤ m * 2 ^ e := by
  rw [zpow_add₀ two_ne_zero, zpow_natCast]
  exact mul_le_mul_of_nonneg_right (by exact_mod_cast h) (by positivity)

/-- The subnormal codes are those below the least normal number (11 R288). -/
theorem magValue_lt_emin_iff (f : Fmt) (mag : Nat) :
    (magSig f mag : ℚ) * 2 ^ magExp f mag < 2 ^ fmtEmin f ↔ magSig f mag < 2 ^ (fmtPrec f - 1) := by
  have places : ((fmtPrec f - 1 : Nat) : Int) + magExp f mag = fmtEmin f + magStep f mag := by
    unfold magExp
    omega
  constructor
  · intro small
    by_contra high
    have least := zpow_le_mul (magExp f mag) (Nat.not_lt.mp high)
    rw [places] at least
    have above : (2 : ℚ) ^ fmtEmin f ≤ 2 ^ (fmtEmin f + magStep f mag) := zpow_le_zpow_right₀ one_le_two (by omega)
    exact absurd small (not_lt.mpr (above.trans least))
  · intro low
    have bound := mul_zpow_lt (magExp f mag) low
    rwa [places, magStep_of_low ((magSig_lt_iff f mag).mp low), Nat.cast_zero, add_zero] at bound

/-! ### Codes of the IEEE formats (08 Table 8.1) -/

section Ieee

variable {eb fb c : Nat} {s st : Bool} {m : Nat} {e : Int}

/-- A finite code is the magnitude code of its value, with its sign. -/
theorem decodeBase_ieee_fin (hc : c < 2 ^ (1 + eb + fb)) (h : decodeBase (.ieee eb fb) c = .fin s m e st) :
    ∃ mag, mag ≤ fmtMax (.ieee eb fb) ∧ c = signCode (.ieee eb fb) s mag ∧ m = magSig (.ieee eb fb) mag ∧
      e = magExp (.ieee eb fb) mag ∧ st = false := by
  have width : 1 + eb + fb - 1 = eb + fb := by omega
  have prec : 1 ≤ fmtPrec (.ieee eb fb) := Nat.le_add_left 1 fb
  have unfolded : decodeBase (.ieee eb fb) c =
      if (2 ^ eb - 1) * 2 ^ fb < c % 2 ^ (1 + eb + fb - 1) then .nan (!(c % 2 ^ (1 + eb + fb - 1)).testBit (fb - 1))
      else if c % 2 ^ (1 + eb + fb - 1) = (2 ^ eb - 1) * 2 ^ fb then .inf (c.testBit (1 + eb + fb - 1))
      else magValue (.ieee eb fb) (c.testBit (1 + eb + fb - 1)) (c % 2 ^ (1 + eb + fb - 1)) := rfl
  rw [unfolded, width] at h
  split at h
  · exact absurd h (by simp)
  next not_nan =>
    split at h
    · exact absurd h (by simp)
    next not_inf =>
      rw [magValue_eq prec, Val.fin.injEq] at h
      obtain ⟨hs, hm, he, hst⟩ := h
      refine ⟨c % 2 ^ (eb + fb), ?_, ?_, hm.symm, he.symm, hst.symm⟩
      · have limit : fmtMax (.ieee eb fb) = (2 ^ eb - 1) * 2 ^ fb - 1 := rfl
        omega
      · have signed : signCode (.ieee eb fb) s (c % 2 ^ (eb + fb)) =
            if s && true then c % 2 ^ (eb + fb) + 2 ^ (1 + eb + fb - 1) else c % 2 ^ (eb + fb) := rfl
        have high : c / 2 ^ (eb + fb) < 2 := by
          rw [Nat.div_lt_iff_lt_mul (Nat.two_pow_pos _), ← Nat.pow_succ']
          exact hc.trans_eq (congrArg (2 ^ ·) (by omega))
        have parts := Nat.div_add_mod' c (2 ^ (eb + fb))
        have top : c.testBit (eb + fb) = decide (c / 2 ^ (eb + fb) % 2 = 1) := Nat.testBit_eq_decide_div_mod_eq
        rw [signed, width, ← hs, top, Bool.and_true]
        rcases Nat.lt_succ_iff_lt_or_eq.mp high with zero | one
        · rw [Nat.lt_one_iff.mp zero] at parts ⊢
          simpa using parts.symm
        · rw [one] at parts ⊢
          simp only [decide_true, if_true]
          omega

end Ieee

/-- The float element types name IEEE formats of their width (09 Table 9.4). -/
theorem fmtOf_ieee {ty : ETy} (hty : floatTy ty) : ∃ eb fb, fmtOf ty = .ieee eb fb ∧ 1 + eb + fb = ty.elemBits := by
  rcases hty with rfl | rfl | rfl | rfl | rfl | rfl <;> exact ⟨_, _, rfl, rfl⟩

/-- A finite element of a float type is exact, and the value of a magnitude code of its format. -/
theorem decodeBase_fmtOf_fin {ty : ETy} (hty : floatTy ty) {c : Nat} (hc : c < 2 ^ ty.elemBits) {s st : Bool} {m : Nat} {e : Int}
    (h : decodeBase (fmtOf ty) c = .fin s m e st) : ∃ mag, mag ≤ fmtMax (fmtOf ty) ∧ c = signCode (fmtOf ty) s mag ∧
      m = magSig (fmtOf ty) mag ∧ e = magExp (fmtOf ty) mag ∧ st = false := by
  obtain ⟨eb, fb, format, width⟩ := fmtOf_ieee hty
  rw [format] at h ⊢
  exact decodeBase_ieee_fin (width ▸ hc) h

/-! ### Codes fit their format -/

theorem fmtBits_fmtOf {ty : ETy} (hty : floatTy ty) : fmtBits (fmtOf ty) = ty.elemBits := by
  obtain ⟨eb, fb, format, width⟩ := fmtOf_ieee hty
  rw [format]
  exact width

theorem aFormat_fmtOf {ty : ETy} (hty : floatTy ty) : aFormat (fmtOf ty) := by
  rcases hty with rfl | rfl | rfl | rfl | rfl | rfl <;> simp [fmtOf, fp32, fp64, fp16, bf16, aFormat]

/-- The magnitude bits of a format. -/
def magBits (f : Fmt) : Nat := fmtBits f - if fmtSigned f then 1 else 0

theorem fmtMax_lt {f : Fmt} (hf : aFormat f) : fmtMax f < 2 ^ magBits f := by
  cases f with
  | ieee eb fb => rcases hf with ⟨rfl, rfl⟩ | ⟨rfl, rfl⟩ | ⟨rfl, rfl⟩ | ⟨rfl, rfl⟩ <;> decide
  | p8 p sg ext => cases sg <;> cases ext <;> simp [fmtMax, magBits, fmtBits, fmtSigned]
  | f4 => decide

theorem fmtInf_lt {f : Fmt} (hf : aFormat f) {i : Nat} (hi : fmtInf f = some i) : i < 2 ^ magBits f := by
  cases f with
  | ieee eb fb =>
    obtain rfl := Option.some.inj hi
    rcases hf with ⟨rfl, rfl⟩ | ⟨rfl, rfl⟩ | ⟨rfl, rfl⟩ | ⟨rfl, rfl⟩ <;> decide
  | p8 p sg ext =>
    cases ext with
    | false => cases sg <;> exact absurd hi (by simp [fmtInf])
    | true => cases sg <;> (obtain rfl := Option.some.inj hi; simp [magBits, fmtBits, fmtSigned])
  | f4 => exact absurd hi (by simp [fmtInf])

theorem fmtNan_lt {f : Fmt} (hf : aFormat f) : (fmtNan f).getD 0 < 2 ^ fmtBits f := by
  cases f with
  | ieee eb fb => rcases hf with ⟨rfl, rfl⟩ | ⟨rfl, rfl⟩ | ⟨rfl, rfl⟩ | ⟨rfl, rfl⟩ <;> decide
  | p8 p sg ext => cases sg <;> simp [fmtNan, fmtBits]
  | f4 => decide

theorem fmtBits_pos {f : Fmt} (hf : aFormat f) : 1 ≤ fmtBits f := by
  cases f with
  | ieee eb fb => exact Nat.le_add_right_of_le (Nat.le_add_right 1 eb)
  | p8 p sg ext => simp [fmtBits]
  | f4 => decide

theorem signCode_lt {f : Fmt} (hf : aFormat f) (s : Bool) {mag : Nat} (hm : mag < 2 ^ magBits f) : signCode f s mag < 2 ^ fmtBits f := by
  unfold signCode
  unfold magBits at hm
  have pos := fmtBits_pos hf
  cases signed : fmtSigned f with
  | false =>
    rw [signed] at hm
    simpa using hm
  | true =>
    rw [signed, if_pos rfl] at hm
    have double : 2 ^ fmtBits f = 2 ^ (fmtBits f - 1) + 2 ^ (fmtBits f - 1) := by
      rw [← Nat.two_mul, ← Nat.pow_succ', Nat.succ_eq_add_one, Nat.sub_add_cancel pos]
    rw [double]
    split <;> omega

/-- Rounding gives a code of the format. -/
theorem cvt_lt {f : Fmt} (hf : aFormat f) (rm : Rm) (sat : Bool) (x : Val) : (cvt f rm sat x).1 < 2 ^ fmtBits f := by
  have greatest (s : Bool) : signCode f s (fmtMax f) < 2 ^ fmtBits f := signCode_lt hf s (fmtMax_lt hf)
  have infinity {c : Bool} {i : Nat} (s : Bool) (hi : (if c then none else fmtInf f) = some i) : signCode f s i < 2 ^ fmtBits f :=
    signCode_lt hf s (fmtInf_lt hf (Option.ite_none_left_eq_some.mp hi).2)
  have zero (s : Bool) : (if fmtNegZero f then signCode f s 0 else 0) < 2 ^ fmtBits f := by
    split
    · exact signCode_lt hf s (Nat.two_pow_pos _)
    · exact Nat.two_pow_pos _
  unfold cvt
  dsimp only
  split
  next =>
    split
    next c hc =>
      have canonical := fmtNan_lt hf
      rwa [hc] at canonical
    next => exact Nat.two_pow_pos _
  next s =>
    split
    · exact fmtNan_lt hf
    · split
      next hi => exact infinity s hi
      next => exact greatest s
  next s m e st =>
    split
    · exact zero s
    · split
      · exact fmtNan_lt hf
      · split
        · split
          next hi => exact infinity s hi
          next => exact greatest s
        next small =>
          split
          · exact zero s
          · exact signCode_lt hf s ((Nat.not_lt.mp small).trans_lt (fmtMax_lt hf))

theorem cvt_fmtOf_lt {ty : ETy} (hty : floatTy ty) (rm : Rm) (sat : Bool) (x : Val) : (cvt (fmtOf ty) rm sat x).1 < 2 ^ ty.elemBits :=
  fmtBits_fmtOf hty ▸ cvt_lt (aFormat_fmtOf hty) rm sat x

end Sys2Proof.Machine
end

section
/-! PROOF. VFMIN, VFMAX, VFCMP and VFCLASS (11 R286-R288): the order of values as the order of rational numbers, the code that
a minimum or maximum picks, the mask of a comparison, and the classes. -/

namespace Sys2Proof.Machine

open Sys2Proof.Claim

/-! ### The order of values -/

/-- A finite value is its whole number of units of any power of two that its exponent is not below. -/
theorem ratOf_eq_units {lo : Int} (s : Bool) (m : Nat) (e : Int) (st : Bool) (h : lo ≤ expOf (.fin s m e st)) :
    ratOf (.fin s m e st) = units lo (.fin s m e st) * 2 ^ lo := by
  have value : (m : ℚ) * 2 ^ e = (m * 2 ^ (e - lo).toNat : Nat) * 2 ^ lo := by
    by_cases m0 : m = 0
    · simp [m0]
    · have above : lo ≤ e := by rwa [expOf, if_neg m0] at h
      rw [Nat.cast_mul, Nat.cast_pow, Nat.cast_ofNat, ← zpow_natCast, mul_assoc, ← zpow_add₀ two_ne_zero]
      congr 2
      omega
  rw [ratOf, value, units]
  cases s <;> push_cast <;> ring

theorem ltVal_fin_iff (s : Bool) (m : Nat) (e : Int) (st : Bool) (s' : Bool) (m' : Nat) (e' : Int) (st' : Bool) :
    ltVal (.fin s m e st) (.fin s' m' e' st') = true ↔ ratOf (.fin s m e st) < ratOf (.fin s' m' e' st') := by
  rw [ratOf_eq_units s m e st (min_le_left _ (expOf (.fin s' m' e' st'))),
    ratOf_eq_units s' m' e' st' (min_le_right (expOf (.fin s m e st)) _),
    mul_lt_mul_iff_left₀ (zpow_pos two_pos _), Int.cast_lt]
  exact decide_eq_true_iff

/-- The model's order of values other than NaN is that of the claims. -/
theorem ltVal_iff {x y : Val} (hx : isNan x = false) (hy : isNan y = false) : ltVal x y = true ↔ fLess x y := by
  cases x with
  | nan sig => exact absurd hx (by simp [isNan])
  | inf a =>
    cases y with
    | nan sig => exact absurd hy (by simp [isNan])
    | inf b => cases a <;> cases b <;> simp [ltVal, fLess]
    | fin s' m' e' st' => cases a <;> simp [ltVal, fLess]
  | fin s m e st =>
    cases y with
    | nan sig => exact absurd hy (by simp [isNan])
    | inf b => cases b <;> simp [ltVal, fLess]
    | fin s' m' e' st' => exact ltVal_fin_iff s m e st s' m' e' st'

theorem eqVal_iff {x y : Val} (hx : isNan x = false) (hy : isNan y = false) :
    eqVal x y = true ↔ ¬ fLess x y ∧ ¬ fLess y x := by
  rw [← ltVal_iff hx hy, ← ltVal_iff hy hx, eqVal, Bool.and_eq_true, Bool.not_eq_true', Bool.not_eq_true', Bool.not_eq_true,
    Bool.not_eq_true]

/-- The order in which -0 is before +0 (11 R286). -/
theorem ltVal_or_signs_iff {x y : Val} (hx : isNan x = false) (hy : isNan y = false) :
    (ltVal x y || (eqVal x y && signOf x && !signOf y)) = true ↔ fBefore x y := by
  simp only [Bool.or_eq_true, Bool.and_eq_true, Bool.not_eq_true', ltVal_iff hx hy, eqVal_iff hx hy, fBefore]
  tauto

/-! ### VFMIN and VFMAX (11 R286) -/

/-- The code picked and the flag: the five cases of R286 decide both. -/
theorem fminmax_eq {f : Fmt} {mx : Bool} {a b c : Nat} {x y : Val} (hx : decodeBase f a = x) (hy : decodeBase f b = y)
    (both : isNan x = true → isNan y = true → some c = fmtNan f)
    (left : isNan x = true → isNan y = false → c = b)
    (right : isNan x = false → isNan y = true → c = a)
    (before : isNan x = false → isNan y = false → fBefore x y → c = if mx then b else a)
    (after : isNan x = false → isNan y = false → ¬ fBefore x y → c = if mx then a else b) :
    fminmax f mx a b = (c, if isSig x || isSig y then 1 else 0) := by
  have flag : (if isSig x || isSig y then fNV else 0) = if isSig x || isSig y then 1 else 0 := rfl
  unfold fminmax
  dsimp only
  rw [hx, hy, flag]
  cases nx : isNan x with
  | true =>
    cases ny : isNan y with
    | true => simp [← both nx ny]
    | false => simp [left nx ny]
  | false =>
    cases ny : isNan y with
    | true => simp [right nx ny]
    | false =>
      have order := ltVal_or_signs_iff nx ny
      by_cases less : fBefore x y
      · rw [order.mpr less, before nx ny less]
        cases mx <;> rfl
      · rw [Bool.eq_false_iff.mpr (mt order.mp less), after nx ny less]
        cases mx <;> rfl

theorem fminmax_lt {f : Fmt} {n : Nat} (mx : Bool) {a b : Nat} (ha : a < 2 ^ n) (hb : b < 2 ^ n) (hn : (fmtNan f).getD 0 < 2 ^ n) :
    (fminmax f mx a b).1 < 2 ^ n := by
  unfold fminmax
  dsimp only
  split
  · exact hn
  · split
    · exact hb
    · split
      · exact ha
      · dsimp only
        split
        · exact ha
        · exact hb

variable {s : State}

/-- VFMIN and VFMAX are lane-wise with the codes and flags of `fminmax`. -/
theorem floatLanes_fminmax (h : s.issuing) {i : Instr} {p : Pred} {ty : ETy} {d a : VReg} {y : VSrc} (mx : Bool) (hty : floatTy ty)
    (hi : exec i s = .next (s.floatwise p ty.pair d (s.g.pick2 mx ty a y))) {r : Res}
    (hr : ∀ l k, fminmax (fmtOf ty) mx (elemOf s ty a l k) (srcElem s ty y l k) = r l k) : FloatLanes s i p ty d r := by
  obtain rfl : (fun l k => fminmax (fmtOf ty) mx (elemOf s ty a l k) (srcElem s ty y l k)) = r := funext fun l => funext fun k => hr l k
  refine floatLanes_of_floatwise h hi fun l k => fminmax_lt mx (elemAt_lt ty _ k) (elemAt_lt ty _ k) ?_
  rw [← fmtBits_fmtOf hty]
  exact fmtNan_lt (aFormat_fmtOf hty)

/-! ### VFCMP (11 R287) -/

theorem fcmp_iff (c : FCmp) (x y : Val) : (fcmp c x y).1 = true ↔ fCmpHolds c x y := by
  cases un : isNan x || isNan y with
  | true =>
    have unordered : isNan x = true ∨ isNan y = true := (Bool.or_eq_true _ _).mp un
    cases c <;> simp [fcmp, fCmpHolds, un, unordered]
  | false =>
    obtain ⟨nx, ny⟩ := Bool.or_eq_false_iff.mp un
    have lt := ltVal_iff nx ny
    have gt := ltVal_iff ny nx
    have eq := eqVal_iff nx ny
    cases c <;> simp [fcmp, fCmpHolds, nx, ny, lt, gt, eq, ← Bool.not_eq_true]
    tauto

theorem fcmp_flags (c : FCmp) (x y : Val) :
    (fcmp c x y).2 = if (ordered c && (isNan x || isNan y)) || (isSig x || isSig y) then 1 else 0 := by
  cases c <;> simp [fcmp, ordered, fNV]

/-- The one flag that a comparison may raise is NV. -/
theorem fcmp_flags_testBit (c : FCmp) (x y : Val) (b : Nat) : (fcmp c x y).2.testBit b = true ↔
    b = 0 ∧ ((if isSig x || isSig y then 1 else 0) = 1 ∨ (ordered c = true ∧ (isNan x = true ∨ isNan y = true))) := by
  have bit (P : Bool) : (if P then 1 else 0 : Nat).testBit b = true ↔ b = 0 ∧ P = true := by
    cases P <;> simp [Nat.testBit_one_eq_true_iff_self_eq_zero]
  have one (P : Bool) : (if P then 1 else 0) = 1 ↔ P = true := by cases P <;> simp
  rw [fcmp_flags, bit, one, Bool.or_eq_true, Bool.and_eq_true, Bool.or_eq_true, or_comm]

/-- The write of a mask result: none where no lane is selected (11 R278). -/
def maskWrites (k : KReg) (m : Mask) (f : Nat → Bool) : List RegWrite :=
  if m = 0 then [] else [.k k (maskOf fun l => m.getLsbD l && f l)]

theorem State.putK_eq (s : State) (k : KReg) (m : Mask) (f : Nat → Bool) : s.putK k m f = s.wrs (maskWrites k m f) := by
  unfold State.putK maskWrites
  split <;> rfl

theorem maskWrites_inside (k : KReg) (m : Mask) (f : Nat → Bool) : ∀ x ∈ maskWrites k m f, x.inside { k := [k] } := by
  unfold maskWrites
  split <;> simp [RegWrite.inside]

theorem State.flagged_kreg (h : s.issuing) (k : KReg) (hk : k ≠ 0) (m : Mask) (f : Nat → Bool) (fl : Nat) :
    (s.flagged (maskWrites k m f) fl).g.kreg k = if m = 0 then s.g.kreg k else maskOf fun l => m.getLsbD l && f l := by
  rw [State.flagged_g h, Group.setPath_kreg', Group.raise_kreg', maskWrites]
  split
  · rfl
  · simp only [Group.applyAll, List.foldl_cons, List.foldl_nil, Group.apply, Group.setK_kreg, true_and, if_pos hk]

theorem floats_vfcmp (h : s.issuing) (p : Pred) (ty : ETy) (k : KReg) (hk : k ≠ 0) (a : VReg) (y : VSrc) (cond : FCmp) :
    Floats s (.vfcmp p cond ty k a y)
      (fun b => b = 0 ∧ ∃ l, l < 32 ∧ (s.sel p).getLsbD l = true ∧
        ((if isSig (fElem s ty a l 0) || isSig (fSrc s ty y l 0) then 1 else 0) = 1 ∨
          (ordered cond = true ∧ (isNan (fElem s ty a l 0) = true ∨ isNan (fSrc s ty y l 0) = true))))
      { k := [k] } fun t =>
        (s.sel p = 0 → t.g.kreg k = s.g.kreg k) ∧
        (s.sel p ≠ 0 → ∀ l, l < 32 → ((t.g.kreg k).getLsbD l = true ↔
          (s.sel p).getLsbD l = true ∧ fCmpHolds cond (fElem s ty a l 0) (fSrc s ty y l 0))) := by
  have next : exec (.vfcmp p cond ty k a y) s =
      .next ((s.wrs (maskWrites k (s.sel p) fun l => (fcmp cond (fElem s ty a l 0) (fSrc s ty y l 0)).1)).retireFlags
        ((lanesOf (s.sel p)).foldl (fun f l => f ||| (fcmp cond (fElem s ty a l 0) (fSrc s ty y l 0)).2) 0) 8) := by
    rw [← State.putK_eq]
    rfl
  refine floats_of_wrs h next (maskWrites_inside _ _ _) (fun b _ => ?_) ⟨fun empty => ?_, fun chosen l hl => ?_⟩
  · rw [testBit_foldl_or, Nat.zero_testBit, Bool.false_or, List.any_eq_true]
    simp only [mem_lanesOf, fcmp_flags_testBit]
    constructor
    · rintro ⟨l, ⟨hl, on⟩, b0, up⟩
      exact ⟨b0, l, hl, on, up⟩
    · rintro ⟨b0, l, hl, on, up⟩
      exact ⟨l, ⟨hl, on⟩, b0, up⟩
  · rw [State.flagged_kreg h k hk, if_pos empty]
  · rw [State.flagged_kreg h k hk, if_neg chosen, maskOf_getLsbD _ hl, Bool.and_eq_true, fcmp_iff]

/-! ### VFCLASS (11 R288) -/

/-- The class of a value of a format: 0 and 1 for NaNs, 2 to 9 for the others in their order. -/
def classOf (f : Fmt) : Val → Nat
  | .nan sig => if sig then 0 else 1
  | .inf g => if g then 2 else 9
  | .fin g m _ _ =>
    if m = 0 then (if g then 5 else 6) else if m < 2 ^ (fmtPrec f - 1) then (if g then 4 else 7) else (if g then 3 else 8)

theorem fclass_eq (f : Fmt) (c : Nat) : fclass f c = 2 ^ classOf f (decodeBase f c) := by
  unfold fclass
  cases decodeBase f c with
  | nan sig => cases sig <;> rfl
  | inf g => cases g <;> rfl
  | fin g m e st =>
    dsimp only [classOf]
    split
    · cases g <;> rfl
    · split <;> cases g <;> rfl

theorem classOf_le (f : Fmt) (v : Val) : classOf f v ≤ 9 := by
  cases v with
  | nan sig => cases sig <;> simp [classOf]
  | inf g => cases g <;> simp [classOf]
  | fin g m e st =>
    dsimp only [classOf]
    split
    · cases g <;> simp
    · split <;> cases g <;> simp

/-- A subnormal element is one below the least normal number. -/
theorem lt_two_pow_prec_iff {ty : ETy} (hty : floatTy ty) {c : Nat} (hc : c < 2 ^ ty.elemBits) {g st : Bool} {m : Nat} {e : Int}
    (h : decodeBase (fmtOf ty) c = .fin g m e st) :
    m < 2 ^ (fmtPrec (fmtOf ty) - 1) ↔ (m : ℚ) * 2 ^ e < 2 ^ fmtEmin (fmtOf ty) := by
  obtain ⟨mag, -, -, rfl, rfl, -⟩ := decodeBase_fmtOf_fin hty hc h
  exact (magValue_lt_emin_iff _ mag).symm

/-- Instructions that raise no flag move on without a trap. -/
theorem State.wrs_retireFlags_zero (h : s.issuing) (l : List RegWrite) : (s.wrs l).retireFlags 0 8 = (s.wrs l).retire 8 := by
  have quiet : ¬ s.g.trapping 0 = true := by
    rw [Group.trapping_iff]
    rintro ⟨b, -, up, -⟩
    exact absurd up (by simp)
  have unchanged (g : Group) : g.raise 0 = g := congrArg (fun v => { g with fpcsr := v }) g.raise_no_flag
  rw [State.wrs_retireFlags h, if_neg quiet, State.flagged_eq h, State.wrs_retire h]
  simp only [unchanged]

theorem laneFlags_eq_zero {m : Mask} {f : Nat → Nat × Nat} (h : ∀ l, (f l).2 = 0) : laneFlags m f = 0 := by
  refine Nat.eq_of_testBit_eq fun b => ?_
  rw [Nat.zero_testBit, Bool.eq_false_iff, ne_eq, laneFlags_testBit]
  rintro ⟨l, -, -, up⟩
  rw [h l, Nat.zero_testBit] at up
  exact Bool.false_ne_true up

theorem packFlags_eq_zero {ty : ETy} {f : Nat → Nat × Nat} (h : ∀ i, (f i).2 = 0) : (packFlags ty f).2 = 0 := by
  refine Nat.eq_of_testBit_eq fun b => ?_
  rw [Nat.zero_testBit, Bool.eq_false_iff, ne_eq, packFlags_testBit]
  rintro ⟨i, -, up⟩
  rw [h i, Nat.zero_testBit] at up
  exact Bool.false_ne_true up

theorem exec_vfclass (h : s.issuing) (p : Pred) (ty : ETy) (d a : VReg) : exec (.vfclass p ty d a) s =
    .next ((s.putV false d (s.sel p) fun l => packElems ty fun i => 2 ^ classOf (fmtOf ty) (fElem s ty a l i)).retire 8) := by
  have unfolded : exec (.vfclass p ty d a) s =
      .next (s.floatwise p false d fun l => packFlags ty fun i => (fclass (fmtOf ty) (elemOf s ty a l i), 0)) := rfl
  have no_flag : (laneFlags (s.sel p) fun l => packFlags ty fun i => (fclass (fmtOf ty) (elemOf s ty a l i), 0)) = 0 :=
    laneFlags_eq_zero fun l => packFlags_eq_zero fun i => rfl
  rw [unfolded, State.floatwise, no_flag, State.putV, State.wrs_retireFlags_zero h]
  simp only [packFlags_fst, fclass_eq]
  rfl

/-- The class masks of a lane lie in a single register, under f64 as well. -/
theorem elemAt_classes {ty : ETy} (hty : floatTy ty) {c : Nat → Nat} (hc : ∀ i, c i ≤ 9) {i : Nat} (hi : i < elemCount ty) :
    elemAt ty (packElems ty (fun i => 2 ^ c i) % 2 ^ (if false = true then 64 else 32)) i = 2 ^ c i := by
  have small (i : Nat) : 2 ^ c i < 2 ^ 10 := Nat.pow_lt_pow_right (by decide) (by have := hc i; omega)
  have fits : 2 ^ c i % 2 ^ ty.elemBits = 2 ^ c i := by
    refine Nat.mod_eq_of_lt ((small i).trans_le (Nat.pow_le_pow_right (by decide) ?_))
    rcases hty with rfl | rfl | rfl | rfl | rfl | rfl <;> decide
  have single : packElems ty (fun i => 2 ^ c i) < 2 ^ 32 := by
    cases wide : ty.pair with
    | false =>
      have bound := packElems_lt ty fun i => 2 ^ c i
      rwa [wide] at bound
    | true =>
      obtain rfl : ty = .f64 := by
        revert wide
        rcases hty with rfl | rfl | rfl | rfl | rfl | rfl <;> decide
      have one : packElems .f64 (fun i => 2 ^ c i) = 2 ^ c 0 % 2 ^ 64 := by simp [packElems, elemCount, ETy.elemBits]
      rw [one]
      exact (Nat.mod_le _ _).trans_lt ((small 0).trans (by decide))
  rw [if_neg Bool.false_ne_true, Nat.mod_eq_of_lt single, elemAt_packElems ty _ hi, fits]

theorem ends_vfclass (h : s.issuing) (p : Pred) {ty : ETy} (hty : floatTy ty) (d a : VReg) : Ends (.vfclass p ty d a) s fun t =>
    (∀ l, l < 32 → (s.sel p).getLsbD l = true → ∀ i, i < elemCount ty →
      elemAt ty (t.g.laneOf false d l) i = 2 ^ classOf (fmtOf ty) (fElem s ty a l i)) ∧
    (∀ l, l < 32 → (s.sel p).getLsbD l = false → t.g.laneOf false d l = s.g.laneOf false d l) ∧
    s.Frame t { v := [d] } ∧ t.g.fpcsr = s.g.fpcsr ∧ t.p = s.p.past 8 := by
  obtain ⟨lanes, frame, past⟩ := State.putV_retire h false d (s.sel p)
    (fun l => packElems ty fun i => 2 ^ classOf (fmtOf ty) (fElem s ty a l i)) 8
  refine ⟨_, exec_vfclass h p ty d a, fun l hl on i hi => ?_, fun l hl off => ?_, frame, frame.kept.status rfl, past⟩
  · have lane := lanes l hl
    rw [if_pos on] at lane
    rw [lane]
    exact elemAt_classes hty (fun i => classOf_le _ _) hi
  · have lane := lanes l hl
    rwa [if_neg (by rw [off]; exact Bool.false_ne_true)] at lane

end Sys2Proof.Machine
end

section
/-! PROOF. Rounding to an integer (08 R203): what `roundInt` gives is the integer that R203 names, the only one; and a number
that a magnitude code stands for rounds to that code. -/

namespace Sys2Proof.Machine

open Sys2Proof.Claim

/-! ### round_int -/

/-- Whether R203 takes the next integer above the whole part. -/
def roundsUp (rm : Rm) (s odd inexact above tie : Bool) : Bool :=
  match rm with
  | .rne => above || (tie && odd)
  | .rna => above || tie
  | .rtz => false
  | .rdn => s && inexact
  | .rup => !s && inexact
  | .dyn => false

section Fraction

variable {n : Nat} {q : ℚ} {inexact above tie : Bool}

/-- The nearest integer, by the half that the fraction lies in. -/
theorem nearest_of_fraction (low : (n : ℚ) ≤ q) (high : q < n + 1) (ha : above = true ↔ (n : ℚ) + 1 / 2 < q)
    (ht : tie = true ↔ q = n + 1 / 2) :
    (above = true ∧ |q - (n + 1 : Nat)| < 1 / 2) ∨ (above = false ∧ tie = false ∧ |q - n| < 1 / 2) ∨
      (above = false ∧ tie = true ∧ q = n + 1 / 2 ∧ |q - (n + 1 : Nat)| = 1 / 2 ∧ |q - n| = 1 / 2) := by
  have down : |q - n| = q - n := abs_of_nonneg (by linarith)
  have up : |q - (n + 1 : Nat)| = n + 1 - q := by
    rw [Nat.cast_add_one, abs_sub_comm, abs_of_pos (by linarith)]
  rw [down, up]
  rcases lt_trichotomy q (n + 1 / 2) with below | half | beyond
  · exact .inr (.inl ⟨Bool.eq_false_iff.mpr (mt ha.mp below.le.not_gt), Bool.eq_false_iff.mpr (mt ht.mp below.ne), by linarith⟩)
  · exact .inr (.inr ⟨Bool.eq_false_iff.mpr (mt ha.mp half.le.not_gt), ht.mpr half, half, by linarith, by linarith⟩)
  · exact .inl ⟨ha.mpr beyond, by linarith⟩

theorem ceil_of_fraction (low : (n : ℚ) ≤ q) (high : q < n + 1) (hi : inexact = true ↔ (n : ℚ) ≠ q) :
    q ≤ (if inexact then n + 1 else n : Nat) ∧ ((if inexact then n + 1 else n : Nat) : ℚ) < q + 1 := by
  cases inexact with
  | true =>
    have above := lt_of_le_of_ne low (hi.mp rfl)
    rw [if_pos rfl, Nat.cast_add_one]
    exact ⟨high.le, by linarith⟩
  | false =>
    have exact_q : (n : ℚ) = q := not_not.mp (mt hi.mpr Bool.false_ne_true)
    rw [if_neg Bool.false_ne_true, exact_q]
    exact ⟨le_rfl, by linarith⟩

/-- The whole part of a nonnegative number, or the next integer, as the fraction and the mode decide (R203). -/
theorem roundsTo_roundsUp {rm : Rm} (hrm : rm ≠ .dyn) (s : Bool) (low : (n : ℚ) ≤ q) (high : q < n + 1)
    (hi : inexact = true ↔ (n : ℚ) ≠ q) (ha : above = true ↔ (n : ℚ) + 1 / 2 < q) (ht : tie = true ↔ q = n + 1 / 2) :
    RoundsTo rm s q (if roundsUp rm s (n % 2 == 1) inexact above tie then n + 1 else n) := by
  have near := nearest_of_fraction low high ha ht
  have ceil := ceil_of_fraction low high hi
  cases rm with
  | rne =>
    rcases near with ⟨rfl, near⟩ | ⟨rfl, rfl, near⟩ | ⟨rfl, rfl, -, up, down⟩
    · exact ⟨near.le, fun half => absurd half near.ne⟩
    · exact ⟨near.le, fun half => absurd half near.ne⟩
    · rcases Nat.mod_two_eq_zero_or_one n with even | odd
      · simpa [RoundsTo, roundsUp, even] using down.le
      · have even : (n + 1) % 2 = 0 := by omega
        simpa [RoundsTo, roundsUp, odd, even] using up.le
  | rna =>
    rcases near with ⟨rfl, near⟩ | ⟨rfl, rfl, near⟩ | ⟨rfl, rfl, half, up, -⟩
    · exact ⟨near.le, fun half => absurd half near.ne⟩
    · exact ⟨near.le, fun half => absurd half near.ne⟩
    · refine ⟨up.le, fun _ => ?_⟩
      rw [half]
      exact_mod_cast (by norm_num : (n : ℚ) + 1 / 2 < n + 1)
  | rtz => exact ⟨low, high⟩
  | rdn =>
    cases s with
    | false => exact ⟨low, high⟩
    | true => exact ceil
  | rup =>
    cases s with
    | false => exact ceil
    | true => exact ⟨low, high⟩
  | dyn => exact absurd rfl hrm

end Fraction

/-- Two integers a half from one number are neighbours, with the number halfway between them. -/
theorem halfway_of_near {q : ℚ} {n k : Nat} (hn : |q - n| ≤ 1 / 2) (hk : |q - k| ≤ 1 / 2) (lt : n < k) : k = n + 1 ∧ q = n + 1 / 2 := by
  have below := (abs_le.mp hn).2
  have above := (abs_le.mp hk).1
  have next : (n : ℚ) + 1 ≤ k := by exact_mod_cast lt
  have least : (k : ℚ) = (n + 1 : Nat) := by push_cast; linarith
  exact ⟨by exact_mod_cast least, by linarith⟩

theorem eq_of_near {P : Nat → Prop} {q : ℚ} (split : ∀ n : Nat, ¬ (q = n + 1 / 2 ∧ P n ∧ P (n + 1))) {n k : Nat}
    (hn : |q - n| ≤ 1 / 2) (hk : |q - k| ≤ 1 / 2) (pn : |q - n| = 1 / 2 → P n) (pk : |q - k| = 1 / 2 → P k) : n = k := by
  have half_below {i : Nat} (h : q = i + 1 / 2) : |q - i| = 1 / 2 := by rw [h, add_sub_cancel_left]; norm_num
  have half_above {i : Nat} (h : q = i + 1 / 2) : |q - (i + 1 : Nat)| = 1 / 2 := by rw [h]; push_cast; norm_num
  rcases lt_trichotomy n k with lt | rfl | gt
  · obtain ⟨rfl, half⟩ := halfway_of_near hn hk lt
    exact absurd ⟨half, pn (half_below half), pk (half_above half)⟩ (split n)
  · rfl
  · obtain ⟨rfl, half⟩ := halfway_of_near hk hn gt
    exact absurd ⟨half, pk (half_below half), pn (half_above half)⟩ (split k)

theorem eq_of_floor {q : ℚ} {n k : Nat} (hn : (n : ℚ) ≤ q ∧ q < n + 1) (hk : (k : ℚ) ≤ q ∧ q < k + 1) : n = k := by
  have lt : (n : ℚ) < (k + 1 : Nat) := by push_cast; linarith [hn.1, hk.2]
  have gt : (k : ℚ) < (n + 1 : Nat) := by push_cast; linarith [hk.1, hn.2]
  have := Nat.cast_lt.mp lt
  have := Nat.cast_lt.mp gt
  omega

theorem eq_of_ceil {q : ℚ} {n k : Nat} (hn : q ≤ n ∧ (n : ℚ) < q + 1) (hk : q ≤ k ∧ (k : ℚ) < q + 1) : n = k := by
  have lt : (n : ℚ) < (k + 1 : Nat) := by push_cast; linarith [hn.2, hk.1]
  have gt : (k : ℚ) < (n + 1 : Nat) := by push_cast; linarith [hk.2, hn.1]
  have := Nat.cast_lt.mp lt
  have := Nat.cast_lt.mp gt
  omega

/-- R203 names one integer. -/
theorem roundsTo_unique {rm : Rm} {s : Bool} {q : ℚ} {n k : Nat} (hn : RoundsTo rm s q n) (hk : RoundsTo rm s q k) : n = k := by
  cases rm with
  | rne =>
    refine eq_of_near (P := fun n => n % 2 = 0) (fun n => ?_) hn.1 hk.1 hn.2 hk.2
    rintro ⟨-, even, odd⟩
    omega
  | rna =>
    refine eq_of_near (P := fun n : Nat => q < n) (fun n => ?_) hn.1 hk.1 hn.2 hk.2
    rintro ⟨half, below, -⟩
    linarith
  | rtz => exact eq_of_floor hn hk
  | rdn =>
    cases s with
    | false => exact eq_of_floor hn hk
    | true => exact eq_of_ceil hn hk
  | rup =>
    cases s with
    | false => exact eq_of_ceil hn hk
    | true => exact eq_of_floor hn hk
  | dyn => exact hn.elim

theorem roundsTo_natCast {rm : Rm} (hrm : rm ≠ .dyn) (s : Bool) (n : Nat) : RoundsTo rm s n n := by
  have whole := roundsTo_roundsUp (n := n) (q := n) (inexact := false) (above := false) (tie := false) hrm s le_rfl
    (lt_add_one _) (by simp) (by simp) (by simp)
  have stays : roundsUp rm s (n % 2 == 1) false false false = false := by cases rm <;> simp [roundsUp]
  rwa [stays, if_neg Bool.false_ne_true] at whole

/-- The parts that the model takes of a number m × 2^-j: its whole part, the rest, and half a unit. -/
theorem roundsTo_parts {rm : Rm} (hrm : rm ≠ .dyn) (s : Bool) (m : Nat) {j : Nat} (hj : 0 < j) :
    RoundsTo rm s (m / 2 ^ j) (if roundsUp rm s (m / 2 ^ j % 2 == 1) (m % 2 ^ j != 0) (decide (2 ^ (j - 1) < m % 2 ^ j))
      (m % 2 ^ j == 2 ^ (j - 1)) then m / 2 ^ j + 1 else m / 2 ^ j : Nat) := by
  have unit : (0 : ℚ) < 2 ^ j := by positivity
  have half : (1 / 2 : ℚ) = (2 ^ (j - 1) : Nat) / 2 ^ j := by
    rw [eq_div_iff unit.ne', Nat.cast_pow, Nat.cast_ofNat, ← Nat.sub_add_cancel hj, pow_succ, Nat.add_sub_cancel]
    ring
  have rest_lt : ((m % 2 ^ j : Nat) : ℚ) < 2 ^ j := by exact_mod_cast Nat.mod_lt m (Nat.two_pow_pos j)
  have value : (m : ℚ) / 2 ^ j = (m / 2 ^ j : Nat) + (m % 2 ^ j : Nat) / 2 ^ j := by
    rw [div_eq_iff unit.ne', add_mul, div_mul_cancel₀ _ unit.ne']
    exact_mod_cast (Nat.div_add_mod' m (2 ^ j)).symm
  rw [value]
  refine roundsTo_roundsUp hrm s (le_add_of_nonneg_right (by positivity)) (add_lt_add_right ((div_lt_one unit).mpr rest_lt) _) ?_ ?_ ?_
  · rw [bne_iff_ne, not_iff_not, left_eq_add, div_eq_zero_iff, Nat.cast_eq_zero, or_iff_left unit.ne']
  · rw [decide_eq_true_iff, half, add_lt_add_iff_left, div_lt_div_iff_of_pos_right unit, Nat.cast_lt]
  · rw [beq_iff_eq, half, add_right_inj, div_left_inj' unit.ne', Nat.cast_inj]

/-- A number below one quarter has the whole part 0, and no fraction of a half or more. -/
theorem roundsTo_tiny {rm : Rm} (hrm : rm ≠ .dyn) (s : Bool) {m j : Nat} (tiny : m.log2 + 2 < j) :
    RoundsTo rm s (m / 2 ^ j) (if roundsUp rm s (0 % 2 == 1) (m != 0) false false then 1 else 0 : Nat) := by
  have unit : (0 : ℚ) < 2 ^ j := by positivity
  have quarter : m * 2 < 2 ^ j := by
    have bound : m < 2 ^ (m.log2 + 1) := Nat.lt_log2_self
    calc m * 2 < 2 ^ (m.log2 + 1) * 2 := by omega
      _ = 2 ^ (m.log2 + 2) := (Nat.pow_succ ..).symm
      _ ≤ 2 ^ j := Nat.pow_le_pow_right (by decide) tiny.le
  have below : (m : ℚ) / 2 ^ j < 1 / 2 := by
    rw [div_lt_div_iff₀ unit two_pos, one_mul]
    exact_mod_cast quarter
  have positive : (0 : ℚ) ≤ m / 2 ^ j := by positivity
  refine roundsTo_roundsUp (n := 0) hrm s (by simpa using positive) (by push_cast; linarith) ?_ ?_ ?_
  · rw [bne_iff_ne, not_iff_not, Nat.cast_zero, eq_comm (a := (0 : ℚ)), div_eq_zero_iff, or_iff_left unit.ne', Nat.cast_eq_zero]
  · exact iff_of_false Bool.false_ne_true (by push_cast; linarith)
  · exact iff_of_false Bool.false_ne_true (by push_cast; linarith)

/-- `roundInt` is round_int of R203 for exact numbers. -/
theorem roundInt_roundsTo {rm : Rm} (hrm : rm ≠ .dyn) (s : Bool) (m : Nat) (k : Int) :
    RoundsTo rm s (m * 2 ^ k) (roundInt rm s m k false).1 := by
  unfold roundInt
  by_cases whole : 0 ≤ k
  · obtain ⟨i, rfl⟩ := Int.eq_ofNat_of_zero_le whole
    rw [if_pos whole]
    exact_mod_cast roundsTo_natCast hrm s (m * 2 ^ i)
  · obtain ⟨j, rfl⟩ : ∃ j : Nat, k = -j := ⟨(-k).toNat, by omega⟩
    have value : (m : ℚ) * 2 ^ (-(j : Int)) = m / 2 ^ j := by rw [zpow_neg, zpow_natCast, div_eq_mul_inv]
    have exponent : (- -(j : Int)).toNat = j := by omega
    rw [if_neg whole, value, exponent]
    by_cases tiny : m.log2 + 2 < j
    · simp only [if_pos tiny]
      exact roundsTo_tiny hrm s tiny
    · simp only [if_neg tiny, Bool.and_false, Bool.or_false, Bool.not_false, Bool.and_true]
      exact roundsTo_parts hrm s m (by omega)

/-! ### Numbers that have a code -/

/-- The whole logarithm of a number. -/
theorem log2_zpow_le {n : Nat} (h : n ≠ 0) (k : Int) : (2 : ℚ) ^ ((n.log2 : Int) + k) ≤ n * 2 ^ k := zpow_le_mul k (Nat.log2_self_le h)

theorem lt_log2_zpow (n : Nat) (k : Int) : (n : ℚ) * 2 ^ k < 2 ^ ((n.log2 : Int) + k + 1) := by
  have bound := mul_zpow_lt k (Nat.lt_log2_self (n := n))
  rwa [Nat.cast_add_one, add_right_comm] at bound

/-- The exponent that rounding chooses for a magnitude code's value is the code's own. -/
theorem max_log2_emin {f : Fmt} {mag n : Nat} {k : Int} (hn : n ≠ 0)
    (value : (n : ℚ) * 2 ^ k = magSig f mag * 2 ^ magExp f mag) :
    max ((n.log2 : Int) + k) (fmtEmin f) = fmtEmin f + magStep f mag := by
  have lower := log2_zpow_le hn k
  have upper := lt_log2_zpow n k
  rw [value] at lower upper
  by_cases low : mag < 2 ^ (fmtPrec f - 1)
  · have subnormal := (magValue_lt_emin_iff f mag).mpr ((magSig_lt_iff f mag).mpr low)
    have below := (zpow_lt_zpow_iff_right₀ one_lt_two).mp (lower.trans_lt subnormal)
    rw [magStep_of_low low]
    omega
  · have normal := zpow_le_mul (magExp f mag) (Nat.not_lt.mp (mt (magSig_lt_iff f mag).mp low))
    have next := mul_zpow_lt (magExp f mag) (magSig_lt f mag)
    have above := (zpow_lt_zpow_iff_right₀ one_lt_two).mp (normal.trans_lt upper)
    have below := (zpow_lt_zpow_iff_right₀ one_lt_two).mp (lower.trans_lt next)
    have place : magExp f mag = fmtEmin f + magStep f mag - (fmtPrec f - 1 : Nat) := rfl
    omega

/-- A number that a magnitude code stands for rounds to that code, in any mode, with its sign. -/
theorem cvt_of_code {f : Fmt} (hp : 1 ≤ fmtPrec f) (signed : fmtSigned f = true) (negZero : fmtNegZero f = true) {rm : Rm}
    (hrm : rm ≠ .dyn) (sat s : Bool) {mag n : Nat} {k : Int} (hm : mag ≤ fmtMax f)
    (value : (n : ℚ) * 2 ^ k = magSig f mag * 2 ^ magExp f mag) : (cvt f rm sat (.fin s n k false)).1 = signCode f s mag := by
  have power (e : Int) : (2 : ℚ) ^ e ≠ 0 := zpow_ne_zero e two_ne_zero
  have both_zero : n = 0 ↔ mag = 0 := by
    rw [← magSig_eq_zero_iff f mag, ← Nat.cast_eq_zero (R := ℚ), ← Nat.cast_eq_zero (R := ℚ), ← mul_eq_zero_iff_right (power k), value,
      mul_eq_zero_iff_right (power _)]
  unfold cvt
  dsimp only
  by_cases n0 : n = 0
  · rw [if_pos ⟨n0, rfl⟩, if_pos negZero, both_zero.mp n0]
  · have step := max_log2_emin n0 value
    have place : magExp f mag = fmtEmin f + magStep f mag - (fmtPrec f - 1 : Nat) := rfl
    have whole : (n : ℚ) * 2 ^ (k - (max ((n.log2 : Int) + k) (fmtEmin f) - (fmtPrec f : Int) + 1)) = magSig f mag := by
      rw [step, zpow_sub₀ two_ne_zero, mul_div_assoc', value, mul_div_assoc, ← zpow_sub₀ two_ne_zero, place]
      have same : fmtEmin f + magStep f mag - (fmtPrec f - 1 : Nat) - (fmtEmin f + magStep f mag - (fmtPrec f : Int) + 1) = 0 := by omega
      rw [same, zpow_zero, mul_one]
    have rounded := roundInt_roundsTo hrm s n (k - (max ((n.log2 : Int) + k) (fmtEmin f) - (fmtPrec f : Int) + 1))
    rw [whole] at rounded
    have significand := roundsTo_unique rounded (roundsTo_natCast hrm s _)
    have steps : (fmtEmin f + magStep f mag - fmtEmin f).toNat = magStep f mag := by omega
    rw [if_neg fun h => n0 h.1, signed, Bool.not_true, Bool.and_false, if_neg Bool.false_ne_true, significand, step, steps, magSig_add_step,
      if_neg (Nat.not_lt.mpr hm), if_neg (mt both_zero.mpr n0)]

/-! ### VFRND (11 R296) -/

theorem Group.roundMode_ne_dyn (g : Group) (rm : Rm) : g.roundMode rm ≠ .dyn := by
  have codes (n : Nat) : rmOfCode n ≠ .dyn := by
    unfold rmOfCode
    split <;> decide
  cases rm with
  | dyn => exact codes _
  | rne | rtz | rdn | rup | rna => simp [Group.roundMode]

theorem ratOf_abs (s : Bool) (m : Nat) (e : Int) (st : Bool) : |ratOf (.fin s m e st)| = m * 2 ^ e := by
  have positive : (0 : ℚ) ≤ m * 2 ^ e := by positivity
  rw [ratOf, abs_mul, abs_of_nonneg positive]
  cases s <;> simp

/-- A finite element rounds to the code of the integer that R203 names. -/
theorem rndF_of_fin {ty : ETy} (hty : floatTy ty) {rm : Rm} (hrm : rm ≠ .dyn) {c out k n : Nat} {g st : Bool} {e : Int}
    (hc : c < 2 ^ ty.elemBits) (hv : decodeBase (fmtOf ty) c = .fin g n e st) (fits : out < 2 ^ ty.elemBits)
    (integer : RoundsTo rm g (n * (2 : ℚ) ^ e) k) (finite : exactFin (decodeBase (fmtOf ty) out))
    (sign : signOf (decodeBase (fmtOf ty) out) = g) (value : |ratOf (decodeBase (fmtOf ty) out)| = k) :
    rndF (fmtOf ty) rm c = (out, 0) := by
  obtain ⟨mag', -, -, -, -, rfl⟩ := decodeBase_fmtOf_fin hty hc hv
  have rounded : (roundInt rm g n e false).1 = k := roundsTo_unique (roundInt_roundsTo hrm g n e) integer
  unfold rndF
  rw [hv]
  dsimp only
  rw [rounded]
  cases decoded : decodeBase (fmtOf ty) out with
  | nan sig => exact absurd finite (by rw [decoded]; exact id)
  | inf s => exact absurd finite (by rw [decoded]; exact id)
  | fin s m e' st =>
    obtain ⟨mag, hm, code, rfl, rfl, rfl⟩ := decodeBase_fmtOf_fin hty fits decoded
    rw [decoded, ratOf_abs] at value
    rw [decoded, signOf] at sign
    obtain ⟨eb, fb, format, -⟩ := fmtOf_ieee hty
    have exactly : (cvt (fmtOf ty) rm false (.fin g k 0 false)).1 = signCode (fmtOf ty) g mag := by
      refine cvt_of_code ?_ ?_ ?_ hrm false g hm (by rw [zpow_zero, mul_one, value])
      · rw [format]; exact Nat.le_add_left 1 fb
      · rw [format]; rfl
      · rw [format]; rfl
    rw [exactly, code, sign]

theorem rndF_of_nan {f : Fmt} {rm : Rm} {c out : Nat} {sig : Bool} (hv : decodeBase f c = .nan sig) (canonical : some out = fmtNan f) :
    rndF f rm c = (out, if sig then 1 else 0) := by
  unfold rndF
  rw [hv]
  simp only [cvt, ← canonical]
  rfl

theorem rndF_of_inf {f : Fmt} {rm : Rm} {c : Nat} {g : Bool} (hv : decodeBase f c = .inf g) : rndF f rm c = (c, 0) := by
  unfold rndF
  rw [hv]

theorem rndF_lt {ty : ETy} (hty : floatTy ty) (rm : Rm) {c : Nat} (hc : c < 2 ^ ty.elemBits) : (rndF (fmtOf ty) rm c).1 < 2 ^ ty.elemBits := by
  unfold rndF
  split
  · exact cvt_fmtOf_lt hty _ _ _
  · exact hc
  · exact cvt_fmtOf_lt hty _ _ _

variable {s : State}

theorem floatLanes_vfrnd (h : s.issuing) (p : Pred) {ty : ETy} (hty : floatTy ty) (rm : Rm) (d a : VReg) {r : Res}
    (hr : ∀ l i, rndF (fmtOf ty) (s.g.roundMode rm) (elemOf s ty a l i) = r l i) : FloatLanes s (.vfrnd p ty rm d a) p ty d r := by
  obtain rfl : (fun l i => rndF (fmtOf ty) (s.g.roundMode rm) (elemOf s ty a l i)) = r := funext fun l => funext fun i => hr l i
  exact floatLanes_of_floatwise h rfl fun l i => rndF_lt hty _ (elemAt_lt ty _ i)

/-! ### VFTOI (08 R204, 11 R294) -/

theorem toInt_lt (w : Nat) (signed : Bool) (rm : Rm) (x : Val) : (toInt w signed rm x).1 < 2 ^ w := by
  have unit : 0 < 2 ^ w := Nat.two_pow_pos w
  have half : 2 ^ (w - 1) ≤ 2 ^ w := Nat.pow_le_pow_right (by decide) (Nat.sub_le w 1)
  have saturated (s : Bool) : (if s then (2 ^ w - if signed then 2 ^ (w - 1) else 0) % 2 ^ w
      else if signed then 2 ^ (w - 1) - 1 else 2 ^ w - 1) < 2 ^ w := by
    cases s with
    | false =>
      rw [if_neg Bool.false_ne_true]
      split <;> omega
    | true => exact Nat.mod_lt _ unit
  have either {c : Prop} [Decidable c] {x y : Nat × Nat} (hx : x.1 < 2 ^ w) (hy : y.1 < 2 ^ w) : (if c then x else y).1 < 2 ^ w := by
    split
    · exact hx
    · exact hy
  cases x with
  | nan sig => exact unit
  | inf s => exact saturated s
  | fin s m e st => exact either (saturated s) (either (saturated s) (Nat.mod_lt _ unit))

theorem floatLanes_vftoi (h : s.issuing) (p : Pred) (u : Bool) (ty : ETy) (rm : Rm) (d a : VReg) :
    FloatLanes s (.vftoi p u ty rm d a) p ty d
      (fun l i => toInt ty.elemBits (!u) (s.g.roundMode rm) (fElem s ty a l i)) :=
  floatLanes_of_floatwise h rfl fun _ _ => toInt_lt _ _ _ _

/-! ### VITOF (11 R295) -/

/-- An element's number, as a sign and a magnitude. -/
theorem eNum_sign_magnitude (ty : ETy) {x : Nat} (hx : x < 2 ^ ty.elemBits) :
    decide (eNum ty x < 0) = (etySigned ty && decide (2 ^ (ty.elemBits - 1) ≤ x)) ∧
      (eNum ty x).natAbs = if (etySigned ty && decide (2 ^ (ty.elemBits - 1) ≤ x)) = true then 2 ^ ty.elemBits - x else x := by
  unfold eNum
  cases etySigned ty with
  | false => simp
  | true =>
    rw [if_pos rfl, ← signedOf_eq_toInt, signedOf, Bool.true_and, Nat.mod_eq_of_lt hx]
    have room : ((2 ^ ty.elemBits : Nat) : Int) = 2 ^ ty.elemBits := by push_cast; rfl
    by_cases high : 2 ^ (ty.elemBits - 1) ≤ x
    · rw [if_neg (by omega)]
      simp [high]
      omega
    · rw [if_pos (by omega)]
      simp [high]

theorem floatLanes_vitof (h : s.issuing) (p : Pred) {bf : Bool} {ty f : ETy} (r : Rnd) (d a : VReg) (hf : floatTy f)
    (target : itofTy bf ty = f) (pair : ty.pair = f.pair) :
    FloatLanes s (.vitof p bf ty r d a) p f d fun l i =>
      once s (fmtOf f) r (.fin (decide (eNum ty (elemOf s ty a l i) < 0)) (eNum ty (elemOf s ty a l i)).natAbs 0 false, 0) := by
  subst target
  refine floatLanes_of_floatwise h ?_ fun l i => cvt_fmtOf_lt hf _ _ _
  have unfolded : exec (.vitof p bf ty r d a) s = .next (s.floatwise p ty.pair d (s.g.itof1 bf ty r a)) := rfl
  rw [unfolded, pair]
  congr 2
  funext l
  refine congrArg (packFlags _) (funext fun i => ?_)
  obtain ⟨sign, magnitude⟩ := eNum_sign_magnitude ty (elemAt_lt ty (s.g.laneOf ty.pair a l) i)
  rw [elemOf, sign, magnitude, once, Nat.or_zero]

end Sys2Proof.Machine
end

section
/-! PROOF. VFCVT (11 R292): the formats of its codes, the bits that its part reads and writes, and the bits that it keeps. -/

namespace Sys2Proof.Machine

open Sys2Proof.Claim

/-! ### A number with a field replaced -/

theorem setBits_testBit (v lo len x j : Nat) :
    (setBits v lo len x).testBit j = if lo ≤ j ∧ j < lo + len then x.testBit (j - lo) else v.testBit j := by
  have low : v % 2 ^ lo < 2 ^ lo := Nat.mod_lt _ (Nat.two_pow_pos lo)
  have field : x % 2 ^ len < 2 ^ len := Nat.mod_lt _ (Nat.two_pow_pos len)
  have parts : v = 2 ^ lo * (v / 2 ^ lo) + v % 2 ^ lo := (Nat.div_add_mod v (2 ^ lo)).symm
  have upper : v / 2 ^ lo = 2 ^ len * (v / 2 ^ lo / 2 ^ len) + bitsAt v lo len := (Nat.div_add_mod _ (2 ^ len)).symm
  have replaced : setBits v lo len x = 2 ^ lo * (2 ^ len * (v / 2 ^ lo / 2 ^ len) + x % 2 ^ len) + v % 2 ^ lo := by
    have whole : v = 2 ^ lo * (2 ^ len * (v / 2 ^ lo / 2 ^ len)) + bitsAt v lo len * 2 ^ lo + v % 2 ^ lo := by
      rw [Nat.mul_comm (bitsAt v lo len), ← Nat.mul_add, ← upper, ← parts]
    unfold setBits
    rw [Nat.mul_add, Nat.mul_comm (2 ^ lo) (x % 2 ^ len)]
    omega
  rw [replaced, Nat.testBit_two_pow_mul_add _ low]
  by_cases below : j < lo
  · rw [if_pos below, if_neg (by omega), Nat.testBit_mod_two_pow, decide_eq_true below, Bool.true_and]
  · rw [if_neg below, Nat.testBit_two_pow_mul_add _ field]
    by_cases within : j - lo < len
    · rw [if_pos within, if_pos (by omega), Nat.testBit_mod_two_pow, decide_eq_true within, Bool.true_and]
    · rw [if_neg within, if_neg (by omega), Nat.testBit_div_two_pow, Nat.testBit_div_two_pow]
      congr 1
      omega

/-- Fields of equal width, written one after another from bit `lo` up, and their flags. -/
def setFields (lo w : Nat) (r : Nat → Nat × Nat) (old n : Nat) : Nat × Nat :=
  (List.range n).foldl (fun t i => (setBits t.1 (lo + w * i) w (r i).1, t.2 ||| (r i).2)) (old, 0)

theorem setFields_succ (lo w : Nat) (r : Nat → Nat × Nat) (old n : Nat) : setFields lo w r old (n + 1) =
    (setBits (setFields lo w r old n).1 (lo + w * n) w (r n).1, (setFields lo w r old n).2 ||| (r n).2) := by
  rw [setFields, List.range_succ, List.foldl_append]
  rfl

/-- The fields that have been written hold their codes. -/
theorem setFields_field {lo w : Nat} {r : Nat → Nat × Nat} (fits : ∀ i, (r i).1 < 2 ^ w) (old : Nat) {n i : Nat} (hi : i < n) :
    bitsAt (setFields lo w r old n).1 (lo + w * i) w = (r i).1 := by
  induction n with
  | zero => exact absurd hi (Nat.not_lt_zero i)
  | succ n ih =>
    refine Nat.eq_of_testBit_eq fun j => ?_
    rw [setFields_succ, bitsAt_testBit, setBits_testBit]
    by_cases within : j < w
    · rw [decide_eq_true within, Bool.true_and]
      rcases Nat.lt_succ_iff_lt_or_eq.mp hi with earlier | rfl
      · have before : w * (i + 1) ≤ w * n := Nat.mul_le_mul_left w earlier
        rw [Nat.mul_succ] at before
        rw [if_neg (by omega), ← ih earlier, bitsAt_testBit, decide_eq_true within, Bool.true_and]
      · rw [if_pos (by omega), Nat.add_sub_cancel_left]
    · rw [decide_eq_false within, Bool.false_and]
      exact (Nat.testBit_lt_two_pow ((fits i).trans_le (Nat.pow_le_pow_right (by decide) (Nat.not_lt.mp within)))).symm

/-- Every bit outside the fields is kept. -/
theorem setFields_outside (lo w : Nat) (r : Nat → Nat × Nat) (old n : Nat) {j : Nat} (hj : j < lo ∨ lo + w * n ≤ j) :
    (setFields lo w r old n).1.testBit j = old.testBit j := by
  induction n with
  | zero => rfl
  | succ n ih =>
    rw [Nat.mul_succ] at hj
    rw [setFields_succ, setBits_testBit, if_neg (by omega), ih (by omega)]

theorem setFields_flags (lo w : Nat) (r : Nat → Nat × Nat) (old n b : Nat) :
    (setFields lo w r old n).2.testBit b = true ↔ ∃ i, i < n ∧ (r i).2.testBit b = true := by
  induction n with
  | zero => simp [setFields]
  | succ n ih =>
    rw [setFields_succ, Nat.testBit_or, Bool.or_eq_true, ih]
    constructor
    · rintro (⟨i, hi, up⟩ | up)
      · exact ⟨i, hi.trans (Nat.lt_succ_self n), up⟩
      · exact ⟨n, Nat.lt_succ_self n, up⟩
    · rintro ⟨i, hi, up⟩
      rcases Nat.lt_succ_iff_lt_or_eq.mp hi with earlier | rfl
      · exact .inl ⟨i, earlier, up⟩
      · exact .inr up

/-! ### Formats and their places -/

/-- The widths that VFCVT knows (05 Table 5.5). -/
theorem cvtBits_cases (c : Byte) : cvtBits c = 0 ∨ cvtBits c = 4 ∨ cvtBits c = 8 ∨ cvtBits c = 16 ∨ cvtBits c = 32 ∨ cvtBits c = 64 := by
  unfold cvtBits
  split
  · simp
  · simp
  · simp
  · simp
  · simp
  · split <;> simp

/-- The codes that have a width: five of their own, and those of the formats binary8pP (05 Table 5.5). -/
theorem code_of_cvtBits_pos (c : Byte) (h : 0 < cvtBits c) : c = 0x01 ∨ c = 0x02 ∨ c = 0x03 ∨ c = 0x04 ∨ c = 0x10 ∨
    (0x20 ≤ c.toNat ∧ c.toNat % 8 ≠ 0 ∧ cvtBits c = 8) := by
  have code (n : Nat) (hn : n < 256) (e : c.toNat = n) : c = BitVec.ofNat 8 n :=
    BitVec.eq_of_toNat_eq (by rw [e, BitVec.toNat_ofNat, Nat.mod_eq_of_lt hn])
  unfold cvtBits at h ⊢
  split at h
  next e => exact .inl (code 1 (by decide) e)
  next e => exact .inr (.inl (code 2 (by decide) e))
  next e => exact .inr (.inr (.inl (code 3 (by decide) e)))
  next e => exact .inr (.inr (.inr (.inl (code 4 (by decide) e))))
  next e => exact .inr (.inr (.inr (.inr (.inl (code 16 (by decide) e)))))
  next =>
    split at h
    next p8 =>
      have inside := p8
      rw [Bool.and_eq_true, Bool.and_eq_true, decide_eq_true_eq, bne_iff_ne] at inside
      exact .inr (.inr (.inr (.inr (.inr ⟨inside.1.1, inside.2, if_pos p8⟩))))
    next => exact absurd h (lt_irrefl 0)

/-- From 0x20 on a code names a format binary8pP. -/
theorem fmtOfCode_p8 (c : Byte) (h : 0x20 ≤ c.toNat) :
    fmtOfCode c = .p8 (c.toNat % 8) (c.toNat / 8 % 2 == 0) (c.toNat / 16 % 2 == 0) := by
  unfold fmtOfCode
  split
  next e => exact absurd h (by omega)
  next e => exact absurd h (by omega)
  next e => exact absurd h (by omega)
  next e => exact absurd h (by omega)
  next e => exact absurd h (by omega)
  next => rfl

/-- A format code with a width names a format of that width. -/
theorem fmtOfCode_spec (c : Byte) (h : 0 < cvtBits c) : aFormat (fmtOfCode c) ∧ fmtBits (fmtOfCode c) = cvtBits c := by
  obtain rfl | rfl | rfl | rfl | rfl | ⟨high, places, width⟩ := code_of_cvtBits_pos c h
  · exact ⟨.inl ⟨rfl, rfl⟩, rfl⟩
  · exact ⟨.inr (.inl ⟨rfl, rfl⟩), rfl⟩
  · exact ⟨.inr (.inr (.inl ⟨rfl, rfl⟩)), rfl⟩
  · exact ⟨.inr (.inr (.inr ⟨rfl, rfl⟩)), rfl⟩
  · exact ⟨trivial, rfl⟩
  · rw [fmtOfCode_p8 c high, width]
    exact ⟨⟨Nat.pos_of_ne_zero places, Nat.lt_succ_iff.mp (Nat.mod_lt _ (by decide))⟩, rfl⟩

/-- A part that VFCVT knows ends within 32 bits, or is the only one. -/
theorem part_fits (k part : Nat) (hp : part < max 1 (32 / k)) : k * part + k ≤ max k 32 := by
  calc k * part + k = k * (part + 1) := (Nat.mul_succ k part).symm
    _ ≤ k * max 1 (32 / k) := Nat.mul_le_mul_left k hp
    _ = max k (k * (32 / k)) := by rw [← Nat.mul_max_mul_left, Nat.mul_one]
    _ ≤ max k 32 := max_le_max_left k (Nat.mul_div_le 32 k)

/-- As many elements as VFCVT takes fit in 32 bits, unless they are wider than that. -/
theorem cvtElems_mul_le {ws wd w : Nat} (hw : w ≤ max ws wd) : cvtElems ws wd * w ≤ max 32 w := by
  unfold cvtElems
  split
  next => omega
  next => exact ((Nat.mul_le_mul_left _ hw).trans (Nat.div_mul_le_self 32 _)).trans (le_max_left _ _)

theorem cvtBits_le (c : Byte) : cvtBits c ≤ if cvtBits c == 64 then 64 else 32 := by
  rcases cvtBits_cases c with w | w | w | w | w | w <;> rw [w] <;> decide

/-- The bits that VFCVT writes lie within the lane. -/
theorem cvt_fields_fit (src dst : Byte) {part : Nat}
    (hp : part < max 1 (32 / (cvtElems (cvtBits src) (cvtBits dst) * min (cvtBits src) (cvtBits dst)))) :
    (if cvtBits dst ≤ cvtBits src then cvtElems (cvtBits src) (cvtBits dst) * min (cvtBits src) (cvtBits dst) * part else 0) +
      cvtBits dst * cvtElems (cvtBits src) (cvtBits dst) ≤ if cvtBits dst == 64 then 64 else 32 := by
  have lane : max 32 (cvtBits dst) ≤ if cvtBits dst == 64 then 64 else 32 := max_le (by split <;> decide) (cvtBits_le dst)
  have elements : cvtElems (cvtBits src) (cvtBits dst) * cvtBits dst ≤ max 32 (cvtBits dst) := cvtElems_mul_le (le_max_right _ _)
  rw [Nat.mul_comm (cvtBits dst)]
  by_cases down : cvtBits dst ≤ cvtBits src
  · rw [min_eq_right down] at hp
    rw [if_pos down, min_eq_right down]
    exact (part_fits _ _ hp).trans ((max_le elements (le_max_left _ _)).trans lane)
  · rw [if_neg down, Nat.zero_add]
    exact elements.trans lane

/-! ### The instruction -/

variable {s : State}

/-- Element `i` of lane `l`, converted: its code and its flags. -/
def State.cvtElem (s : State) (dst src : Byte) (part : BitVec 3) (r : Rnd) (a : VReg) : Res := fun l i =>
  once s (fmtOfCode dst) r (decodeF (fmtOfCode src) (s.g.f4x.toNat % 2 ^ 16)
    (bitsAt (s.g.laneOf (cvtBits src == 64) a l)
      (if cvtBits dst ≤ cvtBits src then cvtBits src * i
        else cvtElems (cvtBits src) (cvtBits dst) * min (cvtBits src) (cvtBits dst) * part.toNat + cvtBits src * i) (cvtBits src)), 0)

/-- A converted lane is its elements' codes, one after another, in what the destination held where that is kept. -/
theorem cvt1_eq (s : State) (dst src : Byte) (part : BitVec 3) (r : Rnd) (d a : VReg) (l : Nat) :
    s.g.cvt1 dst src part r d a l =
      setFields (if cvtBits dst ≤ cvtBits src then cvtElems (cvtBits src) (cvtBits dst) * min (cvtBits src) (cvtBits dst) * part.toNat else 0)
        (cvtBits dst) (s.cvtElem dst src part r a l)
        (if cvtBits dst < 32 ∧ cvtBits dst < cvtBits src then s.g.laneOf (cvtBits dst == 64) d l else 0)
        (cvtElems (cvtBits src) (cvtBits dst)) := by
  have f4x : bitsAt s.g.f4x.toNat 0 16 = s.g.f4x.toNat % 2 ^ 16 := by rw [bitsAt, pow_zero, Nat.div_one]
  unfold Group.cvt1 cvtLane setFields State.cvtElem once
  by_cases down : cvtBits dst ≤ cvtBits src
  · simp only [if_pos down, f4x, Nat.or_zero]
  · simp only [if_neg down, f4x, Nat.or_zero, Nat.zero_add]

theorem cvtElem_lt (s : State) (dst src : Byte) (part : BitVec 3) (r : Rnd) (a : VReg) (l i : Nat) (hd : 0 < cvtBits dst) :
    (s.cvtElem dst src part r a l i).1 < 2 ^ cvtBits dst := by
  obtain ⟨format, width⟩ := fmtOfCode_spec dst hd
  rw [← width]
  exact cvt_lt format _ _ _

/-- A field below the end of a number is a field of its low part. -/
theorem bitsAt_mod {lo len n : Nat} (x : Nat) (h : lo + len ≤ n) : bitsAt (x % 2 ^ n) lo len = bitsAt x lo len := by
  refine Nat.eq_of_testBit_eq fun j => ?_
  rw [bitsAt_testBit, bitsAt_testBit, Nat.testBit_mod_two_pow]
  by_cases within : j < len
  · rw [decide_eq_true (show lo + j < n by omega), Bool.true_and]
  · rw [decide_eq_false within, Bool.false_and, Bool.false_and]

theorem floats_vfcvt (h : s.issuing) (p : Pred) {dst src : Byte} {part : BitVec 3} (r : Rnd) (d a : VReg) (hd : 0 < cvtBits dst)
    (hp : part.toNat < max 1 (32 / (cvtElems (cvtBits src) (cvtBits dst) * min (cvtBits src) (cvtBits dst)))) :
    let m := cvtElems (cvtBits src) (cvtBits dst)
    let o := m * min (cvtBits src) (cvtBits dst) * part.toNat
    let wd := cvtBits dst
    Floats s (.vfcvt p dst src part r d a)
      (fun b => ∃ l i, l < 32 ∧ i < m ∧ (s.sel p).getLsbD l = true ∧ (s.cvtElem dst src part r a l i).2.testBit b = true)
      { v := vDest (wd == 64) d } fun t => ∀ l, l < 32 →
        ((s.sel p).getLsbD l = false → t.g.laneOf (wd == 64) d l = s.g.laneOf (wd == 64) d l) ∧
        ((s.sel p).getLsbD l = true →
          (∀ i, i < m → bitsAt (t.g.laneOf (wd == 64) d l) (if wd ≤ cvtBits src then o + wd * i else wd * i) wd =
            (s.cvtElem dst src part r a l i).1) ∧
          (wd < 32 → wd < cvtBits src → ∀ j, j < 32 → j < o ∨ o + m * wd ≤ j →
            (t.g.laneOf (wd == 64) d l).testBit j = (s.g.laneOf (wd == 64) d l).testBit j)) := by
  intro m o wd
  have next : exec (.vfcvt p dst src part r d a) s = .next (s.floatwise p (wd == 64) d (s.g.cvt1 dst src part r d a)) := rfl
  refine floats_of_wrs h next (vecWrites_inside _ _ _ _ rfl) (fun b _ => ?_) fun l hl => ?_
  · rw [laneFlags_testBit]
    refine exists_congr fun l => ?_
    rw [cvt1_eq, setFields_flags]
    constructor
    · rintro ⟨hl, on, i, hi, up⟩
      exact ⟨i, hl, hi, on, up⟩
    · rintro ⟨i, hl, hi, on, up⟩
      exact ⟨hl, on, i, hi, up⟩
  · have lane := State.flagged_laneOf h (wd == 64) d (s.sel p) (fun l => (s.g.cvt1 dst src part r d a l).1)
      (laneFlags (s.sel p) (s.g.cvt1 dst src part r d a)) hl
    refine ⟨fun off => ?_, fun on => ⟨fun i hi => ?_, fun narrow down j hj outside => ?_⟩⟩
    · rwa [if_neg (by rw [off]; exact Bool.false_ne_true)] at lane
    · have room : (if wd ≤ cvtBits src then o else 0) + wd * m ≤ if wd == 64 then 64 else 32 := cvt_fields_fit src dst hp
      have field : wd * (i + 1) ≤ wd * m := Nat.mul_le_mul_left wd hi
      have place : (if wd ≤ cvtBits src then o + wd * i else wd * i) = (if wd ≤ cvtBits src then o else 0) + wd * i := by
        split <;> omega
      rw [if_pos on] at lane
      refine (congrArg (bitsAt · _ wd) lane).trans ?_
      rw [Nat.mul_succ] at field
      rw [place, bitsAt_mod _ (by omega), cvt1_eq]
      exact setFields_field (fun i => cvtElem_lt s dst src part r a l i hd) _ hi
    · have single : (wd == 64) = false := beq_false_of_ne (by omega)
      rw [if_pos on, single, if_neg Bool.false_ne_true, cvt1_eq, if_pos down.le, if_pos ⟨narrow, down⟩] at lane
      rw [single]
      refine (congrArg (Nat.testBit · j) lane).trans ?_
      rw [Nat.testBit_mod_two_pow, decide_eq_true hj, Bool.true_and]
      refine (setFields_outside _ _ _ _ _ (by rwa [Nat.mul_comm wd])).trans ?_
      rw [single]

end Sys2Proof.Machine
end

section
/-! PROOF. The float order and the conversions together (11 R286-R288, R292-R296). -/

namespace Sys2Proof.Machine

open Sys2Proof.Claim

/-- Settles O17: the order by `fminmax_eq` and `fcmp_iff`, the classes by `classOf`, the conversions by what each makes of an element. -/
theorem floatOrderAndConversions : Obligations.FloatOrderAndConversions := by
  unfold Obligations.FloatOrderAndConversions
  constructor
  · intro s h p ty d a y k cond hty x z xc zc nv
    refine ⟨fun pick hpick => ?_, fun pick hpick => ?_, fun hk _ => floats_vfcmp h p ty k hk a y cond, fun cls hcls => ?_⟩
    · refine floatLanes_fminmax h false hty rfl fun l i => ?_
      obtain ⟨both, left, right, before, after⟩ := hpick l i
      exact fminmax_eq rfl rfl both left right before after
    · refine floatLanes_fminmax h true hty rfl fun l i => ?_
      obtain ⟨both, left, right, before, after⟩ := hpick l i
      exact fminmax_eq rfl rfl both left right before after
    · have class_eq (l i : Nat) : cls l i = classOf (fmtOf ty) (fElem s ty a l i) := by
        have given := hcls l i
        change cls l i = classOf (fmtOf ty) (x l i)
        cases v : x l i with
        | nan sig => rw [given, v]; rfl
        | inf g => rw [given, v]; rfl
        | fin g m e st =>
          rw [given, v]
          simp only [classOf, lt_two_pow_prec_iff hty (elemAt_lt ty _ i) v]
      simp only [class_eq]
      exact ends_vfclass h p hty d a
  · intro s h p ty r rm d a u bf dst src part ws wd m nw o res
    refine ⟨fun _ hd hp => floats_vfcvt h p r d a hd hp, fun _ => floatLanes_vftoi h p u ty rm d a, fun f hf => ?_, fun hty out hout => ?_⟩
    · rcases hf with ⟨rfl | rfl, rfl, rfl⟩ | ⟨rfl | rfl, rfl, rfl⟩ | ⟨rfl | rfl, rfl, rfl⟩ | ⟨rfl | rfl, rfl, rfl⟩ <;>
        exact floatLanes_vitof h p r d a (by simp [floatTy]) rfl rfl
    · refine floatLanes_vfrnd h p hty rm d a fun l i => ?_
      have rounded := hout l i
      cases v : fElem s ty a l i with
      | nan sig =>
        rw [v] at rounded
        exact rndF_of_nan v rounded
      | inf g =>
        rw [v] at rounded
        rw [rounded]
        exact rndF_of_inf v
      | fin g n e st =>
        rw [v] at rounded
        obtain ⟨fits, k, integer, finite, sign, value⟩ := rounded
        exact rndF_of_fin hty (s.g.roundMode_ne_dyn rm) (elemAt_lt ty _ i) v fits integer finite sign value

end Sys2Proof.Machine
end

section
/-! PROOF. What a write at a home leaves of the tasks (02 R62, R66; 04 R113; 12 R322): every operation in flight, every launch,
and of each group whether it is ending. Of the groups it may wake the paths that monitor the bytes written, and no more. -/

namespace Sys2Proof.Machine

/-- What of a state the ends of tasks depend on: the operations in flight, the launches, and how each group is ending. -/
def State.tasks (s : State) : Store OpRec × Store Launch × (Nat → Option (Option Ending)) :=
  (s.ops, s.launches, fun gid => (Store.find s.groups gid).map (·.ending))

variable (s : State)

theorem State.ops_of_tasks {t : State} (h : t.tasks = s.tasks) : t.ops = s.ops := congrArg (·.1) h

theorem State.launches_of_tasks {t : State} (h : t.tasks = s.tasks) : t.launches = s.launches := congrArg (·.2.1) h

theorem State.ending_of_tasks {t : State} (h : t.tasks = s.tasks) (gid : Nat) :
    (Store.find t.groups gid).map (·.ending) = (Store.find s.groups gid).map (·.ending) := congrFun (congrArg (·.2.2) h) gid

/-- A fold whose steps keep the tasks of the state in it keeps them. -/
theorem State.foldl_tasks {α β : Type} (get : β → State) (f : β → α → β) (h : ∀ t x, (get (f t x)).tasks = (get t).tasks)
    (l : List α) (t : β) : (get (l.foldl f t)).tasks = (get t).tasks :=
  List.foldlRecOn l f (motive := fun u => (get u).tasks = (get t).tasks) rfl fun u hu x _ => (h u x).trans hu

/-! ### Waking the paths that monitor a word -/

theorem State.modPath_tasks (gid : Nat) (b : Bool) (f : Path → Path) : (s.modPath gid b f).tasks = s.tasks := by
  unfold State.modPath State.modGrp
  split
  · next g hg =>
    refine congrArg (s.ops, s.launches, ·) (funext fun k => ?_)
    by_cases hk : k = gid
    · subst hk
      rw [State.setGrp_groups, Store.find_put_same, hg]
      cases b <;> rfl
    · rw [State.setGrp_groups, Store.find_put_ne _ _ hk]
  · rfl

theorem State.gongPath_tasks (gid : Nat) (b : Bool) : (s.gongPath gid b).tasks = s.tasks := by
  unfold State.gongPath
  split <;> rfl

theorem State.gongMonitors_tasks (d : Nat) (hit : List Monitor) : (s.gongMonitors d hit).tasks = s.tasks := by
  unfold State.gongMonitors
  split
  · rfl
  · exact State.foldl_tasks id _ (fun t m => (State.gongPath_tasks _ _ _).trans (State.modPath_tasks _ _ _ _)) hit _

/-! ### Bytes and updates -/

theorem State.write_tasks (a : Nat) (bs : List Byte) : (s.write a bs).tasks = s.tasks := by
  have raw : (s.writeRaw a bs).tasks = s.tasks := by
    induction bs generalizing s a with
    | nil => rfl
    | cons b bs ih => exact ih (s.writeByte a b) (a + 1)
  exact raw

theorem State.sendUpdates_tasks (die pa : Nat) (bs : List Byte) (tags : BitVec 8) (sid : Nat) (own : Option (Nat × Nat × Nat)) :
    (s.sendUpdates die pa bs tags sid own).1.tasks = s.tasks := by
  unfold State.sendUpdates
  refine State.foldl_tasks Prod.fst _ (fun t piece => ?_) _ (s, 0)
  rfl

theorem State.homeStoreAck_tasks (pa : Nat) (bs : List Byte) (tag : Bool) (sid : Nat) (own : Option (Nat × Nat × Nat)) :
    (s.homeStoreAck pa bs tag sid own).1.tasks = s.tasks := by
  have stored : ((if tag then (s.write pa bs).setTag pa true else s.write pa bs).fireMonitors pa bs.length).tasks = s.tasks := by
    rw [State.fireMonitors, State.gongMonitors_tasks]
    cases tag <;> exact s.write_tasks pa bs
  unfold State.homeStoreAck
  dsimp only
  split
  · rw [State.sendUpdates_tasks, stored]
  · exact stored

/-! ### Allowance records (04 R111-R128) -/

theorem State.setCrec_tasks (pa : Nat) (r : CRec) : (s.setCrec pa r).tasks = s.tasks := s.homeStoreAck_tasks pa r.bytes false 0 none

theorem State.grantNow_tasks (core pa op k : Nat) : (s.grantNow core pa op k).tasks = s.tasks := s.setCrec_tasks pa _

theorem State.serveOne_tasks (pa : Nat) (t : State × List (Nat × Nat × Nat)) (w : AWait) :
    (State.serveOne pa t w).1.tasks = t.1.tasks := by
  unfold State.serveOne
  dsimp only
  split
  · exact State.setCrec_tasks _ _ _
  · split
    · rfl
    · split
      · rfl
      · split
        · split
          · exact State.setCrec_tasks _ _ _
          · rfl
        · rfl

theorem State.rebalance_tasks (pa share : Nat) (t : State) (w : Nat × Nat × Nat) : (State.rebalance pa share t w).tasks = t.tasks :=
  t.setCrec_tasks pa _

theorem State.serve_tasks (pa : Nat) : (s.serve pa).tasks = s.tasks := by
  unfold State.serve
  dsimp only
  exact (State.foldl_tasks id _ (State.rebalance_tasks pa _) _ _).trans
    ((State.setCrec_tasks _ _ _).trans (State.foldl_tasks Prod.fst _ (State.serveOne_tasks pa) _ (_, [])))

theorem State.openRound_tasks (pa : Nat) : (s.openRound pa).tasks = s.tasks := State.setCrec_tasks _ pa _

theorem State.settle_tasks (fuel : Nat) (pa : Nat) : (State.settle fuel s pa).tasks = s.tasks := by
  induction fuel generalizing s with
  | zero => rfl
  | succ n ih =>
    unfold State.settle
    dsimp only
    split
    · split
      · rw [ih, State.serve_tasks]
      · rfl
    · split
      · rfl
      · split
        · split
          · rw [ih]; rfl
          · split
            · rw [ih]; rfl
            · split
              · rw [ih, State.grantNow_tasks]; rfl
              · rw [ih, State.openRound_tasks]
        · rw [ih, State.openRound_tasks]

theorem State.dropHolders_tasks (pa : Nat) : (s.dropHolders pa).tasks = s.tasks := by
  unfold State.dropHolders
  dsimp only
  refine (State.setCrec_tasks _ _ _).trans ?_
  show (List.foldl _ s _).tasks = s.tasks
  exact State.foldl_tasks id _ (fun _ _ => by rfl) _ s

/-! ### Writes at a home, with what they recall -/

theorem State.homeWriteAck_tasks (pa : Nat) (bs : List Byte) (tag : Bool) (sid : Nat) (own : Option (Nat × Nat × Nat)) :
    (s.homeWriteAck pa bs tag sid own).1.tasks = s.tasks := by
  unfold State.homeWriteAck
  dsimp only
  exact (State.foldl_tasks id _ (fun t p => t.settle_tasks _ p) _ _).trans
    ((State.homeStoreAck_tasks _ _ _ _ _ _).trans (State.foldl_tasks id _ State.dropHolders_tasks _ s))

theorem State.writeDirty_tasks (pa : Nat) (data : BitVec 1024) (dirty : BitVec 128) (tags : BitVec 8) (sid : Nat) :
    (s.writeDirty pa data dirty tags sid).1.tasks = s.tasks := by
  unfold State.writeDirty
  refine State.foldl_tasks Prod.fst _ (fun t g => ?_) _ (s, 0)
  dsimp only
  split
  · exact State.homeWriteAck_tasks _ _ _ _ _ _
  · refine State.foldl_tasks Prod.fst _ (fun u run => ?_) _ t
    exact State.homeWriteAck_tasks _ _ _ _ _ _

theorem State.recallLine_tasks (l : Nat) : (s.recallLine l).tasks = s.tasks := by
  unfold State.recallLine
  dsimp only
  split
  · rfl
  · split
    · rfl
    · split
      · exact State.writeDirty_tasks _ _ _ _ _ _
      · split
        · exact State.writeDirty_tasks _ _ _ _ _ _
        · rfl

theorem State.homeWriteNow_tasks (pa : Nat) (bs : List Byte) : (s.homeWriteNow pa bs).tasks = s.tasks := by
  have recalled : (s.recallNow pa bs.length).tasks = s.tasks := by
    unfold State.recallNow
    split
    · exact State.foldl_tasks id _ State.recallLine_tasks _ s
    · rfl
  exact (State.homeWriteAck_tasks _ _ _ _ _ _).trans recalled

/-! ### Event records (20 R430) -/

theorem State.event_tasks (part kind detail dies : Nat) : (s.event part kind detail dies).tasks = s.tasks := by
  unfold State.event
  dsimp only
  split
  · rfl
  · exact s.homeWriteNow_tasks _ _

/-- An event takes the next number of its partition, whether its record is written or dropped. -/
theorem State.event_eseq (part kind detail dies : Nat) :
    ((s.event part kind detail dies).part part).eseq = (s.part part).eseq + 1 := by
  unfold State.event
  dsimp only
  split <;> simp [State.part, State.setPart]

end Sys2Proof.Machine
end

section
/-! PROOF. Traps (16 R391, R392, R394; 13 R340, R344): a group enters its handler, holds or drops a cause, or is escalated; a
task that is escalated while operations of its group are under way stays until they complete (07 R180). -/

namespace Sys2Proof.Machine

open Sys2Proof.Claim

variable {s : State} {gid : Nat}

/-! ### Entering the handler -/

section Trapped

variable (g : Group) (b : Bool) (a : VA) (code : Nat) (faddr : W64) (unf : Mask)

@[simp] theorem Group.trapped_frame : ((g.trapped b a code faddr unf).path b).frame =
    some ⟨(g.path b).left, (g.path b).seta, (g.path b).setb, (g.path b).loops, (g.path b).mask, (g.path b).pc.zeroExtend 64,
      !Code.resumes code, (g.path b).phase, (g.path b).wrote⟩ := by cases b <;> rfl
@[simp] theorem Group.trapped_loops : ((g.trapped b a code faddr unf).path b).loops = [] := by cases b <;> rfl
@[simp] theorem Group.trapped_left : ((g.trapped b a code faddr unf).path b).left = 0 := by cases b <;> rfl
@[simp] theorem Group.trapped_live : ((g.trapped b a code faddr unf).path b).live = (g.path b).live := by cases b <;> rfl

end Trapped

theorem State.sameOutside.launches {t : State} (h : s.sameOutside t) : t.launches = s.launches := by
  have kept := congrArg State.launches (show { t with groups := s.groups } = s from h)
  exact kept

theorem State.grp_of_find {g : Group} (h : Store.find s.groups gid = some g) : s.grp gid = g := by rw [State.grp, h, Option.getD_some]

theorem State.find_grp (h : (Store.find s.groups gid).isSome = true) : Store.find s.groups gid = some (s.grp gid) := by
  obtain ⟨g, hg⟩ := Option.isSome_iff_exists.mp h
  rw [State.grp_of_find hg, hg]

theorem State.enterHandler_enters (hg : (Store.find s.groups gid).isSome = true) (b : Bool) (h : VA) (code : Nat) (faddr : W64) (unf : Mask) :
    EntersHandler s (s.enterHandler gid b h code faddr unf) gid b h code faddr unf (!Code.resumes code) := by
  have found := State.find_grp hg
  unfold EntersHandler
  dsimp only
  rw [s.enterHandler_grp gid b code faddr unf h found]
  simp only [Group.trapped_cause, Group.trapped_faddr, Group.trapped_epc, Group.trapped_emask, Group.trapped_frame, Group.trapped_loops,
    Group.trapped_left, Group.trapped_pc, Group.trapped_mask, Group.trapped_live, Group.trapped_wait, Group.trapped_stack,
    Group.trapped_other, Group.trapped_sregs, Group.trapped_vregs, Group.trapped_cregs, Group.trapped_kregs, Group.trapped_fpcsr,
    Option.some.injEq, exists_eq_left', true_and]
  refine ⟨?_, fun k hk => s.enterHandler_others gid b code faddr unf h found hk, s.enterHandler_outside gid b code faddr unf h found⟩
  cases Code.resumes code <;> rfl

theorem trapOn_enters {h : VA} (hh : hasHandler s gid h) (b : Bool) (code : Nat) (faddr : W64) (unf : Mask) :
    EntersHandler s (s.trapOn gid b code faddr unf) gid b h code faddr unf (!Code.resumes code) := by
  obtain ⟨found, debug, noA, noB, l, e, hl, he, rfl⟩ := hh
  have noFrame (c : Bool) : ((s.grp gid).path c).frame = none := by cases c <;> assumption
  rw [s.trapOn_handler gid b code faddr unf debug (noFrame b) (noFrame !b)]
  · exact State.enterHandler_enters found b _ code faddr unf
  · rw [hl, Option.bind_some, Launch.handler, he, Option.map_some]

/-- The causes whose trap point is behind the instruction (16 Table 16.1): ARITH, software, JOIN_FAULT. -/
theorem resumes_iff (code : Nat) : Code.resumes code = true ↔ code = 0x30 ∨ code = 0x40 ∨ code = 0x58 := by
  simp [Code.resumes, Code.arith, Code.software, Code.joinFault, or_assoc]

/-! ### TRAP, BRK and UDF (13 R340, R344) -/

/-- A group whose issuing path changes, but for its frame, has the same handler. -/
theorem hasHandler_modP {h : VA} (hh : hasHandler s s.cur.gid h) {f : Path → Path} (hf : (f s.p).frame = s.p.frame) :
    hasHandler (s.modP f) s.cur.gid h := by
  obtain ⟨found, debug, noA, noB, l, e, hl, he, hpc⟩ := hh
  have issuing : s.issuing := found
  have changed : (s.modP f).grp s.cur.gid = s.g.setPath s.cur.b (f s.p) := by
    have g_eq := State.modG_g issuing fun g => g.setPath s.cur.b (f (g.path s.cur.b))
    rwa [State.g, State.modG_cur] at g_eq
  have launches : (s.modP f).launches = s.launches := (State.modP_frame issuing f).outside.launches
  unfold hasHandler State.launchOf
  rw [changed, launches]
  have noFrame : (f s.p).frame = none := by
    rw [hf, State.p_eq]
    cases s.cur.b <;> assumption
  refine ⟨?_, ?_, ?_, ?_, l, e, ?_, he, hpc⟩
  · have still : (s.modP f).issuing := State.modG_issuing issuing _
    rwa [State.issuing, State.modP, State.modG_cur] at still
  all_goals cases s.cur.b <;> assumption

theorem ends_trap {h : VA} (hh : hasHandler s s.cur.gid h) (imm : Byte) : Ends (.trap imm) s fun t =>
    EntersHandler (s.modP fun p => p.past 8) t s.cur.gid s.cur.b h 0x40 (imm.zeroExtend 64) 0 false := by
  have behind := trapOn_enters (hasHandler_modP (f := fun p => p.past 8) hh rfl) s.cur.b Code.software (imm.zeroExtend 64) 0
  refine ⟨(s.modP fun p => p.past 8).trapOn s.cur.gid s.cur.b Code.software (imm.zeroExtend 64) 0, ?_, behind⟩
  have unfolded : exec (.trap imm) s = .next ((s.modP fun p => p.past 8).trap Code.software (imm.zeroExtend 64) 0) := rfl
  rw [unfolded, State.trap, State.modP, State.modG_cur]

theorem ends_brk {h : VA} (hh : hasHandler s s.cur.gid h) (imm : Byte) : Ends (.brk imm) s fun t =>
    EntersHandler s t s.cur.gid s.cur.b h 0x48 (imm.zeroExtend 64) s.act true :=
  ⟨_, rfl, trapOn_enters hh s.cur.b Code.breakpoint (imm.zeroExtend 64) s.act⟩

theorem ends_udf {h : VA} (hh : hasHandler s s.cur.gid h) : Ends .udf s fun t =>
    EntersHandler s t s.cur.gid s.cur.b h 0x04 (s.p.pc.zeroExtend 64) s.act true :=
  ⟨_, rfl, trapOn_enters hh s.cur.b Code.illegalOpcode (s.p.pc.zeroExtend 64) s.act⟩

/-! ### The end of a task with operations under way (07 R180) -/

/-- A group whose paths have stopped and whose task is ending: an end that it already has stays. -/
def Group.exiting (g : Group) (e : Ending) : Group :=
  { g with
    pa := { g.pa with live := false, wait := .none }
    pb := { g.pb with live := false, wait := .none }
    ending := some (g.ending.getD e) }

theorem State.drained_of_open (h : ∃ o ∈ s.ops, o.2.gid = gid ∧ o.2.parked = false) : s.drained gid = false := by
  obtain ⟨o, ho, hgid, hparked⟩ := h
  rw [State.drained, Bool.not_eq_false']
  exact List.any_eq_true.mpr ⟨o, ho, by simp [hgid, hparked]⟩

/-- The sweep changes nothing where every group that is ending has operations under way. -/
theorem State.sweep_eq_self (h : ∀ k, (s.grp k).ending = none ∨ s.drained k = false) : s.sweep = s := by
  unfold State.sweep
  refine List.foldlRecOn s.groups _ (motive := fun t => t = s) rfl fun t ht e _ => ?_
  rw [ht]
  rcases h e.1 with idle | waits
  · rw [idle]
  · have stays : s.endable e.1 = (s, false) := by rw [State.endable, waits]; rfl
    rw [stays]
    cases (s.grp e.1).ending <;> rfl

theorem State.exitTask_of_open {g : Group} (hg : Store.find s.groups gid = some g) (e : Ending) (waits : s.drained gid = false)
    (others : ∀ k, k ≠ gid → (s.grp k).ending = none) : s.exitTask gid e = s.setGrp gid (g.exiting e) := by
  have modified : s.exitTask gid e = (s.modGrp gid fun g => g.exiting e).sweep := rfl
  rw [modified, State.modGrp_of_find _ hg]
  refine State.sweep_eq_self fun k => ?_
  by_cases hk : k = gid
  · exact .inr (hk ▸ waits)
  · left
    have same : (s.setGrp gid (g.exiting e)).grp k = s.grp k := by rw [State.grp, State.setGrp_groups, Store.find_put_ne _ _ hk, State.grp]
    rw [same, others k hk]

/-! ### Escalation (16 R394) -/

theorem Store.mem_of_find {α : Type} {m : Store α} {n : Nat} {x : α} (h : Store.find m n = some x) : (n, x) ∈ m := by
  induction m with
  | nil => exact absurd h (by simp)
  | cons e r ih =>
    obtain ⟨k, v⟩ := e
    rw [Store.find] at h
    split at h
    · next hk =>
      obtain rfl := Option.some.inj h
      exact hk ▸ List.mem_cons_self
    · exact List.mem_cons_of_mem _ (ih h)

/-- A group that is not ending is not ending in any state of the same tasks. -/
theorem State.not_ending_of_tasks {t : State} (h : t.tasks = s.tasks) (hs : ∀ x ∈ s.groups, x.2.ending = none) (k : Nat) :
    (t.grp k).ending = none := by
  have kept := State.ending_of_tasks s h k
  rw [State.grp]
  cases hf : Store.find t.groups k with
  | none => rfl
  | some g' =>
    rw [hf] at kept
    obtain ⟨g, hg, he⟩ := Option.map_eq_some_iff.mp kept.symm
    exact he.symm.trans (hs _ (Store.mem_of_find hg))

@[simp] theorem State.abortLaunch_groups (lid : Nat) : (s.abortLaunch lid).groups = s.groups := by
  unfold State.abortLaunch
  split <;> rfl

@[simp] theorem State.abortLaunch_ops (lid : Nat) : (s.abortLaunch lid).ops = s.ops := by
  unfold State.abortLaunch
  split <;> rfl

@[simp] theorem State.abortLaunch_parts (lid : Nat) : (s.abortLaunch lid).parts = s.parts := by
  unfold State.abortLaunch
  split <;> rfl

theorem State.abortLaunch_aborted {lid : Nat} {l : Launch} (hl : Store.find s.launches lid = some l) :
    (Store.find (s.abortLaunch lid).launches lid).map (·.aborted) = some true := by
  unfold State.abortLaunch
  rw [hl, Store.find_put_same, Option.map_some]

/-- What escalation does to a task with operations under way: both paths stop, the task is ending with its cause and fault
address, its launch is aborted, and an event is written. -/
theorem State.escalate_of_open {g : Group} {l : Launch} (hg : Store.find s.groups gid = some g) (hl : Store.find s.launches g.launch = some l)
    (waits : ∃ o ∈ s.ops, o.2.gid = gid ∧ o.2.parked = false) (hs : ∀ x ∈ s.groups, x.2.ending = none) (code : Nat) (faddr : W64) :
    let t := s.escalate gid code faddr
    (t.grp gid).pa.live = false ∧ (t.grp gid).pb.live = false ∧ (t.grp gid).ending = some (.fault code faddr.toNat) ∧
      (Store.find t.launches g.launch).map (·.aborted) = some true ∧
      (t.part (s.partOf g.asid)).eseq = (s.part (s.partOf g.asid)).eseq + 1 := by
  let u := s.event (s.partOf g.asid) 2 (faddr.toNat % 2 ^ 57 + code % 128 * 2 ^ 57) (2 ^ dieOf g.core)
  have tasks : u.tasks = s.tasks := s.event_tasks _ _ _ _
  have notEnding := State.not_ending_of_tasks tasks hs
  obtain ⟨g', hg', -⟩ := Option.map_eq_some_iff.mp ((State.ending_of_tasks s tasks gid).trans (congrArg _ hg))
  have ending : g'.ending = none := State.grp_of_find hg' ▸ notEnding gid
  have escalated : s.escalate gid code faddr = (u.abortLaunch g.launch).setGrp gid (g'.exiting (.fault code faddr.toNat)) := by
    rw [State.escalate, State.grp_of_find hg]
    refine State.exitTask_of_open ?_ _ (State.drained_of_open ?_) fun k _ => ?_
    · rw [State.abortLaunch_groups, hg']
    · rwa [State.abortLaunch_ops, State.ops_of_tasks s tasks]
    · rw [State.grp, State.abortLaunch_groups]
      exact notEnding k
  dsimp only
  rw [escalated, State.grp_of_find (Store.find_put_same _ _ _), Group.exiting, ending]
  refine ⟨rfl, rfl, rfl, ?_, ?_⟩
  · exact State.abortLaunch_aborted (by rw [State.launches_of_tasks s tasks, hl])
  · rw [State.part, State.setGrp_parts, State.abortLaunch_parts]
    exact s.event_eseq _ _ _ _

/-- A trap is escalated in handler mode, and where the kernel has no handler. -/
theorem State.trapOn_escalates {g : Group} {l : Launch} (hg : Store.find s.groups gid = some g)
    (hl : Store.find s.launches g.launch = some l) (debug : g.debug = false) {b : Bool}
    (h : (g.path b).frame.isSome = true ∨ (g.pa.frame = none ∧ g.pb.frame = none ∧ l.entries[l.hent]? = none))
    (code : Nat) (faddr : W64) (unf : Mask) : s.trapOn gid b code faddr unf = s.escalate gid code faddr := by
  have hgrp := State.grp_of_find hg
  rcases h with twice | ⟨noA, noB, noEntry⟩
  · exact s.trapOn_twice gid b code faddr unf (hgrp ▸ debug) (hgrp ▸ twice)
  · have noFrame (c : Bool) : ((s.grp gid).path c).frame = none := by rw [hgrp]; cases c <;> assumption
    refine s.trapOn_no_handler gid b code faddr unf (hgrp ▸ debug) (noFrame b) (noFrame !b) ?_
    rw [State.launchOf, hgrp, hl, Option.bind_some, Launch.handler, noEntry, Option.map_none]

/-- Settles O39: `trapOn_enters` for a group with a handler, `State.trapOn_waits` beside a handler, and `State.escalate_of_open`
for a trap that no handler takes. -/
theorem trapEntry : Obligations.TrapEntry := by
  unfold Obligations.TrapEntry
  refine ⟨fun s gid b code faddr unf imm => ⟨fun h hh => ?_, fun debug noFrame other => ?_, fun h hh => ?_⟩, ?_⟩
  · have enters := trapOn_enters hh b code faddr unf
    refine ⟨fun resumes => ?_, fun replays => ?_⟩
    · rwa [(resumes_iff code).mpr resumes] at enters
    · rwa [Bool.eq_false_iff.mpr (mt (resumes_iff code).mp replays)] at enters
  · have waits := s.trapOn_waits gid b code faddr unf debug noFrame other
    refine ⟨fun replays => ?_, fun resumes => ?_⟩
    · rwa [if_neg (mt (resumes_iff code).mp replays)] at waits
    · rwa [if_pos ((resumes_iff code).mpr resumes)] at waits
  · exact ⟨ends_trap hh imm, ends_brk hh imm, ends_udf hh⟩
  · intro s gid b code faddr unf g l hg hl debug _ cause waits hs
    dsimp only
    rw [State.trapOn_escalates hg hl debug cause]
    exact State.escalate_of_open hg hl waits hs code faddr

end Sys2Proof.Machine
end
